-- ==== Sys2Proof/Config.lean ====
section
/-! DEFINITION. What the spec leaves open, as constants with no body: nothing can evaluate them or prove a value of them. Each is applied to the free-value counter of the state or to the operands it depends on. -/

namespace Sys2Proof.Config

/-- Log entry 1. Which of the device's due events comes next (the `n`-th choice). -/
opaque pick : Nat → Nat

/-- Log entry 9. Which held entry a full cache or TLB gives up (R51, R89, R94). -/
opaque victim : Nat → Nat

/-- Log entry 20. Whether another package has storage behind a tier-1 or tier-2 address, which its own part decides (R38). -/
opaque peerBacked : Nat → Bool

/-- Log entry 10. How many of the unacknowledged packets of a stream that failed its slice had applied (R406, R407). -/
opaque failedApplied : Nat → Nat

/-- Log entry 8. How many cycles a partition's cycle adds to its die's counter (R255). -/
opaque cycles : Nat → Nat

/-- Log entry 11. Which of the values within two units in the last place a fast transcendental form returns (R266):
function, format, operand, direction. -/
opaque fastForm : Nat → Nat → Nat → Nat → Nat

/-- Log entry 11. The result of fast VSIN and VCOS beyond 2^15, within [-1, 1] (R266): function, format, operand, direction. -/
opaque fastTrig : Nat → Nat → Nat → Nat → Nat

/-- Log entry 13. The rounding of a reproducible transcendental whose enclosure at the model's precision still holds two
roundings (R266): function, format, operand, direction; true takes the upper one. -/
opaque tieUp : Nat → Nat → Nat → Nat → Bool

/-- Log entry 21. The highest rate of the host link at a revision of CXL (R395). -/
opaque linkRate : Nat → Nat

/-- Log entry 21. The SHA-384 digest of the active configuration (R418), given as its words. -/
opaque configDigest : List Nat → Nat

/-- Log entry 14. A value the spec does not state (the `n`-th such value). -/
opaque freeWord : Nat → Nat

/-- Log entry 109. The places beyond the last element of a row in its last container, as a copy writes them (R102): the request, and the
container's place in iteration order. -/
opaque tailWord : Nat → Nat → Nat

end Sys2Proof.Config
end

