-- ==== Sys2Proof/Word.lean ====
section
/-! DEFINITION. The words of the machine and the names of its units: bytes, 32- and 64-bit words, the 96-lane mask, and how a crew, a cox core or a slot is named. -/

namespace Sys2Proof

/-- One byte of memory. -/
abbrev Byte := BitVec 8
/-- A register lane, a scalar register or an instruction word. -/
abbrev Word := BitVec 32
/-- A register pair or a 64-bit register. -/
abbrev DWord := BitVec 64
/-- A lane mask of a crew (R156): bit `l` stands for lane `l`. -/
abbrev Mask := BitVec 96

/-- A table keyed by number: keys strictly rising, no entry equal to the table's default. -/
abbrev Tab (β : Type) := List (Nat × β)

/-- A unit that issues instructions (R111, R149): a crew, named by its launch (IDENT, R368), gang, workgroup and crew index,
or the cox core that serves a gang. -/
inductive UnitRef where
  | crew (ident : Word) (gang wg crew : Nat)
  | cox (ident : Word) (gang : Nat)
  deriving DecidableEq, Repr

/-- The launch a unit belongs to. -/
def UnitRef.ident : UnitRef → Word
  | .crew i _ _ _ => i
  | .cox i _ => i

/-- The gang a unit belongs to. -/
def UnitRef.gang : UnitRef → Nat
  | .crew _ g _ _ => g
  | .cox _ g => g

/-- The issuer of a step: a unit and the program-counter slot that issues (R157). -/
structure Issuer where
  unit : UnitRef
  slot : Nat
  deriving DecidableEq, Repr

end Sys2Proof
end

