-- ==== Sys2Proof/Syntax.lean ====
section
/-! DEFINITION. The syntax of the machine: the operand fields of each instruction format (R205 to R209) and ONE inductive of the table's rows, instructions and events alike. -/

namespace Sys2Proof

/-- The operand fields of the 64-bit and 96-bit formats (R206, R207); `lit` is the literal of the 96-bit form. -/
structure Op where
  d : BitVec 8
  sa : BitVec 8
  sb : BitVec 8
  sc : BitVec 8
  g : BitVec 6
  gn : Bool
  tea : Bool
  teb : Bool
  tec : Bool
  ty : BitVec 4
  fn : BitVec 8
  lit : Option Word
  deriving DecidableEq, Repr

/-- The extension word of the 96-bit memory format (R209). -/
structure MemExt where
  xa : BitVec 8
  xb : BitVec 8
  aop : BitVec 4
  ord : BitVec 2
  scope : BitVec 3
  texa : Bool
  texb : Bool
  rsv : BitVec 5
  deriving DecidableEq, Repr

/-- The operand fields of the 64-bit and 96-bit memory formats (R208, R209). -/
structure MemOp where
  data : BitVec 8
  base : BitVec 7
  g : BitVec 6
  gn : Bool
  off : BitVec 24
  szf : BitVec 4
  cp : BitVec 2
  tebase : Bool
  ted : Bool
  ext : Option MemExt
  deriving DecidableEq, Repr

/-- The rings in host memory that the device writes records to: faults (R61), access-counter events (R78), machine checks and
host signals (R399), debug events (R420). -/
inductive RingId where
  | fault | access | machineCheck | signal | debug
  deriving DecidableEq, Repr

/-- The identity of a stream of packets (R406): the sender's package, unit kind and index, the launch it acts for and the serial. -/
structure StreamKey where
  pkg : Nat
  unitKind : Nat
  index : Nat
  ident : Word
  serial : Word
  deriving DecidableEq, Repr

/-- A stream of packets as its sender knows it toward one package (R406): that package and the stream's identity. -/
structure FarStream where
  dst : Nat
  key : StreamKey
  deriving DecidableEq, Repr

/-- A drain token on a link (R409): this package's own, or that of the package at the far end. -/
structure DrainToken where
  link : Nat
  peer : Bool
  deriving DecidableEq, Repr

/-- A host snoop of a line of 64 bytes (R396), with the line's new bytes where a host write follows it. -/
structure Snoop where
  line : Nat
  write : Option (List Byte)
  deriving DecidableEq, Repr

/-- A read-modify-write on one location (R316, R318): the AOP code of R211 (7 stands for compare-and-swap), the SZF code of
R210, the operand, the compare value, and the rounding direction of a float addition (0 down, 1 up, 2 to nearest even, 3 toward zero). -/
structure RemoteAtomic where
  aop : Nat
  szf : Nat
  operand : DWord
  compare : DWord
  dir : Nat
  deriving DecidableEq, Repr

/-- What a packet of a stream asks of the receiving slice or trigger unit (R406, R407). -/
inductive Payload where
  /-- Bytes to write from LOCAL address `addr` on. -/
  | write (addr : Nat) (data : List Byte)
  /-- A no-return atomic at LOCAL address `addr`. -/
  | atomic (addr : Nat) (a : RemoteAtomic)
  /-- An ordered update (R137) for LOCAL address `addr`: key class, issuer, instruction count, element position, round. -/
  | ordered (addr : Nat) (a : RemoteAtomic) (kclass : Nat) (issuer : Nat) (icount : Nat) (elempos : Nat) (round : Nat)
  /-- The raise of trigger counter `idx` by `v`; `release` says whether it publishes (R134). -/
  | increment (idx : Nat) (v : Word) (release : Bool)
  /-- The round count of a peer dealer of the launch's package set (R373): rounds its share has passed, share fully retired. -/
  | rounds (rank : Nat) (passed : Nat) (retired : Bool)
  deriving DecidableEq, Repr

/-- A packet that crosses the fabric (R406): its stream, the slice it is for (48 is the trigger unit), its sequence number and payload. -/
structure Packet where
  key : StreamKey
  slice : Nat
  seq : Word
  payload : Payload
  deriving DecidableEq, Repr

/-- A firmware image as the boot ROM meets it (R417): whether its signature verifies under the key that the image before it
names, its security version, whether it asks for the fuse value to be raised, and its SHA-384 digest. -/
structure FwImage where
  signed : Bool
  version : Nat
  raises : Bool
  digest : Nat
  deriving DecidableEq, Repr

/-- What firmware writes at boot and at domain set-up (the F fields of R41, R399, R403, R404, R415): stepping, package number, unit
counts, and the routing and cluster tables by package. -/
structure FwConfig where
  step : BitVec 16
  pkgnum : BitVec 8
  unitcnt : DWord
  corecnt0 : DWord
  corecnt1 : DWord
  routes : List DWord
  clmaps : List DWord
  deriving DecidableEq, Repr

/-- An SPDM request as far as R418 distinguishes it. -/
inductive SpdmRequest where
  | getVersion
  | getCapabilities
  | negotiateAlgorithms (extendedBrainpool : Bool)
  | getDigests
  | getCertificate (slot : Nat)
  | setCertificate (slot : Nat) (chain : Nat)
  | challenge (slot : Nat)
  | getMeasurements (block : Nat)
  deriving DecidableEq, Repr

/-- One constructor per row of spec/opcode_table.json, in its order, but for nine events without a field, which stand last. -/
inductive Instr where
  /-- R218. 32-bit no-operation; it still raises each thread's instruction count. -/
  | nop
  /-- R229. 32-bit form of SADD.B32 with a 6-bit immediate as source B. -/
  | saddShort (d a : BitVec 8) (imm : BitVec 6)
  /-- R229. 32-bit form of SSUB.B32 with a 6-bit immediate as source B. -/
  | ssubShort (d a : BitVec 8) (imm : BitVec 6)
  /-- R229. 32-bit form of SSHL.B32 with a 6-bit immediate shift. -/
  | sshlShort (d a : BitVec 8) (imm : BitVec 6)
  /-- R229. 32-bit form of SSHR.B32 with a 6-bit immediate shift. -/
  | sshrShort (d a : BitVec 8) (imm : BitVec 6)
  /-- R218. 32-bit form of SMOV.B32 that copies one scalar register. -/
  | smovShort (d a : BitVec 8)
  /-- R218. 32-bit form of VMOV.F32 that carries each sibling unchanged. -/
  | vmovShort (d a : BitVec 8)
  /-- R243. Excludes the issuing slot from the next cycle in which another slot is ready. -/
  | yield
  /-- R242. Removes the active lanes of the issuing slot; on a cox core, it ends the stream. -/
  | exit
  /-- R159. Merges the two program-counter slots, or waits in JOINWAIT until the other slot arrives or becomes empty. -/
  | join
  /-- R241. Opens the bracket: saves the mask, takes every unexited lane and freezes the other slot. -/
  | bktOpen
  /-- R241. Closes the bracket, restores the saved mask and returns the frozen slot to its advanced state. -/
  | bktClose
  /-- R235. Branches to the code base plus LINK. -/
  | ret
  /-- R389. Returns from a trap handler: clears INH, restores the other slot and continues at RESUME. -/
  | tret
  /-- R253. Raises the breakpoint trap with a tag, or stops the partition when a debugger has claimed breakpoints. -/
  | bkpt (tag : BitVec 6)
  /-- R244. Arrives at a workgroup barrier and blocks the slot until the generation advances. -/
  | bar (n : BitVec 6)
  /-- R246. Raises the issuer's ordered-atomic round counter once its updates of the round are accepted. -/
  | ornd
  /-- R238. Moves the issuing slot's PC and mask into a parked record and empties the slot. -/
  | dpark (d : BitVec 8)
  /-- R239. Loads a parked record into the empty slot and makes it ready. -/
  | dresume (a : BitVec 8)
  /-- R240. Clears the active lanes from a parked record and reports whether its mask is now empty. -/
  | dprune (d a : BitVec 8)
  /-- R245. Arrives at the gang barrier shared by the gang's crews and its cox core. -/
  | gbar
  /-- R300. Unbinds the crew's limbs and clears LIMBSTAT after earlier limb instructions land. -/
  | lfree
  /-- R228. Scalar addition, wrapping or saturating. -/
  | sadd (o : Op)
  /-- R228. Scalar subtraction, wrapping or saturating. -/
  | ssub (o : Op)
  /-- R228. Scalar multiplication, low 32 bits. -/
  | smul (o : Op)
  /-- R228. Scalar multiplication, high 32 bits. -/
  | smulh (o : Op)
  /-- R228. Scalar bitwise AND. -/
  | sand (o : Op)
  /-- R228. Scalar bitwise OR. -/
  | sor (o : Op)
  /-- R228. Scalar bitwise XOR. -/
  | sxor (o : Op)
  /-- R228. Scalar logical shift left. -/
  | sshl (o : Op)
  /-- R228. Scalar logical shift right. -/
  | sshr (o : Op)
  /-- R228. Scalar arithmetic shift right. -/
  | ssar (o : Op)
  /-- R228. Scalar minimum, signed or natural. -/
  | smin (o : Op)
  /-- R228. Scalar maximum, signed or natural. -/
  | smax (o : Op)
  /-- R228. Scalar select by a uniform predicate. -/
  | ssel (o : Op)
  /-- R231. Scalar comparison that writes a uniform predicate. -/
  | scmp (o : Op)
  /-- R228. Scalar bit-field extract. -/
  | sbfe (o : Op)
  /-- R228. Counts the leading zero bits of a scalar. -/
  | sclz (o : Op)
  /-- R228. Counts the one bits of a scalar. -/
  | spopc (o : Op)
  /-- R230. 64-bit addition on scalar register pairs. -/
  | saddp (o : Op)
  /-- R230. 64-bit subtraction on scalar register pairs. -/
  | ssubp (o : Op)
  /-- R230. 64-bit shift left on a scalar register pair. -/
  | sshlp (o : Op)
  /-- R228. Scalar move of 32 or 64 bits, or of a literal. -/
  | smov (o : Op)
  /-- R232. Per-lane predicate logic through a truth table. -/
  | plop (o : Op)
  /-- R232. Uniform predicate logic through a truth table. -/
  | qlop (o : Op)
  /-- R233. Reads part of a predicate as a lane mask into a scalar. -/
  | pmask (o : Op)
  /-- R233. Writes a scalar into part of a predicate. -/
  | pset (o : Op)
  /-- R254. Reads a system register. -/
  | sysr (o : Op)
  /-- R254. Writes a system register, trapping on an invalid value. -/
  | sysw (o : Op)
  /-- R251. Raises the software trap with a code. -/
  | trap (o : Op)
  /-- R248. Blocks until an engine counter class is at or below a threshold; acts as an acquire. -/
  | waitEng (o : Op)
  /-- R249. Waits for a future handle to fill and copies it; acts as an acquire. -/
  | hwait (o : Op)
  /-- R249. Tests without waiting whether a future handle is full. -/
  | htest (o : Op)
  /-- R249. Requests cancellation of a handle's operation. -/
  | hcancel (o : Op)
  /-- R250. Links a handle's operation to a handle of another crew. -/
  | hpass (o : Op)
  /-- R234. Unconditional relative branch. -/
  | bra (o : Op)
  /-- R234. Uniform conditional branch on any, all or none of a predicate. -/
  | brc (o : Op)
  /-- R158. Divergent branch that splits the slot's lanes into the other slot. -/
  | brd (o : Op)
  /-- R235. Sets LINK and branches to a relative target. -/
  | call (o : Op)
  /-- R234. Branch to the code base plus a register or literal offset. -/
  | brx (o : Op)
  /-- R235. Sets LINK and branches to a register-held target. -/
  | callx (o : Op)
  /-- R247. Clears the mailbox flag and sends a request for an unplaced gang of a named launch to the dealer. -/
  | draw (o : Op)
  /-- R260. Vector integer addition. -/
  | vadd (o : Op)
  /-- R260. Vector integer subtraction. -/
  | vsub (o : Op)
  /-- R260. Vector integer multiplication, low half. -/
  | vmul (o : Op)
  /-- R260. Vector integer multiplication, high half. -/
  | vmulh (o : Op)
  /-- R260. Vector integer multiply-add. -/
  | vmad (o : Op)
  /-- R260. Vector bitwise AND. -/
  | vand (o : Op)
  /-- R260. Vector bitwise OR. -/
  | vor (o : Op)
  /-- R260. Vector bitwise XOR. -/
  | vxor (o : Op)
  /-- R260. Vector shift left. -/
  | vshl (o : Op)
  /-- R260. Vector logical shift right. -/
  | vshr (o : Op)
  /-- R260. Vector arithmetic shift right. -/
  | vsar (o : Op)
  /-- R260. Vector integer minimum. -/
  | vmin (o : Op)
  /-- R260. Vector integer maximum. -/
  | vmax (o : Op)
  /-- R260. Vector integer absolute value. -/
  | vabs (o : Op)
  /-- R260. Vector integer negation. -/
  | vneg (o : Op)
  /-- R260. Vector saturating addition. -/
  | vadds (o : Op)
  /-- R260. Vector saturating subtraction. -/
  | vsubs (o : Op)
  /-- R260. Vector count of leading zero bits. -/
  | vclz (o : Op)
  /-- R260. Vector count of one bits. -/
  | vpopc (o : Op)
  /-- R260. Vector bit-field extract. -/
  | vbfe (o : Op)
  /-- R260. Vector bit-field insert. -/
  | vbfi (o : Op)
  /-- R260. Vector select by a predicate. -/
  | vsel (o : Op)
  /-- R260. Vector move of a register or literal. -/
  | vmov (o : Op)
  /-- R261. Vector integer comparison into a predicate. -/
  | vcmp (o : Op)
  /-- R267. Vector conversion between float and integer types. -/
  | vcvt (o : Op)
  /-- R268. Copies one sibling's value into all three siblings. -/
  | vsibget (o : Op)
  /-- R269. Collapses the siblings to their mean, rounded to nearest even. -/
  | vsibmean (o : Op)
  /-- R270. Writes the digit count of the siblings. -/
  | vdigs (o : Op)
  /-- R260. Vector bitwise NOT. -/
  | vnot (o : Op)
  /-- R262. Float addition, rounded in the drawn direction. -/
  | vfadd (o : Op)
  /-- R262. Float subtraction. -/
  | vfsub (o : Op)
  /-- R262. Float multiplication. -/
  | vfmul (o : Op)
  /-- R262. Fused float multiply-add with one rounding. -/
  | vfma (o : Op)
  /-- R262. Correctly rounded float division. -/
  | vfdiv (o : Op)
  /-- R262. Correctly rounded float square root. -/
  | vfsqrt (o : Op)
  /-- R262. Float minimum. -/
  | vfmin (o : Op)
  /-- R262. Float maximum. -/
  | vfmax (o : Op)
  /-- R262. Clears the float sign bit. -/
  | vfabs (o : Op)
  /-- R262. Inverts the float sign bit. -/
  | vfneg (o : Op)
  /-- R262. Copies the float sign bit from the second operand. -/
  | vfcps (o : Op)
  /-- R263. Float comparison that takes the majority of the sibling outcomes. -/
  | vfcmp (o : Op)
  /-- R265. Fast reciprocal. -/
  | vfrcp (o : Op)
  /-- R265. Reproducible reciprocal. -/
  | vfrcpr (o : Op)
  /-- R265. Fast reciprocal square root. -/
  | vfrsq (o : Op)
  /-- R265. Reproducible reciprocal square root. -/
  | vfrsqr (o : Op)
  /-- R265. Fast power of two. -/
  | vexp2 (o : Op)
  /-- R265. Reproducible power of two. -/
  | vexp2r (o : Op)
  /-- R265. Fast base-2 logarithm. -/
  | vlog2 (o : Op)
  /-- R265. Reproducible base-2 logarithm. -/
  | vlog2r (o : Op)
  /-- R265. Fast sine. -/
  | vsin (o : Op)
  /-- R265. Reproducible sine. -/
  | vsinr (o : Op)
  /-- R265. Fast cosine. -/
  | vcos (o : Op)
  /-- R265. Reproducible cosine. -/
  | vcosr (o : Op)
  /-- R265. Fast hyperbolic tangent. -/
  | vtanh (o : Op)
  /-- R265. Reproducible hyperbolic tangent. -/
  | vtanhr (o : Op)
  /-- R271. Packed number-format addition, element by element. -/
  | vnfadd (o : Op)
  /-- R271. Packed number-format multiplication. -/
  | vnfmul (o : Op)
  /-- R271. Packed number-format fused multiply-add. -/
  | vnffma (o : Op)
  /-- R272. Packs a binary32 value into one element of a container. -/
  | vnfpack (o : Op)
  /-- R272. Decodes one element of a container exactly to binary32. -/
  | vnfunpk (o : Op)
  /-- R273. Quantises 32 values of a block group into one E2M1X block. -/
  | vqblk (o : Op)
  /-- R277. Runs an elementwise tensor-iterator sweep described by a sweep record. -/
  | vti (o : Op)
  /-- R280. Small matrix-vector accumulation within lane groups. -/
  | vgmm (o : Op)
  /-- R286. Shuffles values between threads of a lane group. -/
  | vshfl (o : Op)
  /-- R287. Broadcasts one thread's value within a lane group. -/
  | vbcast (o : Op)
  /-- R288. Ordered inclusive or exclusive scan within a lane group. -/
  | vscan (o : Op)
  /-- R288. Ordered reduction within a lane group. -/
  | vred (o : Op)
  /-- R290. Votes on a predicate across a lane group. -/
  | vote (o : Op)
  /-- R291. Writes the mask of acting threads whose predicate is set. -/
  | ballot (o : Op)
  /-- R292. Enters the regrouping rendezvous with a partner crew. -/
  | regrp (o : Op)
  /-- R296. 8x8 bit-matrix multiplication over GF(2). -/
  | vgf2mm (o : Op)
  /-- R297. Deposits bits under a mask. -/
  | vbdep (o : Op)
  /-- R297. Extracts bits under a mask. -/
  | vbext (o : Op)
  /-- R298. Permutes 64 bits by 6-bit indices. -/
  | vbperm (o : Op)
  /-- R300. Binds the crew into limb segments of size n. -/
  | lbind (o : Op)
  /-- R302. Adds long integers per segment with a carry chain. -/
  | ladd (o : Op)
  /-- R302. Subtracts long integers per segment with a borrow chain. -/
  | lsub (o : Op)
  /-- R303. Multiplies a segment by a scalar limb and adds. -/
  | lmuls (o : Op)
  /-- R304. Shifts each segment left. -/
  | lshl (o : Op)
  /-- R304. Shifts each segment right. -/
  | lshr (o : Op)
  /-- R305. Compares segment values. -/
  | lcmp (o : Op)
  /-- R306. Moves carries between adjacent segments. -/
  | lcarry (o : Op)
  /-- R312. Load with vector data and a vector base pair. -/
  | ldVV (o : MemOp)
  /-- R312. Load with vector data and a scalar base pair. -/
  | ldVS (o : MemOp)
  /-- R312. Load with scalar data and a scalar base pair. -/
  | ldSS (o : MemOp)
  /-- R313. Store with vector data and a vector base pair. -/
  | stVV (o : MemOp)
  /-- R313. Store with vector data and a scalar base pair. -/
  | stVS (o : MemOp)
  /-- R313. Store with scalar data and a scalar base pair. -/
  | stSS (o : MemOp)
  /-- R315. Prefetch through a vector base pair. -/
  | prfV (o : MemOp)
  /-- R315. Prefetch through a scalar base pair. -/
  | prfS (o : MemOp)
  /-- R316. No-return atomic, vector data and vector base. -/
  | atomVV (o : MemOp)
  /-- R316. No-return atomic, vector data and scalar base. -/
  | atomVS (o : MemOp)
  /-- R316. No-return atomic, scalar data and scalar base. -/
  | atomSS (o : MemOp)
  /-- R316. Returning atomic, vector data and vector base. -/
  | atomrVV (o : MemOp)
  /-- R316. Returning atomic, vector data and scalar base. -/
  | atomrVS (o : MemOp)
  /-- R316. Returning atomic, scalar data and scalar base. -/
  | atomrSS (o : MemOp)
  /-- R318. Compare-and-swap, vector data and vector base. -/
  | casVV (o : MemOp)
  /-- R318. Compare-and-swap, vector data and scalar base. -/
  | casVS (o : MemOp)
  /-- R318. Compare-and-swap, scalar data and scalar base. -/
  | casSS (o : MemOp)
  /-- R320. Ordered atomic update with a vector base, applied at round close. -/
  | oatomVV (o : MemOp)
  /-- R320. Ordered atomic update with a scalar base. -/
  | oatomVS (o : MemOp)
  /-- R323. Releases and issues a copy request record to the copy engine. -/
  | cpy (o : Op)
  /-- R324. Reads, or waits on, a copy request's write pointer; acts as an acquire. -/
  | cpywp (o : Op)
  /-- R325. Initialises a byte barrier. -/
  | binit (o : Op)
  /-- R326. Blocks until a byte barrier reaches zero or records an error. -/
  | bwait (o : Op)
  /-- R329. Checks a post record and places it in a free posted-operation slot. -/
  | trigPost (o : Op)
  /-- R332. Cancels a posted-operation slot. -/
  | trigCancel (o : Op)
  /-- R333. Reads a trigger counter or the state of a posted slot. -/
  | trigRead (o : Op)
  /-- R334. Raises a trigger counter, locally or on another package. -/
  | trigAdd (o : Op)
  /-- R342. Queues a load of a B slot of the compute-in-memory macros. -/
  | mldb (o : Op)
  /-- R343. Queues a load of an A tile into a row buffer. -/
  | mlda (o : Op)
  /-- R344. Queues a matrix multiply-accumulate into a C tile. -/
  | mma (o : Op)
  /-- R345. Queues the zeroing of a C tile. -/
  | mzero (o : Op)
  /-- R346. Queues the writing of a C tile to memory in a chosen format. -/
  | mdrain (o : Op)
  /-- R347. Reads the state of a core's matrix engine. -/
  | mstat (o : Op)
  /-- R352. Queues the streaming vocabulary projection of a shard. -/
  | vocabStream (o : Op)
  /-- R363. Queues the regeneration of logits and the computation of gradients. -/
  | vocabRegen (o : Op)
  /-- R358. Queues the melding or moving of vocabulary row records. -/
  | vmeld (o : Op)
  /-- R365. Reads entries or header words of a vocabulary record. -/
  | vheaprd (o : Op)
  /-- R312. Load data returns and fills the destination lane. -/
  | loadReturn (id lane : Nat)
  /-- R170. A long-latency producer writes its destination lane and marks it full. -/
  | producerFill (id lane : Nat)
  /-- R301. A limb instruction lands its segment results, carries and LIMBSTAT. -/
  | limbLanding (id : Nat)
  /-- R92. The home slice accepts a global store, which lowers the unacknowledged count. -/
  | storeAck (id : Nat)
  /-- R117. An atomic is performed at its point of coherence and returns its old value. -/
  | atomicPerform (id : Nat)
  /-- R69. A fetch block arrives and is checked for translation and execute permission. -/
  | fetchBlockArrive (u : UnitRef) (slot : Nat) (block : BitVec 64)
  /-- R44. A page walk ends with a translation or a fault cause. -/
  | pageWalkComplete (id : Nat)
  /-- R62. A held fault or event record is written once ring space appears. -/
  | heldRecordWrite (ring : RingId)
  /-- R54. INVCMD with MODE 000b starts invalidation of a page range. -/
  | invalidateRange (count : BitVec 32)
  /-- R64. REPLAYCMD with OP replay readies the parked units in the chosen scope. -/
  | replay (cmd : BitVec 64)
  /-- R65. REPLAYCMD with OP cancel ends a launch. -/
  | cancelLaunch (cmd : BitVec 64)
  /-- R73. MIGCTL GO starts the migration of a page. -/
  | migrate (slot : Nat) (ctl : BitVec 64)
  /-- R73. The copy of a migrating page ends and the final entry is written. -/
  | migrationComplete (slot : Nat)
  /-- R76. A pin's hold time T elapses; PIN is cleared and an event is written. -/
  | pinHoldExpiry (asid page : Nat)
  /-- R366. A host write to QTAIL publishes launch records, or is ignored with OVR set. -/
  | submissionTailWrite (queue : Nat) (value : BitVec 64)
  /-- R378. After 2^20 cycles a reservation pre-empts lower-priority gangs. -/
  | reservationTimeout (ident : Word)
  /-- R146. A launch's parties retire and its engines and rounds drain; the dealer releases and completes it. -/
  | launchComplete (ident : Word)
  /-- R139. A slice accepts an ordered update into a holding place or the overflow area. -/
  | oatomUpdateAccept (id : Nat)
  /-- R138. A round closes once every crew and cox core has passed it or retired. -/
  | roundClose (ident : Word)
  /-- R140. A slice applies a closed round's updates in issuer-key order. -/
  | roundApply (ident : Word) (slice : Nat)
  /-- R141. The dealer writes the round word once every slice has applied the round. -/
  | roundWordWrite (ident : Word)
  /-- R293. Both crews meet at REGRP with their producers drained; they fuse or decline. -/
  | regrpFuse (a b : UnitRef)
  /-- R100. The copy engine accepts and checks a request record. -/
  | copyAccept (cluster chan : Nat)
  /-- R103. A 256-byte step of a copy is delivered; WP and the byte barrier advance. -/
  | copyStep (cluster chan : Nat)
  /-- R105. A copy request completes: its status, counters and handles are updated and any trigger counter is raised. -/
  | copyComplete (cluster chan : Nat)
  /-- R338. A matrix-queue operation completes or fails, and releases its writes. -/
  | matrixOpComplete (cluster core : Nat)
  /-- R354. A vocabulary tile's panels have arrived; the rows' records are updated and committed. -/
  | vocabTileCommit (cluster core : Nat)
  /-- R134. A raise takes its place in a trigger counter at the trigger unit. -/
  | triggerRaise (id : Nat)
  /-- R331. A posted transfer is acknowledged and makes its completion raises. -/
  | postedTransferComplete (slot : Nat)
  /-- R405. A remote increment message arrives and raises a counter. -/
  | remoteIncrement (p : Packet)
  /-- R407. A stream packet arrives and is applied, acknowledged or dropped by sequence. -/
  | fabricPacket (p : Packet)
  /-- R406. An acknowledgment arrives and the sender frees the packet. -/
  | fabricAck (run : FarStream) (slice : Nat) (seq : Word)
  /-- R407. An end mark closes a stream and frees its high-water entries. -/
  | streamEndMark (key : StreamKey)
  /-- R407. An abort mark closes a failed stream and frees its entries. -/
  | streamAbortMark (key : StreamKey)
  /-- R406. ETO expires; the sender resends, or the stream fails after RETRYMAX resends. -/
  | endToEndTimeout (run : FarStream) (slice : Nat)
  /-- R407. An idle high-water entry is freed after ETO x (RETRYMAX + 2). -/
  | hwmEntryExpiry (key : StreamKey) (slice : Nat)
  /-- R402. A flit fails its CRC and is resent at link level; RETRY is counted. -/
  | linkFlitCrcError (link : Nat)
  /-- R409. A drain token returns on a link; BUSY clears once every link has returned. `peer` is the token of the far end, which goes back. -/
  | drainTokenReturn (token : DrainToken)
  /-- R408. A write to an IDTAB entry; clearing it frees the launch's high-water entries. -/
  | idtabWrite (n : Nat) (value : BitVec 64)
  /-- R401. PREEMPTCMD GO with ALL 0 pre-empts one gang. -/
  | preemptGang (cmd : BitVec 64)
  /-- R401. PREEMPTCMD GO with ALL 1 pre-empts every placed gang of the launch. -/
  | preemptLaunch (cmd : BitVec 64)
  /-- R391. A pre-empted gang reaches its stopping points and its context image is saved. -/
  | preemptSaveDone (ident : Word) (gang : Nat)
  /-- R422. DBGCTL STOP halts the partition precisely. -/
  | dbgStop (pid : Nat)
  /-- R422. DBGCTL RESUME restores every slot of a stopped partition. -/
  | dbgResume (pid : Nat)
  /-- R423. DBGCTL STEP issues one instruction for a crew place. -/
  | dbgStep (pid : Nat)
  /-- R428. DBGCTL CTRCLR clears the ten slot counters. -/
  | ctrclr (pid : Nat)
  /-- R425. WATCH RESUME releases a paused copy channel. -/
  | watchResume (n : Nat)
  /-- R427. Every 2^SPER cycles a sample record is written. -/
  | sampleTick (pid : Nat)
  /-- R396. A host snoop over CXL.cache is answered from the home slice; with `write` it precedes a write of the line by the host. -/
  | hostSnoop (snoop : Snoop)
  /-- R397. A host read or write through the BAR2 window. -/
  | bar2Access (off : Nat) (n : Nat) (data : Option (List Byte))
  /-- R395. The host link trains to a revision, rate and width. -/
  | cxlLinkTraining (hostRev hostRate hostWidth : Nat)
  /-- R416. A supply sag stretches a die's clock. -/
  | supplyDroop (die : Nat)
  /-- R416. The supply recovers and the clock returns to nominal. -/
  | supplyRecovery (die : Nat)
  /-- R417. The boot ROM verifies and runs the signed firmware chain. -/
  | firmwareBoot (images : List FwImage) (cfg : FwConfig)
  /-- R418. An SPDM attestation request arrives on a DOE mailbox. -/
  | spdmRequest (req : SpdmRequest)
  /-- R8. A write to a register with no row of its own follows its access code. -/
  | registerWrite (off : Nat) (value : BitVec 64)
  /-- R428. Each cycle of a scheduler partition picks at most one candidate crew, raises the WAIT of the others, and charges the cycle to TOTAL and one top-down leaf. -/
  | partitionCycle (pid : Nat)
  /-- R395. The host reads or writes tier-2 memory over CXL.mem as HDM-DB, performed at the line's home slice with back-invalidate. -/
  | cxlMemAccess (addr : Nat) (n : Nat) (data : Option (List Byte))
  /-- R37. A load, table read or atomic read from another package arrives over the Damhedan fabric, is decoded against the local map, served at the home slice and answered. -/
  | remoteReadRequest (src : Nat) (addr : Nat) (n : Nat) (atomic : Option Packet)
  /-- R402. A Damhedan link trains to generation 1 or 2 and LINKSTAT.GEN records it. -/
  | damhedanLinkTraining (link gen : Nat)
  /-- R404. A Damhedan link is lost and LINKSTAT.GEN reads 0, removing it from routing and from the drain's set of trained links. -/
  | damhedanLinkDown (link : Nat)
  /-- R54. INVCMD with MODE 001b starts invalidation of a whole address space. -/
  | invalidateAsid
  /-- R54. INVCMD with MODE 010b starts invalidation of every address space. -/
  | invalidateAll
  /-- R54. An invalidation finishes and BUSY returns to 0. -/
  | invalidationDone
  /-- R371. The dealer front end reads and checks a launch record and numbers it. -/
  | launchAccept
  /-- R377. The dealer places gangs of eligible launches as resources free. -/
  | gangPlacement
  /-- R382. The dealer answers a DRAW request in the mailbox. -/
  | drawAnswer
  /-- R409. DRAINCMD GO sends a drain token on every link. -/
  | drain
  /-- R426. Mailbox OP 1 dumps a halted crew's state to the host. -/
  | mbReadCrewState
  /-- R426. Mailbox OP 2 writes one register lane of a halted crew. -/
  | mbWriteRegister
  deriving DecidableEq, Repr

end Sys2Proof
end

