-- ==== Sys2Proof/WellFormed.lean ====
section
/-! DEFINITION. Which operand fields each encoding admits (R204 to R218, and the operand tables R227, R258, R284, R299, R308, R322, R341): the causes of the illegal-encoding trap, static and as they depend on the issuer. -/

namespace Sys2Proof

/-- The register classes, in the order of R214. -/
inductive RegClass where
  | v | s | p | q | h | nf
  deriving DecidableEq, Repr

/-- What an operand field names (the columns D, SA, SB and SC of the operand tables). -/
inductive Cls where
  /-- A dash: the field must be zero. -/
  | z
  /-- One vector, predicate, scalar, uniform predicate or handle register. -/
  | v | p | s | q | h
  /-- A vector register, an even pair for a 64-bit type. -/
  | vt
  /-- An even vector pair. -/
  | vp
  /-- A scalar register, an even pair for a 64-bit type. -/
  | st
  /-- An even scalar pair. -/
  | sp
  /-- Four scalar registers from a multiple of 4 (R344). -/
  | s4
  /-- Eight scalar registers from a multiple of 8 (R292). -/
  | s8
  /-- One scalar register, three in single-lane mode (R291). -/
  | ballot
  /-- The matrix rows of VGMM: as many registers as the group has positions (R280). -/
  | rows
  /-- Twelve vector registers (R298). -/
  | v12
  /-- A vector register that its scalar-source bit turns into a scalar register (R213). -/
  | vs
  /-- As `vs`, a pair for a 64-bit type. -/
  | vst
  /-- As `vst`, by the destination type of VCVT. -/
  | vcvtD
  /-- A vector register, a scalar register with SBS = 1 (R284). -/
  | sbs
  /-- SB of VBCAST: as `sbs` with .POS, zero otherwise (R287). -/
  | bcast
  /-- A handle when HND = 1, zero otherwise: bit 0 of FN in row 0xB, bit 2 in row 0xE. -/
  | hnd0 | hnd2
  /-- The carry-in predicate of LADD and LSUB, with CIN = 1 (R299). -/
  | cin
  /-- SB of CPYWP, with WAIT = 1 (R322). -/
  | waitB
  /-- SB of VQBLK, with PERM (R273): a vector register, or a scalar one by its scalar-source bit. -/
  | perm
  /-- D of SYSR, SA of SYSW: as the register number fixes it (R254). -/
  | sysD | sysA
  /-- D of VHEAPRD: a vector pair in a crew, a scalar pair on a cox core (R341). -/
  | heap
  /-- SA of BRC: a predicate in a crew, a uniform predicate on a cox core (R234). -/
  | brc
  deriving DecidableEq, Repr

/-- Which source a literal takes the place of (R207): none, SA, SB, SC, or the last source that CPYWP uses. -/
inductive Lit where
  | no | a | b | c | cpywp
  deriving DecidableEq, Repr

/-- The class of the guard (R215); `must` is the guard that has to be unguarded; `pq` a P in a crew and a Q on a cox core. -/
inductive GuardCls where
  | p | q | must | pq
  deriving DecidableEq, Repr

/-- Who may issue an opcode (R218). -/
inductive Who where
  | crew | both | cox
  deriving DecidableEq, Repr

/-- One line of an operand table. -/
structure Row where
  opcode : Nat
  d : Cls
  sa : Cls
  sb : Cls
  sc : Cls
  types : List Nat
  fn : Nat → Nat → Bool
  lit : Lit
  guard : GuardCls
  who : Who
  /-- The 64-bit form is permitted (R218): not for BRA, BRC, BRD and CALL. -/
  short : Bool := true
  /-- FN[2:0] are scalar-source bits (rows 0x5 to 0x8, R213). -/
  scalarBits : Bool := false

/-- The TYPE codes of R212. -/
def tyB32 : Nat := 0
def tyI32 : Nat := 1
def tyN32 : Nat := 2
def tyB64 : Nat := 3
def tyI64 : Nat := 4
def tyN64 : Nat := 5
def tyF16 : Nat := 6
def tyBF16 : Nat := 7
def tyF32 : Nat := 8
def tyF64 : Nat := 9
def tyNF0 : Nat := 12

/-- A 64-bit TYPE: the operand is a pair. -/
def is64 (ty : Nat) : Bool := ty == 3 || ty == 4 || ty == 5 || ty == 9

/-- A floating-point TYPE of R173. -/
def isFloat (ty : Nat) : Bool := ty == 6 || ty == 7 || ty == 8 || ty == 9

/-- A number-format TYPE. -/
def isNF (ty : Nat) : Bool := 12 ≤ ty && ty ≤ 15

/-- An integer or bit TYPE, whose results siblings compare (R194). -/
def isInt (ty : Nat) : Bool := ty ≤ 5

/-- Bits `[lo + w - 1 : lo]` of a number. -/
def bits (n lo w : Nat) : Nat := (n >>> lo) % 2 ^ w

/-- The extended type codes of VCVT (R212) that are numeric or bit types. -/
def extOk (e : Nat) : Bool := e ≤ 9 || (16 ≤ e && e ≤ 19)

/-- The function fields: no function, one bit, and so on, as the tables give them. -/
def fn0 (f _ty : Nat) : Bool := f == 0
def fnHi0 (f _ty : Nat) : Bool := bits f 3 5 == 0
def fnBits (n : Nat) (f _ty : Nat) : Bool := f >>> n == 0
def fnSat (f ty : Nat) : Bool := f == 0 || (f == 1 && ty != tyB32)
def condOk (c ty : Nat) : Bool := c ≤ 1 || (c ≤ 5 && ty != tyB32 && ty != tyB64)
def fnScmp (f ty : Nat) : Bool := condOk f ty
def fnVcmp (f ty : Nat) : Bool := bits f 6 2 == 0 && condOk (bits f 3 3) ty
def fnVfcmp (f _ty : Nat) : Bool := bits f 6 2 == 0
/-- VCVT: a numeric pair of types, or .B32 and .B64, never the same type (R267). -/
def fnVcvt (f ty : Nat) : Bool :=
  let e := bits f 3 5
  let bsrc := ty == tyB32 || ty == tyB64
  let bdst := e == tyB32 || e == tyB64
  extOk e && e != ty && (bsrc == bdst)
def fnVqblk (f _ty : Nat) : Bool := bits f 4 4 == 0
def fnMode (max : Nat) (f _ty : Nat) : Bool := f ≤ max
def fnGrp (f : Nat) : Bool := bits f 4 3 ≤ 5
def fnShfl (f _ty : Nat) : Bool := bits f 7 1 == 0 && fnGrp f && bits f 0 3 ≤ 3
def fnBcast (f _ty : Nat) : Bool := bits f 7 1 == 0 && fnGrp f && bits f 0 3 ≤ 2 && (bits f 3 1 == 0 || bits f 0 3 == 0)
def scanOk (op ty : Nat) : Bool :=
  (op ≤ 2 && (ty == tyI32 || ty == tyN32 || ty == tyI64 || ty == tyN64 || ty == tyF32)) ||
  (3 ≤ op && op ≤ 5 && (ty == tyB32 || ty == tyB64))
def fnScan (f ty : Nat) : Bool := fnGrp f && bits f 3 1 == 0 && scanOk (bits f 0 3) ty
def fnRed (f ty : Nat) : Bool := bits f 7 1 == 0 && fnScan f ty
def fnVote (f _ty : Nat) : Bool := bits f 7 1 == 0 && fnGrp f && bits f 3 1 == 0 && bits f 0 3 ≤ 3
def fnLadd (f _ty : Nat) : Bool := bits f 7 1 == 0
def fnLshl (f _ty : Nat) : Bool := bits f 6 2 == 0
def fnLcmp (f _ty : Nat) : Bool := f ≤ 5
def fnAny (_f _ty : Nat) : Bool := true
def fnTrigAdd (f _ty : Nat) : Bool := bits f 4 4 == 0 && bits f 0 3 ≤ 5 && (bits f 3 1 == 1 || bits f 0 3 == 0)
def fnMdrain (f _ty : Nat) : Bool := bits f 5 3 == 0
/-- The system registers that R255 assigns. -/
def sysAssigned (n : Nat) : Bool :=
  [0x00, 0x01, 0x02, 0x04, 0x06, 0x08, 0x09, 0x0A, 0x0B, 0x0C, 0x0E, 0x10, 0x11, 0x12, 0x14, 0x16].contains n ||
  (0x18 ≤ n && n ≤ 0x1B) || (0x20 ≤ n && n ≤ 0x2F) || (0x80 ≤ n && n ≤ 0x82)
def sysWide (n : Nat) : Bool := [0x02, 0x04, 0x06, 0x0C, 0x0E, 0x14, 0x82].contains n
def fnSys (f _ty : Nat) : Bool := sysAssigned f

/-- The lists of types the tables name. -/
def tyNone : List Nat := [0]
def tyBIN : List Nat := [0, 1, 2]
def tyIN32 : List Nat := [1, 2]
def tyAll6 : List Nat := [0, 1, 2, 3, 4, 5]
def tyIN : List Nat := [1, 2, 4, 5]
def tyB : List Nat := [0, 3]
def tyI : List Nat := [1, 4]
def tyF : List Nat := [6, 7, 8, 9]
def tyF3 : List Nat := [6, 7, 8]
def tyNFs : List Nat := [12, 13, 14, 15]
def tyAny : List Nat := [0, 1, 2, 3, 4, 5, 6, 7, 8, 9, 12, 13, 14, 15]
def tyScan : List Nat := [0, 1, 2, 3, 4, 5, 8]


/-- What of the issuer decides whether an encoding is legal (R204): a cox core or a crew, its sibling mode, its vector
registers, the gang's workgroups, and the element widths of its number-format registers. -/
structure EncCtx where
  cox : Bool
  single : Bool
  vregs : Nat
  wgs : Nat
  nfWidth : Nat → Nat

/-- A run of registers of one class. -/
structure RegRun where
  cls : RegClass
  first : Nat
  count : Nat
  align : Nat
  deriving DecidableEq, Repr

/-- Registers per class that a field may name (R214); a crew's vector registers end at VREGS. -/
def RegClass.limit (cx : Option EncCtx) : RegClass → Nat
  | .v => match cx with
    | some c => c.vregs
    | none => 256
  | .s => 128
  | .p => 64
  | .q => 16
  | .h => 16
  | .nf => 4

/-- The run of registers an operand field names; `none` when the field must be zero. `scal` is the field's scalar-source bit
or SBS. -/
def Cls.run (c : Cls) (o : Op) (n : Nat) (scal : Bool) (cox single : Bool) : Option RegRun :=
  let ty := o.ty.toNat
  let fn := o.fn.toNat
  let w := if is64 ty then 2 else 1
  match c with
  | .z => none
  | .v => some ⟨.v, n, 1, 1⟩
  | .p => some ⟨.p, n, 1, 1⟩
  | .s => some ⟨.s, n, 1, 1⟩
  | .q => some ⟨.q, n, 1, 1⟩
  | .h => some ⟨.h, n, 1, 1⟩
  | .vt => some ⟨.v, n, w, w⟩
  | .vp => some ⟨.v, n, 2, 2⟩
  | .st => some ⟨.s, n, w, w⟩
  | .sp => some ⟨.s, n, 2, 2⟩
  | .s4 => some ⟨.s, n, 4, 4⟩
  | .s8 => some ⟨.s, n, 8, 8⟩
  | .ballot => some ⟨.s, n, if single then 3 else 1, 1⟩
  | .rows => some ⟨.v, n, 4 <<< bits fn 0 2, 1⟩
  | .v12 => some ⟨.v, n, 12, 1⟩
  | .vs => some (if scal then ⟨.s, n, 1, 1⟩ else ⟨.v, n, 1, 1⟩)
  | .vst => some (if scal then ⟨.s, n, w, w⟩ else ⟨.v, n, w, w⟩)
  | .vcvtD => let wd := if is64 (bits fn 3 5) then 2 else 1
              some ⟨.v, n, wd, wd⟩
  | .sbs => some (if scal then ⟨.s, n, 1, 1⟩ else ⟨.v, n, 1, 1⟩)
  | .bcast => if bits fn 0 3 == 0 then some (if scal then ⟨.s, n, 1, 1⟩ else ⟨.v, n, 1, 1⟩) else none
  | .hnd0 => if bits fn 0 1 == 1 then some ⟨.h, n, 1, 1⟩ else none
  | .hnd2 => if bits fn 2 1 == 1 then some ⟨.h, n, 1, 1⟩ else none
  | .cin => if bits fn 6 1 == 1 then some ⟨.p, n, 1, 1⟩ else none
  | .waitB => if bits fn 0 1 == 1 then some ⟨.s, n, 1, 1⟩ else none
  | .perm => if bits fn 3 1 == 1 then some (if scal then ⟨.s, n, 1, 1⟩ else ⟨.v, n, 1, 1⟩) else none
  | .sysD => let wd := if sysWide fn then 2 else 1
             some ⟨if fn ≥ 0x80 then .v else .s, n, wd, wd⟩
  | .sysA => let wd := if sysWide fn then 2 else 1
             some ⟨.s, n, wd, wd⟩
  | .heap => some (if cox then ⟨.s, n, 2, 2⟩ else ⟨.v, n, 2, 2⟩)
  | .brc => some (if cox then ⟨.q, n, 1, 1⟩ else ⟨.p, n, 1, 1⟩)

/-- The field must be zero although its register class would use it: a literal takes its place (R207). -/
def Row.litAt (r : Row) (o : Op) : Option Nat :=
  match o.lit with
  | none => none
  | some _ =>
    match r.lit with
    | .no => none
    | .a => some 0
    | .b => match r.sb with
      | .bcast => if bits o.fn.toNat 0 3 == 0 then some 1 else none
      | _ => some 1
    | .c => some 2
    | .cpywp => some (if bits o.fn.toNat 0 1 == 1 then 1 else 0)

/-- The scalar-source bit of source `k` (0, 1, 2), or SBS for SB of row 0x9. -/
def Row.scalBit (r : Row) (o : Op) (k : Nat) : Bool :=
  if r.scalarBits then bits o.fn.toNat k 1 == 1
  else match k, r.sb with
    | 1, .sbs => bits o.fn.toNat 3 1 == 1
    | 1, .bcast => bits o.fn.toNat 3 1 == 1
    | _, _ => false

/-- The class of a source operand may be scalar by its scalar-source bit. -/
def Cls.mayScal : Cls → Bool
  | .vs | .vst | .perm => true
  | _ => false

/-- The register runs of the sources in the order SA, SB, SC, with the source's number (the subcode of R385) and its
trap-on-empty bit; a literal's place and an unused field give none. -/
def Row.sources (r : Row) (o : Op) (cox single : Bool) : List (RegRun × Nat × Bool) :=
  let one (k : Nat) (c : Cls) (f : BitVec 8) (te : Bool) : List (RegRun × Nat × Bool) :=
    if r.litAt o == some k then []
    else match c.run o f.toNat (r.scalBit o k) cox single with
      | some x => [(x, k, te)]
      | none => []
  one 0 r.sa o.sa o.tea ++ one 1 r.sb o.sb o.teb ++ one 2 r.sc o.sc o.tec

/-- The register run of the destination. -/
def Row.dest (r : Row) (o : Op) (cox single : Bool) : Option RegRun :=
  r.d.run o o.d.toNat false cox single

/-- A run lies in its class and is aligned (cause 5 otherwise). -/
def RegRun.ok (x : RegRun) (cx : Option EncCtx) : Bool :=
  x.first + x.count ≤ x.cls.limit cx && x.first % x.align == 0

/-- The source field `k` obeys the rules for unused fields, literals and scalar-source bits (cause 3 otherwise). -/
def Row.fieldOk (r : Row) (o : Op) (k : Nat) (c : Cls) (f : BitVec 8) (te : Bool) (cox single : Bool) : Bool :=
  if r.litAt o == some k then f == 0 && !te && !(r.scalBit o k)
  else match c.run o f.toNat (r.scalBit o k) cox single with
    | none => f == 0 && !te && !(r.scalBit o k)
    | some _ => !(r.scalBit o k) || c.mayScal || c == .sbs || c == .bcast

/-- The guard of R215: G = 0 with GN = 1 is unguarded. -/
def unguarded (g : BitVec 6) (gn : Bool) : Bool := g == 0 && gn

/-- Whether a Q guard stands here, so that its number must be below 16 (R215). -/
def GuardCls.isQ (c : GuardCls) (cox : Bool) : Bool :=
  match c with
  | .q => true
  | .pq => cox
  | _ => false

/-- The value of a literal fits the source type (R207): the high half is zero for a 16-bit float, a branch offset is a
multiple of 4. -/
def litOk (r : Row) (o : Op) (l : Word) : Bool :=
  let ty := o.ty.toNat
  let op := r.opcode
  (if ty == tyF16 || ty == tyBF16 then l.toNat < 65536 else true) &&
  (if 0x41 ≤ op && op ≤ 0x46 then l.toNat % 4 == 0 else true) &&
  (if op == 0x69 then l.toNat ≤ 2 else true)

/-- Elements in a container of width `w` (R180). -/
def elems (w : Nat) : Nat := if w == 0 then 0 else 32 / w

/-- Cause 3 beyond the field rules: what an opcode demands of its function and operands by the issuer (R233, R272, R299,
R337, R346). -/
def Row.special3 (r : Row) (o : Op) (cx : Option EncCtx) : Bool :=
  let fn := o.fn.toNat
  let wg := bits fn 0 2
  match cx with
  | none => !(r.opcode == 0x3E && o.tea) && !(r.opcode == 0xA3 && fn == o.d.toNat)
  | some c =>
    !(r.opcode == 0x3E && o.tea) && !(r.opcode == 0xA3 && fn == o.d.toNat) &&
    !((r.opcode == 0x37 || r.opcode == 0x38) && fn == 3 && c.single) &&
    !(r.opcode == 0xE4 && c.single && bits fn 3 2 ≤ 1) &&
    !(0xE0 ≤ r.opcode && r.opcode ≤ 0xE8 && (if c.cox then c.wgs ≤ wg else wg != 0)) &&
    (match o.lit with
      | some l => !((r.opcode == 0x8D || r.opcode == 0x8E) && elems (c.nfWidth (o.ty.toNat - 12)) ≤ l.toNat)
      | none => true)

/-- Cause 5 beyond the register runs: the records of R238 to R240, `Vh` of LMULS. -/
def Row.special5 (r : Row) (o : Op) (cx : Option EncCtx) : Bool :=
  !(r.opcode == 0xA3 && RegClass.limit cx .v ≤ o.fn.toNat)

/-- The causes of R204 for an instruction of the 64-bit format, lowest first. -/
def Row.cause (r : Row) (o : Op) (cx : Option EncCtx) : Option Nat :=
  let cox := match cx with | some c => c.cox | none => r.who == .cox
  let single := match cx with | some c => c.single | none => false
  let ty := o.ty.toNat
  let fields := r.fieldOk o 0 r.sa o.sa o.tea cox single && r.fieldOk o 1 r.sb o.sb o.teb cox single &&
    r.fieldOk o 2 r.sc o.sc o.tec cox single &&
    (match r.dest o cox single with | none => o.d == 0 | some _ => true)
  let litBad := match o.lit with | some l => (r.litAt o).isSome && !(litOk r o l) | none => false
  if !(r.types.contains ty) || !(r.fn o.fn.toNat ty) || !fields || litBad || !(r.special3 o cx) ||
      (r.guard == .must && !(unguarded o.g o.gn)) then some 3
  else if (o.lit.isSome && (r.litAt o).isNone) || (o.lit.isNone && !r.short) then some 4
  else if !((r.sources o cox single).all fun x => x.1.ok cx) ||
      !(match r.dest o cox single with | none => true | some x => x.ok cx) || !(r.special5 o cx) ||
      (r.guard.isQ cox && !(unguarded o.g o.gn) && 16 ≤ o.g.toNat) then some 5
  else match cx with
    | some c => if (c.cox && r.who == .crew) || (!c.cox && r.who == .cox) ||
        ((r.opcode == 0x39 || r.opcode == 0x3A) && c.cox &&
          ((0x18 ≤ o.fn.toNat && o.fn.toNat ≤ 0x1B) || o.fn.toNat == 0x12 || (r.opcode == 0x39 && 0x80 ≤ o.fn.toNat)))
        then some 6 else none
    | none => none

/-- The kinds of memory instruction (R308). -/
inductive MemKind where
  | ld | st | prf | atom | atomr | cas | oatom
  deriving DecidableEq, Repr

/-- One line of the memory opcodes (R308): vector or scalar data, vector or scalar base. -/
structure MemRow where
  opcode : Nat
  kind : MemKind
  vdata : Bool
  vbase : Bool
  deriving DecidableEq, Repr

/-- The element size of an SZF code in bytes (R210). -/
def szfSize (z : Nat) : Nat :=
  match z with
  | 0 | 1 => 1
  | 2 | 3 | 8 | 9 | 12 | 13 => 2
  | 4 | 5 | 10 | 14 => 4
  | _ => 8

/-- A float SZF code, and whether it names the mean-digits form (R210). -/
def szfFloat (z : Nat) : Bool := 8 ≤ z
def szfMD (z : Nat) : Bool := 12 ≤ z

/-- The AOP codes that an SZF code allows (R211). -/
def aopOk (aop szf : Nat) (ordered : Bool) : Bool :=
  let int := 4 ≤ szf && szf ≤ 7
  let flt := szf == 10 || szf == 11 || szf == 14 || szf == 15
  if aop ≤ 2 then int || flt
  else if aop ≤ 5 then int
  else aop == 6 && int && !ordered

/-- The ordering codes legal on a kind of instruction (R120). -/
def ordOk (k : MemKind) (ord scope : Nat) : Bool :=
  if ord == 0 then scope == 0
  else scope ≤ 5 && match k with
    | .ld => ord == 1
    | .st | .atom => ord == 2
    | .atomr | .cas => true
    | .prf | .oatom => false

/-- A memory instruction that needs the extension word (R209, R218). -/
def MemKind.needsExt : MemKind → Bool
  | .ld | .st | .prf => false
  | _ => true

/-- The causes of R204 for a memory instruction, lowest first. -/
def MemRow.cause (r : MemRow) (o : MemOp) (cx : Option EncCtx) : Option Nat :=
  let z := o.szf.toNat
  let e := o.ext.getD ⟨0, 0, 0, 0, 0, false, false, 0⟩
  let k := r.kind
  let rmw := k == .atom || k == .atomr || k == .cas || k == .oatom
  let usesXa := k == .atomr || k == .cas
  let bad3 :=
    (k == .prf && (z != 0 || o.data != 0 || o.ted)) ||
    ((k == .ld || k == .atomr || k == .cas) && o.ted) ||
    (rmw && o.cp != 0) || e.rsv != 0 ||
    (!usesXa && (e.xa != 0 || e.texa)) || (k != .cas && (e.xb != 0 || e.texb)) ||
    (if k == .atom || k == .atomr || k == .oatom then !(aopOk e.aop.toNat z (k == .oatom)) else e.aop != 0) ||
    (k == .cas && !(4 ≤ z && z ≤ 7)) ||
    !(ordOk k e.ord.toNat e.scope.toNat) ||
    (e.ord != 0 && !(4 ≤ z && z ≤ 7))
  let w := if szfSize z == 8 then 2 else 1
  let dc := if r.vdata then RegClass.v else .s
  let bc := if r.vbase then RegClass.v else .s
  let runs : List RegRun :=
    (if k == .prf then [] else [⟨dc, o.data.toNat, w, w⟩]) ++ [⟨bc, 2 * o.base.toNat, 2, 2⟩] ++
    (if usesXa then [⟨dc, e.xa.toNat, w, w⟩] else []) ++ (if k == .cas then [⟨dc, e.xb.toNat, w, w⟩] else [])
  let qGuard := !r.vdata && !(k == .prf && r.vbase)
  if bad3 then some 3
  else if k.needsExt && o.ext.isNone then some 4
  else if !(runs.all fun x => x.ok cx) || (qGuard && !(unguarded o.g o.gn) && 16 ≤ o.g.toNat) then some 5
  else match cx with
    | some c => if c.cox && (r.vdata || r.vbase || k == .prf) then some 6 else none
    | none => none

/-- The memory opcodes (R308): kind, class of the data, class of the base. -/
def Instr.memRow : Instr → Option MemRow
  | .ldVV _ => some (.mk 0xC0 .ld true true)
  | .ldVS _ => some (.mk 0xC1 .ld true false)
  | .ldSS _ => some (.mk 0xC2 .ld false false)
  | .stVV _ => some (.mk 0xC3 .st true true)
  | .stVS _ => some (.mk 0xC4 .st true false)
  | .stSS _ => some (.mk 0xC5 .st false false)
  | .prfV _ => some (.mk 0xC6 .prf false true)
  | .prfS _ => some (.mk 0xC7 .prf false false)
  | .atomVV _ => some (.mk 0xC8 .atom true true)
  | .atomVS _ => some (.mk 0xC9 .atom true false)
  | .atomSS _ => some (.mk 0xCA .atom false false)
  | .atomrVV _ => some (.mk 0xCB .atomr true true)
  | .atomrVS _ => some (.mk 0xCC .atomr true false)
  | .atomrSS _ => some (.mk 0xCD .atomr false false)
  | .casVV _ => some (.mk 0xCE .cas true true)
  | .casVS _ => some (.mk 0xCF .cas true false)
  | .casSS _ => some (.mk 0xD0 .cas false false)
  | .oatomVV _ => some (.mk 0xD1 .oatom true true)
  | .oatomVS _ => some (.mk 0xD2 .oatom true false)
  | _ => none

/-- The operand fields of an instruction of the memory format. -/
def Instr.mem? : Instr → Option MemOp
  | .ldVV o => some o
  | .ldVS o => some o
  | .ldSS o => some o
  | .stVV o => some o
  | .stVS o => some o
  | .stSS o => some o
  | .prfV o => some o
  | .prfS o => some o
  | .atomVV o => some o
  | .atomVS o => some o
  | .atomSS o => some o
  | .atomrVV o => some o
  | .atomrVS o => some o
  | .atomrSS o => some o
  | .casVV o => some o
  | .casVS o => some o
  | .casSS o => some o
  | .oatomVV o => some o
  | .oatomVS o => some o
  | _ => none

/-- The memory instruction whose primary opcode is given (R217). -/
def Instr.ofMem (opcode : Nat) (o : MemOp) : Option Instr :=
  match opcode with
  | 0xC0 => some (.ldVV o)
  | 0xC1 => some (.ldVS o)
  | 0xC2 => some (.ldSS o)
  | 0xC3 => some (.stVV o)
  | 0xC4 => some (.stVS o)
  | 0xC5 => some (.stSS o)
  | 0xC6 => some (.prfV o)
  | 0xC7 => some (.prfS o)
  | 0xC8 => some (.atomVV o)
  | 0xC9 => some (.atomVS o)
  | 0xCA => some (.atomSS o)
  | 0xCB => some (.atomrVV o)
  | 0xCC => some (.atomrVS o)
  | 0xCD => some (.atomrSS o)
  | 0xCE => some (.casVV o)
  | 0xCF => some (.casVS o)
  | 0xD0 => some (.casSS o)
  | 0xD1 => some (.oatomVV o)
  | 0xD2 => some (.oatomVS o)
  | _ => none


/-- The operand tables, one line per opcode of the 64-bit format: R227, R258, R284, R299, R322, R341. -/
def Instr.row : Instr → Option Row
  | .sadd _ => some (.mk 0x20 .s .s .s .z tyBIN fnSat .b .q .both true false)
  | .ssub _ => some (.mk 0x21 .s .s .s .z tyBIN fnSat .b .q .both true false)
  | .smul _ => some (.mk 0x22 .s .s .s .z tyBIN fn0 .b .q .both true false)
  | .smulh _ => some (.mk 0x23 .s .s .s .z tyIN32 fn0 .b .q .both true false)
  | .sand _ => some (.mk 0x24 .s .s .s .z tyNone fn0 .b .q .both true false)
  | .sor _ => some (.mk 0x25 .s .s .s .z tyNone fn0 .b .q .both true false)
  | .sxor _ => some (.mk 0x26 .s .s .s .z tyNone fn0 .b .q .both true false)
  | .sshl _ => some (.mk 0x27 .s .s .s .z tyNone fn0 .b .q .both true false)
  | .sshr _ => some (.mk 0x28 .s .s .s .z tyNone fn0 .b .q .both true false)
  | .ssar _ => some (.mk 0x29 .s .s .s .z tyNone fn0 .b .q .both true false)
  | .smin _ => some (.mk 0x2A .s .s .s .z tyIN32 fn0 .b .q .both true false)
  | .smax _ => some (.mk 0x2B .s .s .s .z tyIN32 fn0 .b .q .both true false)
  | .ssel _ => some (.mk 0x2C .s .s .s .q tyNone fn0 .no .q .both true false)
  | .scmp _ => some (.mk 0x2D .q .st .st .z tyAll6 fnScmp .b .q .both true false)
  | .sbfe _ => some (.mk 0x2E .s .s .s .s tyIN32 fn0 .c .q .both true false)
  | .sclz _ => some (.mk 0x2F .s .s .z .z tyNone fn0 .no .q .both true false)
  | .spopc _ => some (.mk 0x30 .s .s .z .z tyNone fn0 .no .q .both true false)
  | .saddp _ => some (.mk 0x31 .sp .sp .sp .z [3, 4, 5] fn0 .b .q .both true false)
  | .ssubp _ => some (.mk 0x32 .sp .sp .sp .z [3, 4, 5] fn0 .b .q .both true false)
  | .sshlp _ => some (.mk 0x33 .sp .sp .s .z [3] fn0 .b .q .both true false)
  | .smov _ => some (.mk 0x34 .st .st .z .z tyB fn0 .a .q .both true false)
  | .plop _ => some (.mk 0x35 .p .p .p .z tyNone (fnBits 4) .no .p .crew true false)
  | .qlop _ => some (.mk 0x36 .q .q .q .z tyNone (fnBits 4) .no .q .both true false)
  | .pmask _ => some (.mk 0x37 .s .p .z .z tyNone (fnBits 2) .no .q .crew true false)
  | .pset _ => some (.mk 0x38 .p .s .z .z tyNone (fnBits 2) .no .q .crew true false)
  | .sysr _ => some (.mk 0x39 .sysD .z .z .z tyNone fnSys .no .q .both true false)
  | .sysw _ => some (.mk 0x3A .z .sysA .z .z tyNone fnSys .no .q .both true false)
  | .trap _ => some (.mk 0x3B .z .s .z .z tyNone fn0 .a .q .both true false)
  | .waitEng _ => some (.mk 0x3C .s .s .z .z tyNone (fnBits 2) .a .q .both true false)
  | .hwait _ => some (.mk 0x3D .s .h .z .z tyNone fn0 .no .q .both true false)
  | .htest _ => some (.mk 0x3E .q .h .z .z tyNone fn0 .no .q .both true false)
  | .hcancel _ => some (.mk 0x3F .z .h .z .z tyNone fn0 .no .q .both true false)
  | .hpass _ => some (.mk 0x40 .z .h .s .z tyNone fn0 .b .q .crew true false)
  | .bra _ => some (.mk 0x41 .z .s .z .z tyNone fn0 .a .q .both false false)
  | .brc _ => some (.mk 0x42 .z .brc .s .z tyNone (fnMode 2) .b .q .both false false)
  | .brd _ => some (.mk 0x43 .z .p .s .z tyNone fn0 .b .q .crew false false)
  | .call _ => some (.mk 0x44 .z .s .z .z tyNone fn0 .a .q .both false false)
  | .brx _ => some (.mk 0x45 .z .s .z .z tyNone fn0 .a .q .both true false)
  | .callx _ => some (.mk 0x46 .z .s .z .z tyNone fn0 .a .q .both true false)
  | .draw _ => some (.mk 0x47 .z .s .s .z tyNone fn0 .b .q .crew true false)
  | .vadd _ => some (.mk 0x50 .vt .vst .vst .z tyAll6 fnHi0 .b .p .crew true true)
  | .vsub _ => some (.mk 0x51 .vt .vst .vst .z tyAll6 fnHi0 .b .p .crew true true)
  | .vmul _ => some (.mk 0x52 .vt .vst .vst .z tyAll6 fnHi0 .b .p .crew true true)
  | .vmulh _ => some (.mk 0x53 .vt .vst .vst .z tyIN fnHi0 .b .p .crew true true)
  | .vmad _ => some (.mk 0x54 .vt .vst .vst .vst tyIN fnHi0 .c .p .crew true true)
  | .vand _ => some (.mk 0x55 .vt .vst .vst .z tyB fnHi0 .b .p .crew true true)
  | .vor _ => some (.mk 0x56 .vt .vst .vst .z tyB fnHi0 .b .p .crew true true)
  | .vxor _ => some (.mk 0x57 .vt .vst .vst .z tyB fnHi0 .b .p .crew true true)
  | .vshl _ => some (.mk 0x58 .vt .vst .vs .z tyB fnHi0 .b .p .crew true true)
  | .vshr _ => some (.mk 0x59 .vt .vst .vs .z tyB fnHi0 .b .p .crew true true)
  | .vsar _ => some (.mk 0x5A .vt .vst .vs .z tyB fnHi0 .b .p .crew true true)
  | .vmin _ => some (.mk 0x5B .vt .vst .vst .z tyIN fnHi0 .b .p .crew true true)
  | .vmax _ => some (.mk 0x5C .vt .vst .vst .z tyIN fnHi0 .b .p .crew true true)
  | .vabs _ => some (.mk 0x5D .vt .vst .z .z tyI fnHi0 .no .p .crew true true)
  | .vneg _ => some (.mk 0x5E .vt .vst .z .z tyI fnHi0 .no .p .crew true true)
  | .vadds _ => some (.mk 0x5F .vt .vst .vst .z tyIN fnHi0 .b .p .crew true true)
  | .vsubs _ => some (.mk 0x60 .vt .vst .vst .z tyIN fnHi0 .b .p .crew true true)
  | .vclz _ => some (.mk 0x61 .v .vst .z .z tyB fnHi0 .no .p .crew true true)
  | .vpopc _ => some (.mk 0x62 .v .vst .z .z tyB fnHi0 .no .p .crew true true)
  | .vbfe _ => some (.mk 0x63 .v .vs .vs .vs tyIN32 fnHi0 .c .p .crew true true)
  | .vbfi _ => some (.mk 0x64 .v .vs .vs .vs tyNone fnHi0 .c .p .crew true true)
  | .vsel _ => some (.mk 0x65 .vt .vst .vst .p tyAny fnHi0 .no .p .crew true true)
  | .vmov _ => some (.mk 0x66 .vt .vst .z .z tyAny fnHi0 .a .p .crew true true)
  | .vcmp _ => some (.mk 0x67 .p .vst .vst .z tyAll6 fnVcmp .b .p .crew true true)
  | .vcvt _ => some (.mk 0x68 .vcvtD .vst .z .z [0, 1, 2, 3, 4, 5, 6, 7, 8, 9] fnVcvt .no .p .crew true true)
  | .vsibget _ => some (.mk 0x69 .vt .vst .s .z [6, 7, 8, 9, 12, 13, 14, 15] fnHi0 .b .p .crew true true)
  | .vsibmean _ => some (.mk 0x6A .vt .vst .z .z tyF fnHi0 .no .p .crew true true)
  | .vdigs _ => some (.mk 0x6B .v .vst .z .z tyF fnHi0 .no .p .crew true true)
  | .vnot _ => some (.mk 0x6C .vt .vst .z .z tyB fnHi0 .no .p .crew true true)
  | .vfadd _ => some (.mk 0x70 .vt .vst .vst .z tyF fnHi0 .b .p .crew true true)
  | .vfsub _ => some (.mk 0x71 .vt .vst .vst .z tyF fnHi0 .b .p .crew true true)
  | .vfmul _ => some (.mk 0x72 .vt .vst .vst .z tyF fnHi0 .b .p .crew true true)
  | .vfma _ => some (.mk 0x73 .vt .vst .vst .vst tyF fnHi0 .c .p .crew true true)
  | .vfdiv _ => some (.mk 0x74 .vt .vst .vst .z tyF fnHi0 .b .p .crew true true)
  | .vfsqrt _ => some (.mk 0x75 .vt .vst .z .z tyF fnHi0 .no .p .crew true true)
  | .vfmin _ => some (.mk 0x76 .vt .vst .vst .z tyF fnHi0 .b .p .crew true true)
  | .vfmax _ => some (.mk 0x77 .vt .vst .vst .z tyF fnHi0 .b .p .crew true true)
  | .vfabs _ => some (.mk 0x78 .vt .vst .z .z tyF fnHi0 .no .p .crew true true)
  | .vfneg _ => some (.mk 0x79 .vt .vst .z .z tyF fnHi0 .no .p .crew true true)
  | .vfcps _ => some (.mk 0x7A .vt .vst .vst .z tyF fnHi0 .b .p .crew true true)
  | .vfcmp _ => some (.mk 0x7B .p .vst .vst .z tyF fnVfcmp .b .p .crew true true)
  | .vfrcp _ => some (.mk 0x7C .v .vs .z .z tyF3 fnHi0 .no .p .crew true true)
  | .vfrcpr _ => some (.mk 0x7D .v .vs .z .z tyF3 fnHi0 .no .p .crew true true)
  | .vfrsq _ => some (.mk 0x7E .v .vs .z .z tyF3 fnHi0 .no .p .crew true true)
  | .vfrsqr _ => some (.mk 0x7F .v .vs .z .z tyF3 fnHi0 .no .p .crew true true)
  | .vexp2 _ => some (.mk 0x80 .v .vs .z .z tyF3 fnHi0 .no .p .crew true true)
  | .vexp2r _ => some (.mk 0x81 .v .vs .z .z tyF3 fnHi0 .no .p .crew true true)
  | .vlog2 _ => some (.mk 0x82 .v .vs .z .z tyF3 fnHi0 .no .p .crew true true)
  | .vlog2r _ => some (.mk 0x83 .v .vs .z .z tyF3 fnHi0 .no .p .crew true true)
  | .vsin _ => some (.mk 0x84 .v .vs .z .z tyF3 fnHi0 .no .p .crew true true)
  | .vsinr _ => some (.mk 0x85 .v .vs .z .z tyF3 fnHi0 .no .p .crew true true)
  | .vcos _ => some (.mk 0x86 .v .vs .z .z tyF3 fnHi0 .no .p .crew true true)
  | .vcosr _ => some (.mk 0x87 .v .vs .z .z tyF3 fnHi0 .no .p .crew true true)
  | .vtanh _ => some (.mk 0x88 .v .vs .z .z tyF3 fnHi0 .no .p .crew true true)
  | .vtanhr _ => some (.mk 0x89 .v .vs .z .z tyF3 fnHi0 .no .p .crew true true)
  | .vnfadd _ => some (.mk 0x8A .v .vs .vs .z tyNFs fnHi0 .b .p .crew true true)
  | .vnfmul _ => some (.mk 0x8B .v .vs .vs .z tyNFs fnHi0 .b .p .crew true true)
  | .vnffma _ => some (.mk 0x8C .v .vs .vs .vs tyNFs fnHi0 .c .p .crew true true)
  | .vnfpack _ => some (.mk 0x8D .v .vs .s .z tyNFs fnHi0 .b .p .crew true true)
  | .vnfunpk _ => some (.mk 0x8E .v .vs .s .z tyNFs fnHi0 .b .p .crew true true)
  | .vqblk _ => some (.mk 0x8F .v .vs .perm .z [8] fnVqblk .no .p .crew true true)
  | .vti _ => some (.mk 0x90 .s .s .z .z tyF3 fn0 .a .p .crew true false)
  | .vgmm _ => some (.mk 0x91 .v .v .rows .v [8] (fnBits 2) .no .p .crew true false)
  | .vshfl _ => some (.mk 0x92 .vt .vt .sbs .z tyAny fnShfl .b .p .crew true false)
  | .vbcast _ => some (.mk 0x93 .vt .vt .bcast .z tyAny fnBcast .b .p .crew true false)
  | .vscan _ => some (.mk 0x94 .vt .vt .z .z tyScan fnScan .no .p .crew true false)
  | .vred _ => some (.mk 0x95 .vt .vt .z .z tyScan fnRed .no .p .crew true false)
  | .vote _ => some (.mk 0x96 .p .p .z .z tyNone fnVote .no .p .crew true false)
  | .ballot _ => some (.mk 0x97 .ballot .p .z .z tyNone fn0 .no .p .crew true false)
  | .regrp _ => some (.mk 0x98 .q .s8 .s .z tyNone fn0 .b .must .crew true false)
  | .vgf2mm _ => some (.mk 0x99 .vp .vp .vp .z [3] fn0 .no .p .crew true false)
  | .vbdep _ => some (.mk 0x9A .vt .vt .vt .z tyB fn0 .b .p .crew true false)
  | .vbext _ => some (.mk 0x9B .vt .vt .vt .z tyB fn0 .b .p .crew true false)
  | .vbperm _ => some (.mk 0x9C .vp .vp .v12 .z [3] fn0 .no .p .crew true false)
  | .lbind _ => some (.mk 0xA0 .z .s .z .z tyNone fn0 .a .must .crew true false)
  | .ladd _ => some (.mk 0xA1 .v .v .v .cin [2] fnLadd .no .p .crew true false)
  | .lsub _ => some (.mk 0xA2 .v .v .v .cin [2] fnLadd .no .p .crew true false)
  | .lmuls _ => some (.mk 0xA3 .v .v .v .v [2] fnAny .no .p .crew true false)
  | .lshl _ => some (.mk 0xA4 .v .v .s .z [2] fnLshl .b .p .crew true false)
  | .lshr _ => some (.mk 0xA5 .v .v .s .z [2] fnLshl .b .p .crew true false)
  | .lcmp _ => some (.mk 0xA6 .p .v .v .z [2] fnLcmp .no .p .crew true false)
  | .lcarry _ => some (.mk 0xA7 .p .p .z .z tyNone (fnBits 1) .no .p .crew true false)
  | .cpy _ => some (.mk 0xB0 .hnd0 .s .z .z tyNone (fnBits 1) .a .q .both true false)
  | .cpywp _ => some (.mk 0xB1 .sp .s .waitB .z tyNone (fnBits 1) .cpywp .q .both true false)
  | .binit _ => some (.mk 0xB2 .z .s .sp .z tyNone fn0 .b .q .both true false)
  | .bwait _ => some (.mk 0xB3 .s .s .z .z tyNone fn0 .a .q .both true false)
  | .trigPost _ => some (.mk 0xB4 .s .s .z .z tyNone fn0 .a .q .both true false)
  | .trigCancel _ => some (.mk 0xB5 .s .s .z .z tyNone fn0 .a .q .both true false)
  | .trigRead _ => some (.mk 0xB6 .sp .s .z .z tyNone (fnBits 1) .a .q .both true false)
  | .trigAdd _ => some (.mk 0xB7 .z .s .s .z tyNone fnTrigAdd .b .q .both true false)
  | .mldb _ => some (.mk 0xE0 .hnd2 .sp .s .s tyNone (fnBits 4) .c .q .cox true false)
  | .mlda _ => some (.mk 0xE1 .z .s .s .s tyNone (fnBits 2) .c .q .cox true false)
  | .mma _ => some (.mk 0xE2 .hnd2 .s4 .s .z tyNone (fnBits 3) .b .q .cox true false)
  | .mzero _ => some (.mk 0xE3 .z .s .z .z tyNone (fnBits 2) .a .q .cox true false)
  | .mdrain _ => some (.mk 0xE4 .hnd2 .s .sp .s tyNone fnMdrain .c .q .cox true false)
  | .mstat _ => some (.mk 0xE5 .s .z .z .z tyNone (fnBits 2) .no .q .cox true false)
  | .vocabStream _ => some (.mk 0xE6 .hnd2 .s .z .z tyNone (fnBits 3) .a .q .cox true false)
  | .vocabRegen _ => some (.mk 0xE7 .hnd2 .s .z .z tyNone (fnBits 3) .a .q .cox true false)
  | .vmeld _ => some (.mk 0xE8 .hnd2 .s .s .s tyNone (fnBits 4) .c .q .both true false)
  | .vheaprd _ => some (.mk 0xE9 .heap .s .s .z tyNone (fnBits 1) .b .pq .both true false)
  | _ => none

/-- The operand fields of an instruction of the 64-bit format. -/
def Instr.op? : Instr → Option Op
  | .sadd o => some o
  | .ssub o => some o
  | .smul o => some o
  | .smulh o => some o
  | .sand o => some o
  | .sor o => some o
  | .sxor o => some o
  | .sshl o => some o
  | .sshr o => some o
  | .ssar o => some o
  | .smin o => some o
  | .smax o => some o
  | .ssel o => some o
  | .scmp o => some o
  | .sbfe o => some o
  | .sclz o => some o
  | .spopc o => some o
  | .saddp o => some o
  | .ssubp o => some o
  | .sshlp o => some o
  | .smov o => some o
  | .plop o => some o
  | .qlop o => some o
  | .pmask o => some o
  | .pset o => some o
  | .sysr o => some o
  | .sysw o => some o
  | .trap o => some o
  | .waitEng o => some o
  | .hwait o => some o
  | .htest o => some o
  | .hcancel o => some o
  | .hpass o => some o
  | .bra o => some o
  | .brc o => some o
  | .brd o => some o
  | .call o => some o
  | .brx o => some o
  | .callx o => some o
  | .draw o => some o
  | .vadd o => some o
  | .vsub o => some o
  | .vmul o => some o
  | .vmulh o => some o
  | .vmad o => some o
  | .vand o => some o
  | .vor o => some o
  | .vxor o => some o
  | .vshl o => some o
  | .vshr o => some o
  | .vsar o => some o
  | .vmin o => some o
  | .vmax o => some o
  | .vabs o => some o
  | .vneg o => some o
  | .vadds o => some o
  | .vsubs o => some o
  | .vclz o => some o
  | .vpopc o => some o
  | .vbfe o => some o
  | .vbfi o => some o
  | .vsel o => some o
  | .vmov o => some o
  | .vcmp o => some o
  | .vcvt o => some o
  | .vsibget o => some o
  | .vsibmean o => some o
  | .vdigs o => some o
  | .vnot o => some o
  | .vfadd o => some o
  | .vfsub o => some o
  | .vfmul o => some o
  | .vfma o => some o
  | .vfdiv o => some o
  | .vfsqrt o => some o
  | .vfmin o => some o
  | .vfmax o => some o
  | .vfabs o => some o
  | .vfneg o => some o
  | .vfcps o => some o
  | .vfcmp o => some o
  | .vfrcp o => some o
  | .vfrcpr o => some o
  | .vfrsq o => some o
  | .vfrsqr o => some o
  | .vexp2 o => some o
  | .vexp2r o => some o
  | .vlog2 o => some o
  | .vlog2r o => some o
  | .vsin o => some o
  | .vsinr o => some o
  | .vcos o => some o
  | .vcosr o => some o
  | .vtanh o => some o
  | .vtanhr o => some o
  | .vnfadd o => some o
  | .vnfmul o => some o
  | .vnffma o => some o
  | .vnfpack o => some o
  | .vnfunpk o => some o
  | .vqblk o => some o
  | .vti o => some o
  | .vgmm o => some o
  | .vshfl o => some o
  | .vbcast o => some o
  | .vscan o => some o
  | .vred o => some o
  | .vote o => some o
  | .ballot o => some o
  | .regrp o => some o
  | .vgf2mm o => some o
  | .vbdep o => some o
  | .vbext o => some o
  | .vbperm o => some o
  | .lbind o => some o
  | .ladd o => some o
  | .lsub o => some o
  | .lmuls o => some o
  | .lshl o => some o
  | .lshr o => some o
  | .lcmp o => some o
  | .lcarry o => some o
  | .cpy o => some o
  | .cpywp o => some o
  | .binit o => some o
  | .bwait o => some o
  | .trigPost o => some o
  | .trigCancel o => some o
  | .trigRead o => some o
  | .trigAdd o => some o
  | .mldb o => some o
  | .mlda o => some o
  | .mma o => some o
  | .mzero o => some o
  | .mdrain o => some o
  | .mstat o => some o
  | .vocabStream o => some o
  | .vocabRegen o => some o
  | .vmeld o => some o
  | .vheaprd o => some o
  | _ => none

/-- The instruction of the 64-bit format whose primary opcode is given (R217). -/
def Instr.ofOp (opcode : Nat) (o : Op) : Option Instr :=
  match opcode with
  | 0x20 => some (.sadd o)
  | 0x21 => some (.ssub o)
  | 0x22 => some (.smul o)
  | 0x23 => some (.smulh o)
  | 0x24 => some (.sand o)
  | 0x25 => some (.sor o)
  | 0x26 => some (.sxor o)
  | 0x27 => some (.sshl o)
  | 0x28 => some (.sshr o)
  | 0x29 => some (.ssar o)
  | 0x2A => some (.smin o)
  | 0x2B => some (.smax o)
  | 0x2C => some (.ssel o)
  | 0x2D => some (.scmp o)
  | 0x2E => some (.sbfe o)
  | 0x2F => some (.sclz o)
  | 0x30 => some (.spopc o)
  | 0x31 => some (.saddp o)
  | 0x32 => some (.ssubp o)
  | 0x33 => some (.sshlp o)
  | 0x34 => some (.smov o)
  | 0x35 => some (.plop o)
  | 0x36 => some (.qlop o)
  | 0x37 => some (.pmask o)
  | 0x38 => some (.pset o)
  | 0x39 => some (.sysr o)
  | 0x3A => some (.sysw o)
  | 0x3B => some (.trap o)
  | 0x3C => some (.waitEng o)
  | 0x3D => some (.hwait o)
  | 0x3E => some (.htest o)
  | 0x3F => some (.hcancel o)
  | 0x40 => some (.hpass o)
  | 0x41 => some (.bra o)
  | 0x42 => some (.brc o)
  | 0x43 => some (.brd o)
  | 0x44 => some (.call o)
  | 0x45 => some (.brx o)
  | 0x46 => some (.callx o)
  | 0x47 => some (.draw o)
  | 0x50 => some (.vadd o)
  | 0x51 => some (.vsub o)
  | 0x52 => some (.vmul o)
  | 0x53 => some (.vmulh o)
  | 0x54 => some (.vmad o)
  | 0x55 => some (.vand o)
  | 0x56 => some (.vor o)
  | 0x57 => some (.vxor o)
  | 0x58 => some (.vshl o)
  | 0x59 => some (.vshr o)
  | 0x5A => some (.vsar o)
  | 0x5B => some (.vmin o)
  | 0x5C => some (.vmax o)
  | 0x5D => some (.vabs o)
  | 0x5E => some (.vneg o)
  | 0x5F => some (.vadds o)
  | 0x60 => some (.vsubs o)
  | 0x61 => some (.vclz o)
  | 0x62 => some (.vpopc o)
  | 0x63 => some (.vbfe o)
  | 0x64 => some (.vbfi o)
  | 0x65 => some (.vsel o)
  | 0x66 => some (.vmov o)
  | 0x67 => some (.vcmp o)
  | 0x68 => some (.vcvt o)
  | 0x69 => some (.vsibget o)
  | 0x6A => some (.vsibmean o)
  | 0x6B => some (.vdigs o)
  | 0x6C => some (.vnot o)
  | 0x70 => some (.vfadd o)
  | 0x71 => some (.vfsub o)
  | 0x72 => some (.vfmul o)
  | 0x73 => some (.vfma o)
  | 0x74 => some (.vfdiv o)
  | 0x75 => some (.vfsqrt o)
  | 0x76 => some (.vfmin o)
  | 0x77 => some (.vfmax o)
  | 0x78 => some (.vfabs o)
  | 0x79 => some (.vfneg o)
  | 0x7A => some (.vfcps o)
  | 0x7B => some (.vfcmp o)
  | 0x7C => some (.vfrcp o)
  | 0x7D => some (.vfrcpr o)
  | 0x7E => some (.vfrsq o)
  | 0x7F => some (.vfrsqr o)
  | 0x80 => some (.vexp2 o)
  | 0x81 => some (.vexp2r o)
  | 0x82 => some (.vlog2 o)
  | 0x83 => some (.vlog2r o)
  | 0x84 => some (.vsin o)
  | 0x85 => some (.vsinr o)
  | 0x86 => some (.vcos o)
  | 0x87 => some (.vcosr o)
  | 0x88 => some (.vtanh o)
  | 0x89 => some (.vtanhr o)
  | 0x8A => some (.vnfadd o)
  | 0x8B => some (.vnfmul o)
  | 0x8C => some (.vnffma o)
  | 0x8D => some (.vnfpack o)
  | 0x8E => some (.vnfunpk o)
  | 0x8F => some (.vqblk o)
  | 0x90 => some (.vti o)
  | 0x91 => some (.vgmm o)
  | 0x92 => some (.vshfl o)
  | 0x93 => some (.vbcast o)
  | 0x94 => some (.vscan o)
  | 0x95 => some (.vred o)
  | 0x96 => some (.vote o)
  | 0x97 => some (.ballot o)
  | 0x98 => some (.regrp o)
  | 0x99 => some (.vgf2mm o)
  | 0x9A => some (.vbdep o)
  | 0x9B => some (.vbext o)
  | 0x9C => some (.vbperm o)
  | 0xA0 => some (.lbind o)
  | 0xA1 => some (.ladd o)
  | 0xA2 => some (.lsub o)
  | 0xA3 => some (.lmuls o)
  | 0xA4 => some (.lshl o)
  | 0xA5 => some (.lshr o)
  | 0xA6 => some (.lcmp o)
  | 0xA7 => some (.lcarry o)
  | 0xB0 => some (.cpy o)
  | 0xB1 => some (.cpywp o)
  | 0xB2 => some (.binit o)
  | 0xB3 => some (.bwait o)
  | 0xB4 => some (.trigPost o)
  | 0xB5 => some (.trigCancel o)
  | 0xB6 => some (.trigRead o)
  | 0xB7 => some (.trigAdd o)
  | 0xE0 => some (.mldb o)
  | 0xE1 => some (.mlda o)
  | 0xE2 => some (.mma o)
  | 0xE3 => some (.mzero o)
  | 0xE4 => some (.mdrain o)
  | 0xE5 => some (.mstat o)
  | 0xE6 => some (.vocabStream o)
  | 0xE7 => some (.vocabRegen o)
  | 0xE8 => some (.vmeld o)
  | 0xE9 => some (.vheaprd o)
  | _ => none


/-- The causes of R204 for an instruction of the 32-bit format, lowest first: its register ranges (R218, R238 to R240). -/
def Instr.shortCause (i : Instr) (cx : Option EncCtx) : Option Nat :=
  let s (n : BitVec 8) : Bool := n.toNat < 128
  let v (n : BitVec 8) : Bool := n.toNat < RegClass.limit cx .v
  let rec5 (n : BitVec 8) : Bool :=
    match cx with
    | some c => if c.single then n.toNat % 4 == 0 && n.toNat < 128 else n.toNat % 2 == 0 && n.toNat < 128
    | none => n.toNat % 2 == 0 && n.toNat < 128
  let crewOnly : Option Nat := match cx with | some c => if c.cox then some 6 else none | none => none
  match i with
  | .saddShort d a _ | .ssubShort d a _ | .sshlShort d a _ | .sshrShort d a _ | .smovShort d a =>
    if s d && s a then none else some 5
  | .vmovShort d a => if v d && v a then crewOnly else some 5
  | .bar n => if n.toNat < 16 then crewOnly else some 3
  | .dpark d => if rec5 d then crewOnly else some 5
  | .dresume a => if rec5 a then crewOnly else some 5
  | .dprune d a => if d.toNat < 16 && rec5 a then crewOnly else some 5
  | .join | .bktOpen | .bktClose | .lfree => crewOnly
  | _ => none

/-- The lowest cause of the illegal-encoding trap that applies to an instruction (R204): for every issuer when `cx` is
`none`, for the issuer `cx` otherwise. -/
def Instr.cause (i : Instr) (cx : Option EncCtx) : Option Nat :=
  match i.row, i.op? with
  | some r, some o => r.cause o cx
  | _, _ => match i.memRow, i.mem? with
    | some r, some o => r.cause o cx
    | _, _ => i.shortCause cx

/-- Whether the row is an event of the device, which has no encoding. -/
def Instr.isEvent (i : Instr) : Bool :=
  match i with
  | .loadReturn _ _ => true
  | .producerFill _ _ => true
  | .limbLanding _ => true
  | .storeAck _ => true
  | .atomicPerform _ => true
  | .fetchBlockArrive _ _ _ => true
  | .pageWalkComplete _ => true
  | .heldRecordWrite _ => true
  | .invalidateRange _ => true
  | .invalidateAsid => true
  | .invalidateAll => true
  | .invalidationDone => true
  | .replay _ => true
  | .cancelLaunch _ => true
  | .migrate _ _ => true
  | .migrationComplete _ => true
  | .pinHoldExpiry _ _ => true
  | .submissionTailWrite _ _ => true
  | .launchAccept => true
  | .gangPlacement => true
  | .reservationTimeout _ => true
  | .drawAnswer => true
  | .launchComplete _ => true
  | .oatomUpdateAccept _ => true
  | .roundClose _ => true
  | .roundApply _ _ => true
  | .roundWordWrite _ => true
  | .regrpFuse _ _ => true
  | .copyAccept _ _ => true
  | .copyStep _ _ => true
  | .copyComplete _ _ => true
  | .matrixOpComplete _ _ => true
  | .vocabTileCommit _ _ => true
  | .triggerRaise _ => true
  | .postedTransferComplete _ => true
  | .remoteIncrement _ => true
  | .fabricPacket _ => true
  | .fabricAck _ _ _ => true
  | .streamEndMark _ => true
  | .streamAbortMark _ => true
  | .endToEndTimeout _ _ => true
  | .hwmEntryExpiry _ _ => true
  | .linkFlitCrcError _ => true
  | .drain => true
  | .drainTokenReturn _ => true
  | .idtabWrite _ _ => true
  | .preemptGang _ => true
  | .preemptLaunch _ => true
  | .preemptSaveDone _ _ => true
  | .dbgStop _ => true
  | .dbgResume _ => true
  | .dbgStep _ => true
  | .ctrclr _ => true
  | .watchResume _ => true
  | .mbReadCrewState => true
  | .mbWriteRegister => true
  | .sampleTick _ => true
  | .hostSnoop _ => true
  | .bar2Access _ _ _ => true
  | .cxlLinkTraining _ _ _ => true
  | .supplyDroop _ => true
  | .supplyRecovery _ => true
  | .firmwareBoot _ _ => true
  | .spdmRequest _ => true
  | .registerWrite _ _ => true
  | .partitionCycle _ => true
  | .cxlMemAccess _ _ _ => true
  | .remoteReadRequest _ _ _ _ => true
  | .damhedanLinkTraining _ _ => true
  | .damhedanLinkDown _ => true
  | _ => false

/-- A well-formed instruction: one with an encoding whose fields break no rule that holds for every issuer. -/
def Instr.wellFormed (i : Instr) : Bool := !i.isEvent && (i.cause none).isNone

end Sys2Proof
end

