-- ==== Sys2Proof/Machine/Float.lean ====
section
/-! DEFINITION. Floating-point arithmetic: formats, exact results rounded once, digit counts, number-format codes, blocks, the Varfy generator and the elementary functions. -/

namespace Sys2Proof.Machine

/-! ### Formats and values (R173, R174) -/

/-- A binary format: exponent and fraction widths and bias; its width is one more than their sum. -/
structure Fmt where
  ew : Nat
  fw : Nat
  bias : Nat
  deriving DecidableEq, Repr

def f16 : Fmt := ⟨5, 10, 15⟩
def bf16 : Fmt := ⟨8, 7, 127⟩
def f32 : Fmt := ⟨8, 23, 127⟩
def f64 : Fmt := ⟨11, 52, 1023⟩

/-- The precision of a format in bits, the hidden bit included. -/
def Fmt.p (f : Fmt) : Nat := f.fw + 1

/-- The format of a float TYPE (R212); binary32 for every other code. -/
def fmtOf (ty : Nat) : Fmt := if ty = tyF16 then f16 else if ty = tyBF16 then bf16 else if ty = tyF64 then f64 else f32

/-- A float value: NaN (signalling or not), infinity, or (-1)^neg · m · 2^e. -/
inductive FV where
  | nan (sig : Bool)
  | inf (neg : Bool)
  | fin (neg : Bool) (m : Nat) (e : Int)
  deriving DecidableEq, Repr

/-- The encoding of infinity of a sign. -/
def Fmt.infBits (f : Fmt) (neg : Bool) : Nat := (if neg then 2 ^ (f.ew + f.fw) else 0) + (2 ^ f.ew - 1) * 2 ^ f.fw

/-- The default quiet NaN (R173). -/
def Fmt.qnan (f : Fmt) : Nat := (2 ^ f.ew - 1) * 2 ^ f.fw + 2 ^ (f.fw - 1)

/-- The largest finite value of a sign. -/
def Fmt.maxBits (f : Fmt) (neg : Bool) : Nat := f.infBits neg - 1

/-- The sign bit of an encoding. -/
def Fmt.sign (f : Fmt) (v : Nat) : Bool := v.testBit (f.ew + f.fw)

/-- The encoding without its sign. -/
def Fmt.mag (f : Fmt) (v : Nat) : Nat := v % 2 ^ (f.ew + f.fw)

/-- The value of an encoding (R173). -/
def Fmt.decode (f : Fmt) (v : Nat) : FV :=
  let e := bits v f.fw f.ew
  let m := bits v 0 f.fw
  if e = 2 ^ f.ew - 1 then (if m = 0 then .inf (f.sign v) else .nan (!(m.testBit (f.fw - 1))))
  else if e = 0 then .fin (f.sign v) m (1 - (f.bias : Int) - f.fw)
  else .fin (f.sign v) (m + 2 ^ f.fw) ((e : Int) - f.bias - f.fw)

/-! ### One rounding (R188, R189) -/

/-- A rounding direction. -/
inductive Dir where
  | down | up | near | zero
  deriving DecidableEq, Repr

/-- The exception flags, at their places in ARITHSTAT (R191). -/
def flNV : Nat := 1
def flDZ : Nat := 2
def flOF : Nat := 4
def flUF : Nat := 8
def flNX : Nat := 16

/-- Whether the direction rounds a magnitude of a sign away from zero: `rem` of `2^k` was cut from an even or odd `mant`. -/
def Dir.incr (d : Dir) (neg odd : Bool) (rem k : Nat) : Bool :=
  if rem = 0 then false
  else match d with
    | .zero => false
    | .down => neg
    | .up => !neg
    | .near => let half := 2 ^ (k - 1)
               decide (half < rem) || (rem == half && odd)

/-- `m · 2^e` to a multiple of `2^q`: the rounded multiple and whether it is inexact. -/
def roundAt (d : Dir) (neg : Bool) (m : Nat) (e q : Int) : Nat × Bool :=
  if q ≤ e then (m * 2 ^ (e - q).toNat, false)
  else
    let k := (q - e).toNat
    let t := m / 2 ^ k
    let r := m % 2 ^ k
    (if d.incr neg (t % 2 == 1) r k then t + 1 else t, r != 0)

/-- `(-1)^neg · m · 2^e` rounded once to a format, with the IEEE flags; underflow is detected after rounding (R174). -/
def Fmt.round (f : Fmt) (d : Dir) (neg : Bool) (m : Nat) (e : Int) : Nat × Nat :=
  let s := if neg then 2 ^ (f.ew + f.fw) else 0
  if m = 0 then (s, 0)
  else
    let top := (Nat.log2 m : Int) + e
    let emin : Int := 1 - (f.bias : Int)
    let q := (max top emin) - f.fw
    let (t, nx) := roundAt d neg m e q
    let mag := ((q - (emin - f.fw)).toNat) * 2 ^ f.fw + t
    if (2 ^ f.ew - 1) * 2 ^ f.fw ≤ mag then
      let away := match d with
        | .near => true
        | .zero => false
        | .down => neg
        | .up => !neg
      (if away then f.infBits neg else f.maxBits neg, flOF + flNX)
    else
      let tiny := decide (top < emin) &&
        !(decide (top = emin - 1) && (roundAt d neg m e (top - f.fw)).1 == 2 ^ (f.fw + 1))
      (s + mag, (if nx then flNX else 0) + (if nx && tiny then flUF else 0))

/-- A value encoded in a format by one rounding; a NaN becomes the default NaN (R174). -/
def Fmt.ofFV (f : Fmt) (d : Dir) (v : FV) : Nat × Nat :=
  match v with
  | .nan sig => (f.qnan, if sig then flNV else 0)
  | .inf n => (f.infBits n, 0)
  | .fin n m e => f.round d n m e

/-! ### Exact arithmetic -/

/-- A signalling NaN among the operands. -/
def FV.isSig : FV → Bool
  | .nan s => s
  | _ => false

def FV.isNan : FV → Bool
  | .nan _ => true
  | _ => false

def FV.isInf : FV → Bool
  | .inf _ => true
  | _ => false

/-- A finite zero. -/
def FV.isZero : FV → Bool
  | .fin _ 0 _ => true
  | _ => false

def FV.isNeg : FV → Bool
  | .nan _ => false
  | .inf n => n
  | .fin n _ _ => n

def FV.negate : FV → FV
  | .inf n => .inf (!n)
  | .fin n m e => .fin (!n) m e
  | v => v

/-- The exact sum of two finite values; an exact zero takes the sign of R262's rule. -/
def addFin (d : Dir) (n1 : Bool) (m1 : Nat) (e1 : Int) (n2 : Bool) (m2 : Nat) (e2 : Int) : FV :=
  if m1 = 0 && m2 = 0 then .fin (if n1 == n2 then n1 else d == .down) 0 0
  else
    let e := min e1 e2
    let a : Int := (m1 * 2 ^ (e1 - e).toNat : Nat)
    let b : Int := (m2 * 2 ^ (e2 - e).toNat : Nat)
    let r := (if n1 then -a else a) + (if n2 then -b else b)
    if r = 0 then .fin (d == .down) 0 0 else .fin (decide (r < 0)) r.natAbs e

/-- The exact sum, and NV for infinities of opposite sign; NaN operands give NaN. -/
def FV.add (d : Dir) (a b : FV) : FV × Nat :=
  if a.isNan || b.isNan then (.nan false, if a.isSig || b.isSig then flNV else 0)
  else match a, b with
    | .inf x, .inf y => if x == y then (.inf x, 0) else (.nan false, flNV)
    | .inf x, _ => (.inf x, 0)
    | _, .inf y => (.inf y, 0)
    | .fin n1 m1 e1, .fin n2 m2 e2 => (addFin d n1 m1 e1 n2 m2 e2, 0)
    | _, _ => (.nan false, 0)

/-- The exact product, and NV for zero times infinity. -/
def FV.mul (a b : FV) : FV × Nat :=
  if a.isNan || b.isNan then (.nan false, if a.isSig || b.isSig then flNV else 0)
  else
    let n := a.isNeg != b.isNeg
    match a, b with
    | .fin _ m1 e1, .fin _ m2 e2 => (.fin n (m1 * m2) (e1 + e2), 0)
    | _, _ => if a.isZero || b.isZero then (.nan false, flNV) else (.inf n, 0)

/-- `a · b + c` before its rounding; zero times infinity is invalid even with a quiet NaN addend (R262). -/
def FV.fma (d : Dir) (a b c : FV) : FV × Nat :=
  let (p, f) := a.mul b
  if c.isNan then (.nan false, if f != 0 || c.isSig then flNV else 0)
  else if p.isNan then (.nan false, f)
  else p.add d c

/-- `p / q` to `k` bits below the point, rounded to odd so that one further rounding is exact. -/
def divOdd (p q : Nat) (k : Nat) : Nat :=
  let t := p * 2 ^ k / q
  2 * t + (if p * 2 ^ k % q = 0 then 0 else 1)

/-- The integer square root by Newton's method from `x`, `n` steps. -/
def isqrtFrom (n v x : Nat) : Nat :=
  match n with
  | 0 => x
  | n + 1 => let y := (x + v / x) / 2
             if y < x then isqrtFrom n v y else x

/-- The integer square root. -/
def isqrt (v : Nat) : Nat := if v = 0 then 0 else isqrtFrom (Nat.log2 v + 4) v (2 ^ (Nat.log2 v / 2 + 1))

/-- The square root of `m · 2^e` with `k` extra bits, rounded to odd. -/
def sqrtOdd (m : Nat) (e : Int) (k : Nat) : Nat × Int :=
  let (m, e) := if e % 2 = 0 then (m, e) else (2 * m, e - 1)
  let v := m * 2 ^ (2 * k)
  let t := isqrt v
  (2 * t + (if t * t = v then 0 else 1), e / 2 - k - 1)

/-- The quotient before its rounding (R262): DZ for finite nonzero over zero. -/
def FV.div (a b : FV) : FV × Nat :=
  if a.isNan || b.isNan then (.nan false, if a.isSig || b.isSig then flNV else 0)
  else
    let n := a.isNeg != b.isNeg
    match a, b with
    | .inf _, .inf _ => (.nan false, flNV)
    | .inf _, _ => (.inf n, 0)
    | _, .inf _ => (.fin n 0 0, 0)
    | .fin _ m1 e1, .fin _ m2 e2 =>
      if m2 = 0 then (if m1 = 0 then (.nan false, flNV) else (.inf n, flDZ))
      else if m1 = 0 then (.fin n 0 0, 0)
      else let k := Nat.log2 m2 + 60
           (.fin n (divOdd m1 m2 k) (e1 - e2 - k - 1), 0)
    | _, _ => (.nan false, 0)

/-- The square root before its rounding (R262). -/
def FV.sqrt (a : FV) : FV × Nat :=
  match a with
  | .nan s => (.nan false, if s then flNV else 0)
  | .inf n => if n then (.nan false, flNV) else (.inf false, 0)
  | .fin n m e =>
    if m = 0 then (.fin n 0 0, 0)
    else if n then (.nan false, flNV)
    else let (t, e') := sqrtOdd m e 60
         (.fin false t e', 0)

/-- An exact result rounded once, its flags joined with those already raised. -/
def Fmt.finish (f : Fmt) (d : Dir) (r : FV × Nat) : Nat × Nat :=
  let (v, fl) := f.ofFV d r.1
  (v, fl ||| r.2)

def Fmt.add (f : Fmt) (d : Dir) (a b : Nat) : Nat × Nat := f.finish d ((f.decode a).add d (f.decode b))
def Fmt.sub (f : Fmt) (d : Dir) (a b : Nat) : Nat × Nat := f.finish d ((f.decode a).add d (f.decode b).negate)
def Fmt.mul (f : Fmt) (d : Dir) (a b : Nat) : Nat × Nat := f.finish d ((f.decode a).mul (f.decode b))
def Fmt.fma (f : Fmt) (d : Dir) (a b c : Nat) : Nat × Nat := f.finish d ((f.decode a).fma d (f.decode b) (f.decode c))
def Fmt.div (f : Fmt) (d : Dir) (a b : Nat) : Nat × Nat := f.finish d ((f.decode a).div (f.decode b))
def Fmt.sqrt (f : Fmt) (d : Dir) (a : Nat) : Nat × Nat := f.finish d (f.decode a).sqrt

/-- The order of two values that are not NaN: less than, with zeros equal. -/
def FV.lt (a b : FV) : Bool :=
  match a, b with
  | .inf x, .inf y => x && !y
  | .inf x, _ => x
  | _, .inf y => !y
  | .fin n1 m1 e1, .fin n2 m2 e2 =>
    let e := min e1 e2
    let x : Int := (m1 * 2 ^ (e1 - e).toNat : Nat)
    let y : Int := (m2 * 2 ^ (e2 - e).toNat : Nat)
    decide ((if n1 then -x else x) < (if n2 then -y else y))
  | _, _ => false

/-- The order of encodings that are not NaN, with -0 below +0. -/
def Fmt.key (f : Fmt) (v : Nat) : Int := if f.sign v then -(f.mag v : Int) - 1 else f.mag v

/-- VFMIN and VFMAX (R262). -/
def Fmt.minMax (f : Fmt) (mx : Bool) (a b : Nat) : Nat × Nat :=
  let x := f.decode a
  let y := f.decode b
  let fl := if x.isSig || y.isSig then flNV else 0
  if x.isNan && y.isNan then (f.qnan, fl)
  else if x.isNan then (b, fl)
  else if y.isNan then (a, fl)
  else if (decide (f.key a < f.key b)) != mx then (a, fl) else (b, fl)

/-- VFCMP of one sibling: the outcome and NV (R263). -/
def Fmt.cmp (f : Fmt) (cond a b : Nat) : Bool × Nat :=
  let x := f.decode a
  let y := f.decode b
  let un := x.isNan || y.isNan
  let eq := !un && !(x.lt y) && !(y.lt x)
  let lt := !un && x.lt y
  let r := match cond with
    | 0 => eq
    | 1 => !eq
    | 2 => lt
    | 3 => lt || eq
    | 4 => !un && !lt && !eq
    | 5 => !un && !lt
    | 6 => un
    | _ => !un
  let nv := x.isSig || y.isSig || (2 ≤ cond && cond ≤ 5 && un)
  (r, if nv then flNV else 0)

/-! ### Median, mean and digit count (R193, R195) -/

/-- The median of three siblings, with -0 below +0; none when any is NaN (R193). -/
def Fmt.median (f : Fmt) (x0 x1 x2 : Nat) : Option Nat :=
  if (f.decode x0).isNan || (f.decode x1).isNan || (f.decode x2).isNan then none
  else
    let lo (a b : Nat) : Nat := if f.key a < f.key b then a else b
    let hi (a b : Nat) : Nat := if f.key a < f.key b then b else a
    some (hi (lo x0 x1) (lo (hi x0 x1) x2))

/-- A binary64 value of unbounded exponent (R195). -/
structure Ub where
  neg : Bool
  m : Nat
  e : Int
  deriving DecidableEq, Repr

/-- A value rounded to nearest even to 53 bits. -/
def Ub.of (neg : Bool) (m : Nat) (e : Int) : Ub :=
  if m = 0 then ⟨neg, 0, 0⟩
  else
    let q := (Nat.log2 m : Int) + e - 52
    ⟨neg, (roundAt .near neg m e q).1, q⟩

def Ub.add (a b : Ub) : Ub :=
  match addFin .near a.neg a.m a.e b.neg b.m b.e with
  | .fin n m e => Ub.of n m e
  | _ => ⟨false, 0, 0⟩

def Ub.sub (a b : Ub) : Ub := a.add { b with neg := !b.neg }
def Ub.mul (a b : Ub) : Ub := Ub.of (a.neg != b.neg) (a.m * b.m) (a.e + b.e)

def Ub.div (a b : Ub) : Ub :=
  if b.m = 0 || a.m = 0 then ⟨a.neg != b.neg, 0, 0⟩
  else let k := Nat.log2 b.m + 60
       Ub.of (a.neg != b.neg) (divOdd a.m b.m k) (a.e - b.e - k - 1)

def Ub.sqrt (a : Ub) : Ub :=
  if a.m = 0 then a
  else let (t, e) := sqrtOdd a.m a.e 60
       Ub.of false t e

/-- A finite encoding as such a value. -/
def Fmt.ub (f : Fmt) (v : Nat) : Ub :=
  match f.decode v with
  | .fin n m e => ⟨n, m, e⟩
  | _ => ⟨false, 0, 0⟩

/-- The binary64 value nearest 4.303. -/
def ub4303 : Ub := Ub.of false (divOdd 4303 1000 80) (-81)

/-- The mean and the sample deviation of three finite siblings (R195). -/
def meanDev (x0 x1 x2 : Ub) : Ub × Ub :=
  let m := ((x0.add x1).add x2).div ⟨false, 3, 0⟩
  let sq (x : Ub) : Ub := (x.sub m).mul (x.sub m)
  (m, (((sq x0).add (sq x1)).add (sq x2) |>.div ⟨false, 2, 0⟩).sqrt)

/-- floor(log2 q), the exponent of a positive value. -/
def Ub.exp (q : Ub) : Int := (Nat.log2 q.m : Int) + q.e

/-- A number clamped to 0 .. `p`. -/
def clampNat (i : Int) (p : Nat) : Nat := if i < 0 then 0 else min i.toNat p

/-- The digit count of three siblings in a format (R195). -/
def Fmt.digits (f : Fmt) (x0 x1 x2 : Nat) : Nat :=
  let bad (v : Nat) : Bool := (f.decode v).isNan
  let inf (v : Nat) : Bool := (f.decode v).isInf
  if bad x0 || bad x1 || bad x2 then 0
  else if x0 == x1 && x1 == x2 then f.p
  else if inf x0 || inf x1 || inf x2 then 0
  else
    let (m, sg) := meanDev (f.ub x0) (f.ub x1) (f.ub x2)
    if sg.m = 0 then f.p
    else if m.m = 0 then 0
    else clampNat (({ m with neg := false }).div (ub4303.mul sg)).exp f.p

/-- VSIBMEAN of three siblings (R269); OF for an overflow of binary16 or BF16. -/
def Fmt.mean (f : Fmt) (x0 x1 x2 : Nat) : Nat × Nat :=
  let vs := [f.decode x0, f.decode x1, f.decode x2]
  let pinf := vs.any fun v => v == .inf false
  let ninf := vs.any fun v => v == .inf true
  if vs.any FV.isNan || (pinf && ninf) then (f.qnan, 0)
  else if pinf then (f.infBits false, 0)
  else if ninf then (f.infBits true, 0)
  else
    let (m, _) := meanDev (f.ub x0) (f.ub x1) (f.ub x2)
    let (v, fl) := f.round .near m.neg m.m m.e
    (v, fl &&& flOF)

/-! ### Mean-digits words (R30) -/

/-- binary32 with 19 significant bits: its encoding is the upper 27 bits of a mean-digits word. -/
def fMd : Fmt := ⟨8, 18, 127⟩

/-- The mean-digits word that three binary32 siblings store (R30). DIG of zeros of both signs is 0 (log entry 128). -/
def mdWord (x0 x1 x2 : Nat) : Nat :=
  let vs := [f32.decode x0, f32.decode x1, f32.decode x2]
  let pinf := vs.any fun v => v == .inf false
  let ninf := vs.any fun v => v == .inf true
  if vs.any FV.isNan || (pinf && ninf) then 0x7FC00000
  else if x0 == x1 && x1 == x2 then (fMd.ofFV .near (f32.decode x0)).1 * 32 + 31
  else if pinf then fMd.infBits false * 32
  else if ninf then fMd.infBits true * 32
  else
    let (m, sg) := meanDev (f32.ub x0) (f32.ub x1) (f32.ub x2)
    let dig := if m.m = 0 then 0 else if sg.m = 0 then 24
      else clampNat (({ m with neg := false }).div (ub4303.mul sg)).exp 24
    (fMd.round .near m.neg m.m m.e).1 * 32 + dig

/-- Sibling `k` of the binary32 value that a mean-digits word loads (R30). -/
def mdLoad (w k : Nat) : Nat :=
  let mb := w / 32 * 32
  let dig := w % 32
  match f32.decode mb with
  | .fin n m e =>
    if m = 0 || dig = 31 || k = 1 then mb
    else
      let d := min dig 24
      let root := (Ub.of false (2 ^ (2 * d + 1)) 0).sqrt
      let q := (Ub.of false m e).div (ub4303.mul root)
      let delta := (f32.round .near false q.m q.e).1
      if k = 0 then (f32.finish .near ((FV.fin n m e).add .near (f32.decode delta).negate)).1
      else (f32.finish .near ((FV.fin n m e).add .near (f32.decode delta))).1
  | _ => mb

/-! ### Number-format codes (R176 to R180) -/

/-- The fields of a number-format register. -/
structure NF where
  w : Nat
  mw : Nat
  bias : Nat
  nan : Nat
  inf : Bool
  sat : Bool
  nz : Bool
  deriving DecidableEq, Repr

/-- The format a number-format register describes (R176). -/
def NF.ofWord (v : Word) : NF :=
  let n := v.toNat
  ⟨8 - 2 * bits n 8 2, bits n 0 3, bits n 16 6, bits n 22 2, n.testBit 24, n.testBit 25, n.testBit 26⟩

/-- The fields of a number-format register: its other bits read as zero and ignore writes (R8, R176). -/
def nfFields (v : Word) : Word := v &&& 0x07FF0307#32

/-- A valid value of a number-format register (R177). -/
def nfValid (v : Word) : Bool :=
  let n := v.toNat
  let f := NF.ofWord v
  bits n 8 2 != 3 && f.nan != 3 && f.mw ≤ f.w - 2 &&
  (f.inf == (f.nan == 1)) && !(f.nan == 1 && f.mw == 0) && !(f.nz && f.nan != 0)

def NF.ew (f : NF) : Nat := f.w - 1 - f.mw
def NF.emax (f : NF) : Nat := 2 ^ f.ew - 1

/-- Elements in a container (R180). -/
def NF.count (f : NF) : Nat := 32 / f.w

/-- The value of a code (R178). -/
def NF.decode (f : NF) (c : Nat) : FV :=
  let s := c.testBit (f.w - 1)
  let e := bits c f.mw f.ew
  let m := bits c 0 f.mw
  if f.nz && c == 2 ^ (f.w - 1) then .nan false
  else if f.nan == 1 && e == f.emax then (if m = 0 then .inf s else .nan false)
  else if f.nan == 2 && e == f.emax && m == 2 ^ f.mw - 1 then .nan false
  else if e = 0 then .fin s m (1 - (f.bias : Int) - f.mw)
  else .fin s (2 ^ f.mw + m) ((e : Int) - f.bias - f.mw)

/-- The code of a NaN, when the format has one (R179). -/
def NF.nanCode (f : NF) : Option Nat :=
  if f.nan == 1 then some (f.emax * 2 ^ f.mw + 2 ^ (f.mw - 1))
  else if f.nan == 2 then some (2 ^ (f.w - 1) - 1)
  else if f.nz then some (2 ^ (f.w - 1))
  else none

/-- The code of the largest finite magnitude (R178). -/
def NF.maxCode (f : NF) : Nat :=
  if f.nan == 1 then f.emax * 2 ^ f.mw - 1
  else if f.nan == 2 then 2 ^ (f.w - 1) - 2
  else 2 ^ (f.w - 1) - 1

/-- A result packed by one rounding in the direction given (R179), with its flags. -/
def NF.pack (f : NF) (d : Dir) (x : FV) : Nat × Nat :=
  let sgn (n : Bool) : Nat := if n then 2 ^ (f.w - 1) else 0
  let ovf (n : Bool) : Nat × Nat :=
    let toZero := match d with
      | .zero => true
      | .down => !n
      | .up => n
      | .near => false
    let r := if f.sat || toZero then f.maxCode + sgn n
      else if f.inf then f.emax * 2 ^ f.mw + sgn n
      else match f.nanCode with
        | some c => c
        | none => f.maxCode + sgn n
    (r, flOF + flNX)
  match x with
  | .nan sig => match f.nanCode with
    | some c => (c, if sig then flNV else 0)
    | none => (0, flNV)
  | .inf n => ((ovf n).1, flOF)
  | .fin n m e =>
    if m = 0 then (if f.nz then 0 else sgn n, 0)
    else
      let top := (Nat.log2 m : Int) + e
      let emin : Int := 1 - (f.bias : Int)
      let q := (max top emin) - f.mw
      let (t, nx) := roundAt d n m e q
      -- With MW = 0 the exponent field 0 holds no value but zero, so the least magnitude is that of code 1.
      let mag := ((q - (emin - f.mw)).toNat) * 2 ^ f.mw + t
      if f.maxCode < mag then ovf n
      else
        let r := if mag = 0 then (if f.nz then 0 else sgn n) else mag + sgn n
        let tiny := decide (top < emin) &&
          !(decide (top = emin - 1) && (roundAt d n m e (top - f.mw)).1 == 2 ^ (f.mw + 1))
        (r, (if nx then flNX else 0) + (if nx && tiny then flUF else 0))

/-- Element `k` of a container (R180). -/
def NF.elem (f : NF) (c k : Nat) : Nat := bits c (f.w * k) f.w

/-- A container of element codes. -/
def NF.join (f : NF) (cs : List Nat) : Nat := (cs.zipIdx.map fun x => (x.1 % 2 ^ f.w) * 2 ^ (f.w * x.2)).foldl (· + ·) 0

/-! ### The Varfy generator (R184 to R186) -/

/-- The Varfy generator (R184). -/
def varfy (k0 c0 : DWord) : DWord :=
  let step (x : DWord × DWord) : DWord × DWord :=
    let c := (x.2 ^^^ x.1) * 0xD1B54A32D192ED03#64
    (x.1 + 0x9E3779B97F4A7C15#64, c ^^^ (c >>> 29))
  ((List.range 6).foldl (fun x _ => step x) (k0, c0)).2

/-- The draw of a thread's rounding (R185). -/
def threadDraw (seed : DWord) (tid : Word) (icount opindex : Nat) : DWord :=
  varfy (seed ^^^ (tid.zeroExtend 64 * 0x9E3779B97F4A7C15#64))
    (BitVec.ofNat 64 (icount % 2 ^ 48) ||| (BitVec.ofNat 64 (opindex % 65536) <<< 48))

/-- The draw of an output element's k-chunk (R186). -/
def chunkDraw (seed : DWord) (elem chunk tag : Nat) : DWord :=
  varfy (seed ^^^ (BitVec.ofNat 64 elem * 0x9E3779B97F4A7C15#64))
    (BitVec.ofNat 64 (chunk % 2 ^ 48) ||| (BitVec.ofNat 64 (tag % 65536) <<< 48))

/-- The direction bit `s` of a draw gives (R184). -/
def drawDir (w : DWord) (s : Nat) : Dir := if w.getLsbD s then .up else .down

end Sys2Proof.Machine
end

