-- ==== Sys2Proof/Decode.lean ====
section
/-! DEFINITION. The decoder (R202 to R218), total on any words, rejecting by name; and the encoder, written from the same formats. -/

namespace Sys2Proof

/-- Why words are no instruction, with the cause of R204 each stands for. -/
inductive Reject where
  /-- LEN = 11b: cause 1. -/
  | length
  /-- An unassigned primary opcode: cause 2. -/
  | opcode
  /-- A reserved field or an unassigned field value: cause 3. -/
  | fields
  /-- A length the opcode's row does not permit, or a literal where none is taken: cause 4. -/
  | form
  /-- A register field outside its class or misaligned: cause 5. -/
  | register
  /-- Fewer words than LEN asks for: the instruction crosses its fetch block, cause 7. -/
  | truncated
  deriving DecidableEq, Repr

/-- The cause of R204 that a rejection stands for. -/
def Reject.cause : Reject → Nat
  | .length => 1
  | .opcode => 2
  | .fields => 3
  | .form => 4
  | .register => 5
  | .truncated => 7

/-- The rejection that a static cause stands for. -/
def Reject.ofCause (n : Nat) : Reject :=
  match n with
  | 4 => .form
  | 5 => .register
  | _ => .fields

/-- The number of words that LEN asks for (R202). -/
def lenWords (w : Word) : Option Nat :=
  match w.toNat % 4 with
  | 0 => some 1
  | 1 => some 2
  | 2 => some 3
  | _ => none

/-- The primary opcode of a first word (R205). -/
def opcodeOf (w : Word) : Nat := (w.extractLsb' 2 8).toNat

/-- The first word of an instruction of the 32-bit format (R205). -/
def short (opc : Nat) (d sa : BitVec 8) (b6 : BitVec 6) : Word :=
  b6 ++ sa ++ d ++ BitVec.ofNat 8 opc ++ (0 : BitVec 2)

/-- The instruction of a word of the 32-bit format (R205, R218). -/
def decodeShort (w : Word) : Except Reject Instr :=
  let b6 := w.extractLsb' 26 6
  let sa := w.extractLsb' 18 8
  let d := w.extractLsb' 10 8
  match opcodeOf w with
  | 0x00 => if d == 0 && sa == 0 && b6 == 0 then .ok .nop else .error .fields
  | 0x01 => .ok (.saddShort d sa b6)
  | 0x02 => .ok (.ssubShort d sa b6)
  | 0x03 => .ok (.sshlShort d sa b6)
  | 0x04 => .ok (.sshrShort d sa b6)
  | 0x05 => if b6 == 0 then .ok (.smovShort d sa) else .error .fields
  | 0x06 => if b6 == 0 then .ok (.vmovShort d sa) else .error .fields
  | 0x07 => if d == 0 && sa == 0 && b6 == 0 then .ok .yield else .error .fields
  | 0x08 => if d == 0 && sa == 0 && b6 == 0 then .ok .exit else .error .fields
  | 0x09 => if d == 0 && sa == 0 && b6 == 0 then .ok .join else .error .fields
  | 0x0A => if d == 0 && sa == 0 && b6 == 0 then .ok .bktOpen else .error .fields
  | 0x0B => if d == 0 && sa == 0 && b6 == 0 then .ok .bktClose else .error .fields
  | 0x0C => if d == 0 && sa == 0 && b6 == 0 then .ok .ret else .error .fields
  | 0x0D => if d == 0 && sa == 0 && b6 == 0 then .ok .tret else .error .fields
  | 0x0E => if d == 0 && sa == 0 then .ok (.bkpt b6) else .error .fields
  | 0x0F => if d == 0 && sa == 0 then .ok (.bar b6) else .error .fields
  | 0x10 => if d == 0 && sa == 0 && b6 == 0 then .ok .ornd else .error .fields
  | 0x11 => if sa == 0 && b6 == 0 then .ok (.dpark d) else .error .fields
  | 0x12 => if d == 0 && b6 == 0 then .ok (.dresume sa) else .error .fields
  | 0x13 => if b6 == 0 then .ok (.dprune d sa) else .error .fields
  | 0x14 => if d == 0 && sa == 0 && b6 == 0 then .ok .gbar else .error .fields
  | 0x15 => if d == 0 && sa == 0 && b6 == 0 then .ok .lfree else .error .fields
  | _ => .error .opcode

/-- The 64 bits of the 64-bit format (R206). -/
def Op.toBits (o : Op) (opc : Nat) (len : BitVec 2) : BitVec 64 :=
  o.fn ++ o.ty ++ BitVec.ofBool o.tec ++ BitVec.ofBool o.teb ++ BitVec.ofBool o.tea ++ BitVec.ofBool o.gn ++ o.g ++
    o.sc ++ o.sb ++ o.sa ++ o.d ++ BitVec.ofNat 8 opc ++ len

/-- The operand fields of the 64-bit format (R206, R207). -/
def Op.ofBits (w : BitVec 64) (lit : Option Word) : Op where
  d := w.extractLsb' 10 8
  sa := w.extractLsb' 18 8
  sb := w.extractLsb' 26 8
  sc := w.extractLsb' 34 8
  g := w.extractLsb' 42 6
  gn := w.getLsbD 48
  tea := w.getLsbD 49
  teb := w.getLsbD 50
  tec := w.getLsbD 51
  ty := w.extractLsb' 52 4
  fn := w.extractLsb' 56 8
  lit := lit

/-- The extension word of the 96-bit memory format (R209). -/
def MemExt.toBits (e : MemExt) : Word :=
  e.rsv ++ BitVec.ofBool e.texb ++ BitVec.ofBool e.texa ++ e.scope ++ e.ord ++ e.aop ++ e.xb ++ e.xa

/-- The fields of the extension word (R209). -/
def MemExt.ofBits (w : Word) : MemExt where
  xa := w.extractLsb' 0 8
  xb := w.extractLsb' 8 8
  aop := w.extractLsb' 16 4
  ord := w.extractLsb' 20 2
  scope := w.extractLsb' 22 3
  texa := w.getLsbD 25
  texb := w.getLsbD 26
  rsv := w.extractLsb' 27 5

/-- The 64 bits of the memory format (R208). -/
def MemOp.toBits (o : MemOp) (opc : Nat) (len : BitVec 2) : BitVec 64 :=
  BitVec.ofBool o.ted ++ BitVec.ofBool o.tebase ++ o.cp ++ o.szf ++ o.off ++ BitVec.ofBool o.gn ++ o.g ++ o.base ++
    o.data ++ BitVec.ofNat 8 opc ++ len

/-- The operand fields of the memory format (R208). -/
def MemOp.ofBits (w : BitVec 64) (ext : Option Word) : MemOp where
  data := w.extractLsb' 10 8
  base := w.extractLsb' 18 7
  g := w.extractLsb' 25 6
  gn := w.getLsbD 31
  off := w.extractLsb' 32 24
  szf := w.extractLsb' 56 4
  cp := w.extractLsb' 60 2
  tebase := w.getLsbD 62
  ted := w.getLsbD 63
  ext := ext.map MemExt.ofBits

/-- The rows of the opcode map whose words have the 32-bit format, the memory format, the 64-bit format (R217, R218). -/
def isShortOpcode (opc : Nat) : Bool := opc ≤ 0x15
def isMemOpcode (opc : Nat) : Bool := 0xC0 ≤ opc && opc ≤ 0xD2

/-- The instruction of a longer format: the first 64 bits and the third word, if any. -/
def decodeLong (w : BitVec 64) (ext : Option Word) : Except Reject Instr :=
  let opc := (w.extractLsb' 2 8).toNat
  if isShortOpcode opc then .error .form
  else if isMemOpcode opc then
    match Instr.ofMem opc (MemOp.ofBits w ext) with
    | some i => .ok i
    | none => .error .opcode
  else
    match Instr.ofOp opc (Op.ofBits w ext) with
    | some i => .ok i
    | none => .error .opcode

/-- An opcode of the map is assigned (R217). -/
def opcodeAssigned (opc : Nat) : Bool :=
  isShortOpcode opc || isMemOpcode opc || (Instr.ofOp opc (Op.ofBits 0 none)).isSome

/-- The instruction whose fields the words hold, whatever their values: only causes 1, 2, the 32-bit fields of cause 3, a form
the row lacks, and missing words reject it. -/
def decodeFields (ws : List Word) : Except Reject Instr :=
  match ws with
  | [] => .error .truncated
  | w :: rest =>
    match lenWords w with
    | none => .error .length
    | some n =>
      if !(opcodeAssigned (opcodeOf w)) then .error .opcode
      else match n, rest with
        | 1, _ => if isShortOpcode (opcodeOf w) then decodeShort w else .error .form
        | 2, w1 :: _ => decodeLong (w1 ++ w) none
        | 3, w1 :: w2 :: _ => decodeLong (w1 ++ w) (some w2)
        | _, _ => .error .truncated

/-- The decoder: the well-formed instruction the words hold. -/
def decode (ws : List Word) : Except Reject Instr :=
  match decodeFields ws with
  | .error r => .error r
  | .ok i => match i.cause none with
    | none => .ok i
    | some c => .error (Reject.ofCause c)

/-- The word of a 32-bit instruction. -/
def encodeShort : Instr → Option Word
  | .nop => some (short 0x00 0 0 0)
  | .saddShort d a imm => some (short 0x01 d a imm)
  | .ssubShort d a imm => some (short 0x02 d a imm)
  | .sshlShort d a imm => some (short 0x03 d a imm)
  | .sshrShort d a imm => some (short 0x04 d a imm)
  | .smovShort d a => some (short 0x05 d a 0)
  | .vmovShort d a => some (short 0x06 d a 0)
  | .yield => some (short 0x07 0 0 0)
  | .exit => some (short 0x08 0 0 0)
  | .join => some (short 0x09 0 0 0)
  | .bktOpen => some (short 0x0A 0 0 0)
  | .bktClose => some (short 0x0B 0 0 0)
  | .ret => some (short 0x0C 0 0 0)
  | .tret => some (short 0x0D 0 0 0)
  | .bkpt n => some (short 0x0E 0 0 n)
  | .bar n => some (short 0x0F 0 0 n)
  | .ornd => some (short 0x10 0 0 0)
  | .dpark d => some (short 0x11 d 0 0)
  | .dresume a => some (short 0x12 0 a 0)
  | .dprune d a => some (short 0x13 d a 0)
  | .gbar => some (short 0x14 0 0 0)
  | .lfree => some (short 0x15 0 0 0)
  | _ => none

/-- The words of an instruction; none for an event, which has no encoding. -/
def encode (i : Instr) : List Word :=
  match i.row, i.op? with
  | some r, some o =>
    match o.lit with
    | none => let w := o.toBits r.opcode 1
              [w.extractLsb' 0 32, w.extractLsb' 32 32]
    | some l => let w := o.toBits r.opcode 2
                [w.extractLsb' 0 32, w.extractLsb' 32 32, l]
  | _, _ =>
    match i.memRow, i.mem? with
    | some r, some o =>
      match o.ext with
      | none => let w := o.toBits r.opcode 1
                [w.extractLsb' 0 32, w.extractLsb' 32 32]
      | some e => let w := o.toBits r.opcode 2
                  [w.extractLsb' 0 32, w.extractLsb' 32 32, e.toBits]
    | _, _ => (encodeShort i).toList

/-- The length of an instruction in bytes (R202). -/
def Instr.bytes (i : Instr) : Nat :=
  match i.op?, i.mem? with
  | some o, _ => if o.lit.isSome then 12 else 8
  | _, some o => if o.ext.isSome then 12 else 8
  | _, _ => 4

/-- A 32-bit word of four bytes, the least significant first (R7). -/
def wordOfBytes (b0 b1 b2 b3 : Byte) : Word := b3 ++ b2 ++ b1 ++ b0

/-- The 32-bit words of a list of bytes, little-endian (R7, R202). -/
def wordsOfBytes : List Byte → List Word
  | b0 :: b1 :: b2 :: b3 :: rest => wordOfBytes b0 b1 b2 b3 :: wordsOfBytes rest
  | _ => []

/-- The bytes of a word, the least significant first (R7). -/
def bytesOfWord (w : Word) : List Byte :=
  [w.extractLsb' 0 8, w.extractLsb' 8 8, w.extractLsb' 16 8, w.extractLsb' 24 8]

/-- The decoder on bytes in memory order. -/
def decodeBytes (bs : List Byte) : Except Reject Instr := decode (wordsOfBytes bs)

/-- The bytes of the table's word `w`: bits above `nbits` are zero, up to the longest instruction of 12 bytes. -/
def tableBytes (nbits w : Nat) : List Byte :=
  let v := w % 2 ^ nbits
  (List.range 12).map fun k => BitVec.ofNat 8 (v >>> (8 * k))

/-- What the decoder reads from an instruction whose bits are `w`, numbered as the table numbers them. -/
def decodeTableWord (nbits w : Nat) : Option Instr :=
  match decodeBytes (tableBytes nbits w) with
  | .ok i => some i
  | .error _ => none

end Sys2Proof
end

