-- ==== Sys2Proof/Machine/State.lean ====
section
/-! DEFINITION. The state of one package of the domain as plain data: every register, memory, queue and pending operation the spec gives it, and the state after reset. -/

namespace Sys2Proof.Machine

/-! ### Crews and cox cores -/

/-- The trap record of a crew or cox core (R387), registers 0x20 to 0x29. -/
structure TrapRec where
  kind : BitVec 8
  sub : BitVec 8
  other : BitVec 4
  skipBp : Bool
  inh : Bool
  slot : Bool
  resume : Word
  trapPc : Word
  code : Word
  addr : DWord
  lane : BitVec 7
  mask : Mask
  deriving DecidableEq, Repr

/-- The record before any trap (R387: every field resets to 0). -/
def TrapRec.zero : TrapRec := ⟨0, 0, 0, false, false, false, 0, 0, 0, 0, 0, 0⟩

/-- The registers that a crew and a cox core both hold once (R214, R248, R255, R335): scalars, uniform predicates and future
handles with their full/empty bits (a set bit is empty), the four engine counters, ROUND and the trap record. -/
structure Scal where
  s : Tab Word
  sEmpty : BitVec 128
  q : BitVec 16
  qEmpty : BitVec 16
  h : Tab Word
  hEmpty : BitVec 16
  cpy : BitVec 16
  net : BitVec 16
  mat : BitVec 16
  voc : BitVec 16
  round : Word
  trap : TrapRec
  /-- Classes of engine operations of which one that reached gang scope has completed (R131), and the handles whose last
  operation did. -/
  wide : BitVec 4
  hWide : BitVec 16
  deriving DecidableEq, Repr

/-- Every register full and zero (R169). -/
def Scal.zero : Scal := ⟨[], 0, 0, 0, [], 0, 0, 0, 0, 0, 0, TrapRec.zero, 0, 0⟩

/-- What a BLOCKED slot waits for (R156, R171, R122, R244 to R250, R292, R300, R324, R326, R336). -/
inductive Wait where
  /-- Registers that must become full: class, number, lanes. -/
  | regs (runs : List (RegClass × Nat × Mask))
  /-- An engine counter of class `cls` at most `n` (WAIT.ENG), or below 65,535 (an engine instruction). -/
  | engine (cls n : Nat)
  /-- The generation of barrier `n`, or of the gang barrier, passing `gen`. -/
  | barrier (n gen : Nat)
  | gangBarrier (gen : Nat)
  /-- No unfinished ordered update of the round (R138). -/
  | ornd
  /-- Earlier loads returned and stores acknowledged (R122). -/
  | release
  /-- The access of an earlier acquire (R122, R125). -/
  | acquire
  /-- A byte barrier of workgroup `wg` at offset `off` (R326). -/
  | byteBarrier (wg off : Nat)
  /-- The write pointer of the request record at `off` reaching `n` (R324). -/
  | copyWp (wg off n : Nat)
  /-- Room in a copy channel (R99), in a core's matrix queue (R336), among the workgroup's DRAW requests (R247). -/
  | channel (cluster chan : Nat)
  | matrixQueue (cluster core : Nat)
  | draws
  /-- The rendezvous with crew `partner` (R292). -/
  | regroup (partner : Nat)
  /-- Page walks of the instruction's pages (R52); `acc` is the ACCESS code of R60. -/
  | walk (acc asid : Nat) (pages : List Nat)
  /-- Handle `h` of another crew of the workgroup becoming full (R250). -/
  | target (crew h : Nat)
  /-- The landing of every limb instruction (R300, R307), or of every float result (R191). -/
  | limbs
  | floats
  /-- Earlier atomics performed and scratchpad passes served, before an instruction or another party reads what they write (R88,
  R122, R125). -/
  | atomics
  /-- The unit's own scratchpad passes served, before what it releases at a narrow scope can be seen (R88, R122). -/
  | passes
  /-- The release of a TRIG.POST that has issued with the record at `off` (R329). -/
  | posting (wg off : Nat)
  deriving DecidableEq, Repr

/-- The state of a program-counter slot (R156); FROZEN and HALTED lie over it. A parked slot says whether it took an address
fault (R66), its ACCESS code (R60; 9 for an engine instruction's checks), and on which 64 KiB pages it faulted. -/
inductive SlotState where
  | empty
  | ready
  | blocked (w : Wait)
  | joinWait
  | parked (addrFault : Bool) (acc : Nat) (pages : List Nat)
  deriving DecidableEq, Repr

/-- A fetched block of 32 bytes that a slot holds (R69, R70). -/
structure FetchBlock where
  base : DWord
  bytes : List Byte
  /-- The slot was issuing from it when an invalidation of its address began: it is held until the slot leaves it (R70). -/
  kept : Bool
  deriving DecidableEq, Repr

/-- The outcome of a page walk or a TLB lookup for one 64 KiB page (R44, R51, R55). -/
inductive WalkResult where
  /-- The physical base of the 64 KiB page, the memory type, sibling form, write and execute permission, page size code. -/
  | ok (frame : Nat) (mt : Nat) (sf w x : Bool) (level : Nat)
  | fault (cause : Nat)
  deriving DecidableEq, Repr

/-- What an instruction that stays in its slot keeps of its issue: ARITHCTL (R190), the instruction counts of the crew's threads
(R155, R187), and whether it is an acquire, which later accesses of the unit wait for (R122). -/
structure Issued where
  ctl : Word
  counts : List (BitVec 48)
  acquire : Bool
  deriving DecidableEq, Repr

/-- What a tensor-iterator sweep keeps between its steps (R67, R277, R279): what its issue found, the step, the record read at issue, the acting
lanes at issue, the lanes in which an instability condition has held, and the bytes by which dimension 0 steps in A, B and D. -/
structure Sweep where
  issued : Issued
  step : Nat
  record : List Byte
  act : Mask
  held : Mask
  strides : Nat × Nat × Nat
  deriving DecidableEq, Repr

/-- A program-counter slot (R156, R157): PC, lane mask, state, LINK (R235), the fetch blocks held (R70), and what a parked or
waiting instruction keeps: unfinished lanes (R56) with their ACCESS code (R60), whether it has been counted (R155), what its issue
found (R187, R190), the sweep (R277) and the one that a handler interrupted (R279), walk results. `skipWatch` lists the watchpoints
that a resumed write ignores (R425). -/
structure Slot where
  pc : DWord
  mask : Mask
  st : SlotState
  link : Word
  frozenBkt : Bool
  frozenTrap : Bool
  blocks : List FetchBlock
  unfinished : Option Mask
  acc : Nat
  counted : Bool
  kept : Option Issued
  sweep : Option Sweep
  trapSweep : Option Sweep
  walked : List (Nat × WalkResult)
  yielded : Bool
  skipBp : Bool
  skipWatch : List Nat
  replayed : Bool
  deriving DecidableEq, Repr

/-- An EMPTY slot. -/
def Slot.none : Slot :=
  ⟨0, 0, .empty, 0, false, false, [], Option.none, 0, false, Option.none, Option.none, Option.none, [], false, false, [], false⟩

/-- A thread of a crew (R151, R155, R25): THREADID, instruction count, private home crew and lane. -/
structure Thread where
  tid : Word
  icount : BitVec 48
  homeCrew : Nat
  homeLane : Nat
  deriving DecidableEq, Repr

/-- A place on a scheduler partition (R149, R153): logical cluster of the package, core, partition, place. -/
structure Place where
  cluster : Nat
  core : Nat
  part : Nat
  place : Nat
  deriving DecidableEq, Repr

/-- A trap still to be taken for a non-finite logit (R355): the operation's serial, row and token, the issuer's handle of the
operation, and whether an instruction has ordered its completion. -/
structure LogitTrap where
  id : Nat
  row : Nat
  token : Nat
  handle : Option Nat
  ordered : Bool
  deriving DecidableEq, Repr

/-- A crew (R84, R149): registers, slots, bracket, threads, limb binding, arithmetic registers, and its place when resident. -/
structure Crew where
  ident : Word
  gang : Nat
  wg : Nat
  crew : Nat
  place : Option Place
  age : Nat
  wait : Nat
  scal : Scal
  /-- Word `96 v + l` is register `v` of lane `l` (the layout of R84). -/
  v : Tab Word
  /-- The empty lanes of vector register `v`. -/
  vEmpty : Tab Mask
  p : Tab Mask
  pEmpty : Tab Mask
  nf : Tab Word
  nfEmpty : BitVec 4
  slot0 : Slot
  slot1 : Slot
  /-- The slot that issued last is slot 1 (R157). -/
  last1 : Bool
  bracket : Option Mask
  /-- Lanes that have executed EXIT, and the lanes the crew has (R160, R164, R293). -/
  exited : Mask
  lanes : Nat
  threads : List Thread
  arithCtl : Word
  arithStat : Word
  /-- Segment size, 0 when unbound; LIMBSTAT.CHI and CARRY (R307). -/
  limbN : Nat
  limbChi : Bool
  limbCarry : BitVec 24
  /-- The handler was entered for a breakpoint, so its instructions do not count (R155). -/
  bpHandler : Bool
  logitTraps : List LogitTrap
  /-- The last PCs as code offsets, newest first, bit 0 the slot (R429). -/
  pcs : List Word
  /-- The fault record of the crew's last parked instruction, empty for none (R429). -/
  faultRec : List Byte
  /-- Lines of the crew's area of the register file whose check values are bad (R84, R97, R413), by line number: lines 0 to 127 hold
  its state block, those from 128 on its vector registers; the words not rewritten since. -/
  regBad : Tab (BitVec 16)
  deriving DecidableEq, Repr

/-- The cox core that serves a gang (R335); its slot's mask is unused. -/
structure Cox where
  ident : Word
  gang : Nat
  scal : Scal
  slot : Slot
  icount : BitVec 48
  ended : Bool
  bpHandler : Bool
  logitTraps : List LogitTrap
  deriving DecidableEq, Repr

/-- A barrier (R166, R245): its generation and the arrivals, each a party (crew index, or workgroup and crew, or the cox
core) with the generation it arrived for. -/
structure Barrier where
  gen : Nat
  arrivals : List (Nat × Nat)
  deriving DecidableEq, Repr

/-- A workgroup (R81, R84, R149): where its pool image lies, its scratchpad and accumulator bytes, barriers, private frame. -/
structure Workgroup where
  ident : Word
  gang : Nat
  wg : Nat
  core : Nat
  granule : Nat
  frame : Nat
  sp : Tab Byte
  acc : Tab Byte
  /-- Lines of 64 bytes of the scratchpad and of the accumulator storage whose check values are bad (R97, R413), by line number: the
  bytes not rewritten since. -/
  spBad : Tab (BitVec 64)
  accBad : Tab (BitVec 64)
  /-- A line of the workgroup control block, which holds the barriers, has a bad check value (R84, R97). -/
  ctlBad : Bool
  bars : List Barrier
  gbar : Barrier
  draws : Nat
  deriving DecidableEq, Repr

/-- A gang that has been placed (R376 to R378, R391): its cluster, the order of its placement, whether it is being saved, is
saved, and whether its cox core's macros belong to it. -/
structure Gang where
  ident : Word
  gang : Nat
  cluster : Nat
  order : Nat
  saving : Bool
  saved : Bool
  hasCox : Bool
  deriving DecidableEq, Repr

/-! ### Launches and the dealer -/

/-- A region record (R369). -/
structure Region where
  base : Nat
  lesz : Nat
  access : Nat
  ext0 : Nat
  str0 : Nat
  ext1 : Nat
  str1 : Nat
  deriving DecidableEq, Repr

/-- The fields of a launch record (R368). -/
structure LaunchRec where
  ident : Word
  asid : Nat
  prio : Nat
  hold : Bool
  nodep : Bool
  affStrict : Bool
  shape : Word
  gangCount : Nat
  codeBase : DWord
  coxOff : Word
  trapOff : Word
  coxTrapOff : Word
  poolPart : Word
  arithCtl : Word
  privSize : Nat
  privBase : DWord
  privFrames : Nat
  ovfCnt : Nat
  ovfBase : Nat
  roundWord : DWord
  seed : DWord
  compl : DWord
  affMode : Nat
  affStack : Nat
  affTab : DWord
  pkgBase : Nat
  pkgN : Nat
  regions : List Region
  deriving DecidableEq, Repr

/-- How a launch stands (R372): running; its completion record on its way across the fabric; or its completion record parked: on the
pages given, or on an address fault when there is none. -/
inductive LaunchPhase where
  | running
  | sentRecord
  | parkedRecord (pages : List Nat)
  deriving DecidableEq, Repr

/-- An accepted launch of the launch window (R367 to R382) with what the dealer keeps of it. Gangs of its share are counted by
ordinal: ordinal `i` of rank `k` is gang `k + PKGN i` (R373). -/
structure Launch where
  lr : LaunchRec
  queueAsid : Nat
  accept : Word
  phase : LaunchPhase
  /-- The rejection code; a rejected launch waits only for its completion record. -/
  reject : Nat
  cancelled : Bool
  /-- The lowest ordinal never placed or withdrawn, those above it that have been, and pre-empted gangs to place first (R378). -/
  nextGang : Nat
  ahead : List Nat
  returned : List Nat
  /-- Affinity bytes that have been read (R370): ordinal and byte. -/
  aff : List (Nat × Nat)
  /-- Private frames in use, ascending (R24). -/
  framesUsed : List Nat
  /-- The most rounds that a party of the share here has passed by ORND, and rounds closed (R138), rounds applied per slice (R140), round
  word written (R141) and its parked write. -/
  top : Nat
  closed : Nat
  applied : List (Nat × Nat)
  roundWritten : Nat
  roundParked : Option (List Nat)
  /-- Overflow entries in use, and discarded (R139). -/
  ovfUsed : List Nat
  ovfDisc : Nat
  /-- The shares of the other packages of the set as they have reported (R373): rank, rounds passed, retired; and what this
  package last reported. -/
  peers : List (Nat × Nat × Bool)
  told : Option (Nat × Bool)
  deriving DecidableEq, Repr

/-- A submission queue's registers (R366). -/
structure SubQueue where
  base : Nat
  en : Bool
  ovr : Bool
  asid : BitVec 6
  log2size : BitVec 5
  tail : Word
  head : Word
  deriving DecidableEq, Repr

/-- A reservation (R378): launch, gang, cluster, and the die counter when it began. -/
structure Reservation where
  ident : Word
  gang : Nat
  cluster : Nat
  since : Nat
  deriving DecidableEq, Repr

/-- A DRAW request on its way to the dealer, with the address space of its issuer (R247, R381). -/
structure DrawReq where
  unit : UnitRef
  wg : Nat
  mbox : Nat
  launch : Nat
  asid : Nat
  deriving DecidableEq, Repr

/-- The dealer: submission queues, front end, launch window, placement (R366 to R382), pre-emption registers (R401). -/
structure Dealer where
  queues : List SubQueue
  rotation : Nat
  nextAccept : Word
  launches : List Launch
  placedCount : Nat
  ageCount : Nat
  reservations : List Reservation
  draws : List DrawReq
  /-- What other packages of a set have reported of launches not yet accepted here (R373): IDENT, rank, rounds passed, retired. -/
  early : List (Word × Nat × Nat × Bool)
  preemptGang : Word
  /-- The gangs that a command of the driver has named. -/
  preempting : List (Word × Nat)
  preemptNotFound : Bool
  deriving DecidableEq, Repr

/-! ### Memory, caches, translation -/

/-- Where one byte of an access lies: global memory by physical address, the scratchpad or the accumulator storage of a
workgroup, or a trigger counter's COUNT. -/
inductive Loc where
  | mem (pa : Nat)
  | sp (ident : Word) (gang wg off : Nat)
  | acc (ident : Word) (gang wg off : Nat)
  | ctr (idx : Nat)
  deriving DecidableEq, Repr

/-- What a private line is backing of (R25, R77): its launch, address space and virtual line number. -/
structure Backing where
  ident : Word
  asid : Nat
  vline : Nat
  deriving DecidableEq, Repr

/-- A line of an L1 data cache or of a cox core's data cache (R89 to R93): cache number (4 × cluster + core, or
192 + cluster for a cox core), line number, its way in its set, its 64 bytes, for a private line what it backs, dirty
bytes, and whether its check value is bad (R97, R413). -/
structure L1Line where
  cache : Nat
  line : Nat
  way : Nat
  data : List Byte
  owner : Option Backing
  dirty : BitVec 64
  bad : Bool
  deriving DecidableEq, Repr

/-- A line of an instruction cache (R94): cache number, ASID, virtual line number, its bytes, and whether its check value is bad. -/
structure ILine where
  cache : Nat
  asid : Nat
  line : Nat
  data : List Byte
  bad : Bool
  deriving DecidableEq, Repr

/-- How an access places its line (R90): the rank of a line it allocates, and whether a line present takes that rank too. -/
structure Rank where
  rank : Nat
  always : Bool
  deriving DecidableEq, Repr

/-- The default policy. -/
def Rank.plain : Rank := ⟨1, false⟩

/-- A line of an L2 slice (R90, R95): the slice's logical cluster, the line's number, its rank for eviction (0 first, 1 ordinary, 2
last), whether it is dirty, and whether its own check value has gone bad in the slice (R97). `State.mem` and `State.checks` hold each
line as its point of coherence does; `under` is what memory beneath the slice still holds, bytes and check, where that differs. -/
structure L2Line where
  slice : Nat
  line : Nat
  rank : Nat
  dirty : Bool
  upset : Bool
  under : Option (List Byte × BitVec 64)
  deriving DecidableEq, Repr

/-- A TLB entry (R51): which TLB (0 to 191 a core's, 192 to 239 a cluster's, 240 the network engine's), ASID, page size level,
virtual page number at that size, and the translation. -/
structure TlbEntry where
  tlb : Nat
  asid : Nat
  level : Nat
  vpage : Nat
  frame : Nat
  mt : Nat
  sf : Bool
  w : Bool
  x : Bool
  deriving DecidableEq, Repr

/-- A non-leaf entry held by a die's walk cache (R51): die, ASID, level of the table that holds it, the virtual address bits
above that level's index inclusive, the entry, the physical address it was read from, and whether its check value is bad (R55). -/
structure WalkEntry where
  die : Nat
  asid : Nat
  level : Nat
  key : Nat
  entry : DWord
  pa : Nat
  bad : Bool
  deriving DecidableEq, Repr

/-- A page walk queued or running (R52): the cluster, core and kind of the unit that asked, ASID, 64 KiB page. -/
structure WalkReq where
  id : Nat
  cluster : Nat
  core : Nat
  asid : Nat
  page : Nat
  cox : Bool
  deriving DecidableEq, Repr

/-- The caches and translation caches. Entry `256 c + s` of `plru` holds the tree bits of set `s` of cache `c` (R89, R93), node `n` in bit
`n`; entry `c` of `turns` is the requester that the scratchpad of core `c` served last (R88). -/
structure Caches where
  l1 : List L1Line
  plru : Tab (BitVec 512)
  turns : Tab Nat
  l2 : List L2Line
  il : List ILine
  tlb : List TlbEntry
  walkCache : List WalkEntry
  walks : List WalkReq
  deriving DecidableEq, Repr

/-! ### Operations in flight -/

/-- A register lane to write: class, register, lane (0 for a crew-wide register) and value. -/
structure RegWrite where
  cls : RegClass
  reg : Nat
  lane : Nat
  val : Word
  deriving DecidableEq, Repr

/-- How the bytes of an access stand for the values of its lanes (R25, R29 to R31, R310): one value for every lane, one value
per lane in turn (the triple form, and private words), a mean-digits word, a collapsed value, a mean-digits word per lane in turn. -/
inductive Form where
  | one
  | each
  | meanDigits
  | collapsed
  | eachDigits
  deriving DecidableEq, Repr

/-- An outstanding load (R170, R312): one access of one thread, or of the crew for scalar data, or one pass of a scratchpad load
(R87). Its register, the register lanes it fills, SZF code and form, the bytes it reads, and of those the ones that have been read
(`got`); the lines that it may still enter into the L1; whether it is an acquire, and one at gang scope or wider; the line read
whose check failed, with WHERE (R414); the scratchpad port that serves it (`6 c + q` for requester `q` of core `c`: partitions 0
to 3, the copy engine 4, the cox core 5; R88); and whether the three lanes of a thread share one value, which is read once (R32, R87). -/
structure LoadOp where
  id : Nat
  unit : UnitRef
  cache : Nat
  vdata : Bool
  reg : Nat
  lanes : List Nat
  szf : Nat
  form : Form
  locs : List Loc
  got : List (Option Byte)
  alloc : List Nat
  acquire : Bool
  wide : Bool
  fail : Option (Option Nat × Nat)
  port : Option Nat
  tied : Bool
  deriving DecidableEq, Repr

/-- A long-latency producer (R170, R259, R285): lanes still to be written; `float` when its flags are those of a float
instruction (R191); `net` when the network counter falls with its write (R329). -/
structure Producer where
  id : Nat
  unit : UnitRef
  float : Bool
  net : Bool
  writes : List RegWrite
  deriving DecidableEq, Repr

/-- A limb instruction that has issued and not landed (R301): whether its latency is the longer one, its writes, and `out` per
segment for LIMBSTAT (R307). -/
structure LimbOp where
  id : Nat
  unit : UnitRef
  slow : Bool
  writes : List RegWrite
  outs : List (Nat × Bool)
  deriving DecidableEq, Repr

/-- A store, one of its scratchpad passes (R87), or a raise by a store, an atomic or TRIG.ADD, not yet accepted (R92, R334): the
locations it touches; the bytes it writes in global memory, or in the scratchpad through a port, or the counter of this package that
it raises, by how much for each of its lanes in turn, and whether it releases; `remote` when it crosses the fabric as a packet; how it
places its line at its slice (R90). -/
structure StoreOp where
  id : Nat
  unit : UnitRef
  cache : Nat
  locs : List Loc
  bytes : List (Nat × Byte)
  raise : Option (Nat × List Word × Bool)
  remote : Bool
  port : Option Nat
  spBytes : List (Loc × Byte)
  rank : Rank
  deriving DecidableEq, Repr

/-- One lane of an atomic not yet performed: lanes that receive the old value, location of its first byte, operand, compare
value, rounding direction; and the old value, once another package has performed it there. -/
structure AtomLane where
  dests : List Nat
  loc : Loc
  operand : DWord
  compare : DWord
  dir : Nat
  old : Option Nat
  deriving DecidableEq, Repr

/-- An atomic or compare-and-swap not yet performed (R316 to R319): AOP (7 for CAS), SZF, destination register of a returning
form, its lanes at one location in ascending order, how it places its line (R90), and the scratchpad port that serves it. One of the
scratchpad is a pass (R87): its lanes name different locations, `batch` is the serial of the instruction's first pass, and `held` lists
the locations at which an earlier pass of the same instruction has already written, where no other write falls between (R316). -/
structure AtomOp where
  id : Nat
  unit : UnitRef
  cache : Nat
  aop : Nat
  szf : Nat
  ret : Bool
  vdata : Bool
  reg : Nat
  acquire : Bool
  wide : Bool
  port : Option Nat
  lanes : List AtomLane
  batch : Nat
  held : List Loc
  rank : Rank
  deriving DecidableEq, Repr

/-- Where an ordered update stands (R139): sent, in one of a slice's holding places, or in an overflow entry. -/
inductive UpdatePlace where
  | sent
  | held
  | spilled (entry : Nat)
  deriving DecidableEq, Repr

/-- An ordered update (R137): the launch, target physical address, operation, key and round, the slice and place that hold it. -/
structure OUpdate where
  id : Nat
  unit : UnitRef
  pa : Nat
  aop : Nat
  szf : Nat
  operand : DWord
  dir : Nat
  kclass : Nat
  issuer : Nat
  icount : Nat
  elempos : Nat
  round : Nat
  slice : Nat
  place : UpdatePlace
  /-- It crosses the fabric as a packet, and its slice is on another package. -/
  remote : Bool
  /-- The copy request that sent it, if any (R411). -/
  copy : Option Nat
  deriving DecidableEq, Repr

/-- Operations in flight. -/
structure Flight where
  loads : List LoadOp
  producers : List Producer
  limbs : List LimbOp
  stores : List StoreOp
  atomics : List AtomOp
  updates : List OUpdate
  deriving DecidableEq, Repr

/-! ### Translation block -/

/-- A ring of records in host memory with its registers and held records (R61, R62, R78, R399, R420). -/
structure Ring where
  base : DWord
  en : Bool
  log2size : BitVec 5
  put : Word
  get : Word
  full : Bool
  drop : Nat
  seq : Word
  held : List (List Byte)
  deriving DecidableEq, Repr

/-- A ring after reset (R61). -/
def Ring.zero : Ring := ⟨0, false, 6, 0, 0, false, 0, 0, []⟩

/-- An invalidation running (R54): mode 0 range, 1 address space, 2 every address space. -/
structure Invalidation where
  mode : Nat
  asid : Nat
  page : Nat
  count : Nat
  deriving DecidableEq, Repr

/-- A migration slot (R72, R73): registers, what they held when the migration began, and its entry. -/
structure MigSlot where
  src : DWord
  dst : DWord
  runSrc : DWord
  runDst : DWord
  state : BitVec 4
  line : Word
  size : Nat
  force : Bool
  entryAddr : Nat
  entry : DWord
  deriving DecidableEq, Repr

/-- An access counter (R77): ASID, 2 MiB region, class (0 remote, 1 tier-2), count, dies that counted; the list of counters begins
with the one counted last. -/
structure AccessCounter where
  asid : Nat
  region : Nat
  cls : Nat
  count : Nat
  dies : BitVec 4
  deriving DecidableEq, Repr

/-- A pin held by the thrash detector (R75, R76), and the counter of I/O die 0 when it began. -/
structure Pin where
  asid : Nat
  page : Nat
  size : Nat
  since : Nat
  deriving DecidableEq, Repr

/-- The translation block (R49): contexts, rings, replay, invalidation, migration, access counters. -/
structure Xlat where
  /-- Word `4 asid + k` is word `k` of ASCTX[asid] (R50). -/
  asctx : Tab DWord
  /-- The ROOT that walks of an address space use: a change takes effect with an invalidation of the whole address space (R50). -/
  roots : List (Nat × Nat)
  fault : Ring
  access : Ring
  replayAddr : DWord
  nrskip : Word
  badCmd : Bool
  invAddr : DWord
  invBusy : Option Invalidation
  invDropped : Bool
  migs : List MigSlot
  /-- The last completed migrations per address space, newest first: (asid, page) (R75). -/
  window : List (Nat × Nat)
  pins : List Pin
  counters : List AccessCounter
  deriving DecidableEq, Repr

/-! ### Engines -/

/-- A scratchpad pass of a copy's step (R86, R88): its serial, the core's port, and the bytes that it reads or writes there. -/
structure CopyPass where
  id : Nat
  port : Nat
  locs : List Loc
  bytes : List Byte
  deriving DecidableEq, Repr

/-- An accepted copy request: the fields of its records (R100, R101), its permutation table, and its progress. -/
structure CopyJob where
  src : DWord
  dst : DWord
  bbar : Word
  tctr : Option (Nat × Nat × Word)
  ndim : Nat
  sfmt : Nat
  dfmt : Nat
  perm : Bool
  baxis : Bool
  redop : Nat
  pstride : Nat
  origin : Nat
  exts : List Nat
  sstr : List Int
  dstr : List Int
  rmask : DWord
  table : List Nat
  /-- Destination bytes in all, and delivered so far in iteration order: the write pointer (R103). -/
  total : Nat
  wp : Nat
  /-- Bytes of the step that waits for acknowledgments or acceptance. -/
  stepBytes : Nat
  /-- Of the step: the passes that have still to read its scratchpad source, what they have read, and the passes that have still to
  write its scratchpad destination. -/
  reads : List CopyPass
  got : List (Loc × Byte)
  writes : List CopyPass
  deriving DecidableEq, Repr

/-- The state of a copy request: at its issue in a slot of its issuer, waiting for room in its channel (R323); queued, running, paused on
a fault at pages, paused on a watchpoint, its last step done. -/
inductive CopyPhase where
  | waiting (slot : Nat)
  | queued
  | running
  | faulted (pages : List Nat)
  | watched (n : Nat)
  | finishing (code : Nat)
  deriving DecidableEq, Repr

/-- A copy request in a channel (R99, R323): issuer, the workgroup and offset of its record (none for a request of a
vocabulary operation), handles to fill, number-format registers at issue, the issuer's key for ordered updates (R411), its partition
and place (R425), and the streams of its packets by destination package (R406). -/
structure CopyReq where
  id : Nat
  cluster : Nat
  chan : Nat
  unit : UnitRef
  record : Option (Nat × Nat)
  scope : Nat
  handles : List (UnitRef × Nat)
  nf : Tab Word
  kclass : Nat
  issuer : Nat
  icount : Nat
  round : Nat
  pid : Nat
  place : Nat
  /-- The vocabulary operation that issued it: core, and for a dW request the element position of its first element. -/
  vocab : Option (Nat × Bool × Nat)
  /-- The elements of a dW request, which come from the operation itself. -/
  data : List Word
  cancel : Bool
  /-- The watchpoints that the step it resumes ignores (R425). -/
  skipWatch : List Nat
  streams : List (Nat × StreamKey)
  phase : CopyPhase
  job : Option CopyJob
  /-- A line in the engine's buffer for it fails its check (R97, R413). -/
  upset : Bool
  deriving DecidableEq, Repr

/-- A vocabulary operation (R348 to R356, R362 to R364): the descriptor as read at issue and its scratchpad offset, the tile in
progress, its panels that have arrived and whether one is on its way, whether the operation has started, whether the tile's
gradients have been formed, the weights of the dH window (entry `256 k + x`), the non-finite logit that stopped it, and the
issuer's key. -/
structure VocabJob where
  regen : Bool
  desc : List Byte
  off : Nat
  tile : Nat
  block : Nat
  waiting : Bool
  started : Bool
  graded : Bool
  window : Tab (BitVec 16)
  bad : Option (Nat × Nat)
  icount : Nat
  round : Nat
  deriving DecidableEq, Repr

/-- A matrix-queue operation (R342 to R346, R352, R358, R363). Addresses were translated at issue: 64 KiB page to physical base. -/
inductive MatKind where
  | mldb (slot : Nat) (src : DWord) (stride : Nat) (reload : Bool) (xl : List (Nat × Nat))
  | mlda (buf : Nat) (off stride : Nat)
  | mma (acc elemBase estride chunkBase : Nat) (word : Word)
  | mzero (acc : Nat)
  | mdrain (acc : Nat) (dst : DWord) (stride : Nat) (fmt : Nat) (xl : List (Nat × Nat))
  | meld (left right : Word) (rows : Nat) (move : Bool)
  | vocab (job : VocabJob)
  deriving DecidableEq, Repr

/-- An entry of a core's matrix queue: issuer, workgroup it acts on, handles, its error code once it is known, and whether its
writes have been sent across the fabric. -/
structure MatOp where
  id : Nat
  unit : UnitRef
  wg : Nat
  handles : List (UnitRef × Nat)
  code : Nat
  sent : Bool
  kind : MatKind
  deriving DecidableEq, Repr

/-- The reload descriptor of a B slot (R342): source address and stride, and for hidden rows their count and dimension blocks
(R349). -/
structure Reload where
  slot : Nat
  src : DWord
  stride : Nat
  hidden : Option (Nat × Nat)
  deriving DecidableEq, Repr

/-- The compute-in-memory macros, row buffers and matrix engine of a core (R98, R336, R343, R347): element (k, n) of slot `s`
is entry `65536 s + 256 k + n`, element (i, k) of buffer `b` is entry `16384 b + 256 i + k`; runs of 32 entries are the lines that
check values cover (R97, R98, R413). `backlog` holds the operations of a resumed gang that find no room in the queue of eight beside
those of another gang (R336, R394). -/
structure Matrix where
  cluster : Nat
  core : Nat
  macros : Tab (BitVec 16)
  reload : List Reload
  rows : Tab (BitVec 16)
  slices0 : Nat
  slices1 : Nat
  queue : List MatOp
  backlog : List MatOp
  lastErr : BitVec 8
  macBad : List Nat
  rowBad : List Nat
  deriving DecidableEq, Repr

/-- The matrix engine of a workgroup's core in the context image of a saved gang (R391, R393). -/
structure SavedMatrix where
  ident : Word
  gang : Nat
  wg : Nat
  m : Matrix
  deriving DecidableEq, Repr

/-- The state of a posted-operation slot (R333). -/
inductive PostState where
  | armed
  | transferring
  | paused (pages : List Nat)
  | failed
  deriving DecidableEq, Repr

/-- A posted operation in its slot (R328 to R332): the launch and address space it acts for, the record's fields, the current
threshold, waiting firings, transfer progress. -/
structure Post where
  slot : Nat
  ident : Word
  asid : Nat
  kind : Nat
  rearm : Bool
  c1 : Option (Nat × Nat × Word)
  c2 : Option (Nat × Nat × Word)
  redop : Nat
  ctr : Nat
  base : Word
  h : Word
  period : Word
  len : Word
  src : DWord
  dst : DWord
  state : PostState
  firings : BitVec 16
  waiting : Nat
  spent : Bool
  closing : Bool
  /-- Of the running transfer: bytes delivered (1 for the action of KIND 3 and 4), and its completion raises have been made. -/
  done : Nat
  told : Bool
  /-- A line in the buffer for it fails its check (R413). -/
  upset : Bool
  deriving DecidableEq, Repr

/-- A raise on its way to a trigger counter of this package (R134); the address space whose translation named the counter, if one did. -/
structure Raise where
  id : Nat
  idx : Nat
  v : Word
  release : Bool
  asid : Option Nat
  deriving DecidableEq, Repr

/-- The copy engines, matrix engines and trigger unit, the matrix engines that saved gangs keep, and raises by engines on their
way. -/
structure Engines where
  copies : List CopyReq
  mats : List Matrix
  saved : List SavedMatrix
  posts : List Post
  raises : List Raise
  deriving DecidableEq, Repr

/-! ### Fabric -/

/-- What a packet acts for at the sender: a store, a lane of an atomic whose value comes back, a copy's step, an ordered update of one, a
matrix operation, a posted transfer, a migration, the write-back of a private line, a dealer. -/
inductive Origin where
  | store (id : Nat)
  | atomic (id lane : Nat)
  | copy (id : Nat)
  | copyUpdate (id update : Nat)
  | matrix (id : Nat)
  | post (slot : Nat)
  | migration (slot : Nat)
  | priv
  | plain
  deriving DecidableEq, Repr

/-- A packet kept until it is acknowledged (R406): destination package, resends made, and whether a later acknowledgment has shown that
it has been applied. -/
structure OutPacket where
  pkt : Packet
  dst : Nat
  origin : Origin
  resends : Nat
  shown : Bool
  deriving DecidableEq, Repr

/-- An open stream of this package (R406): last sequence number per destination package and slice. -/
structure Stream where
  key : StreamKey
  seqs : List (Nat × Nat × Word)
  closing : Bool
  deriving DecidableEq, Repr

/-- A high-water entry of a receiving slice or the trigger unit (R407). -/
structure HwmEntry where
  key : StreamKey
  slice : Nat
  hwm : Word
  deriving DecidableEq, Repr

/-- A Damhedan link (R404). -/
structure Link where
  retry : Word
  gen : Nat
  en : Bool
  deriving DecidableEq, Repr

/-- The fabric block (R402 to R409). -/
structure Fabric where
  route : Tab DWord
  clmap : Tab DWord
  links : List Link
  eto : Word
  retryMax : BitVec 8
  stale : DWord
  /-- Links whose drain token has not returned; empty when DRAINSTAT.BUSY reads 0. -/
  draining : List Nat
  idtab : Tab DWord
  serials : List (Nat × Nat × Word)
  streams : List Stream
  out : List OutPacket
  hwm : List HwmEntry
  deriving DecidableEq, Repr

/-! ### Platform and debug -/

/-- A message the device sends: an MSI-X vector (R398), a packet to another package by a link (R404), an acknowledgment to a package, an
end or abort mark, a drain token of its own or a peer's that goes back (R409), the answer to a read of the host or of another package,
a read of another package's memory, the packet of an atomic there whose value comes back (R37, R117, R403, R406), an answer to a host snoop and a
back-invalidate (R395, R396), an SPDM response (R418). -/
inductive Output where
  | msix (vector : Nat)
  | packet (dst : Nat) (link : Option Nat) (p : Packet)
  | ack (key : StreamKey) (slice : Nat) (seq : Word)
  | endMark (key : StreamKey)
  | abortMark (key : StreamKey)
  | drainToken (link : Nat)
  | drainReturn (link : Nat)
  | hostRead (data : List Byte)
  | hostAbort
  | remoteRead (dst : Nat) (data : List Byte)
  | remoteRequest (dst addr n : Nat)
  | remoteAtomic (dst : Nat) (link : Option Nat) (p : Packet)
  | snoopAnswer (line : Nat) (data : List Byte)
  | backInvalidate (line : Nat)
  | spdm (code : Nat) (data : List Nat)
  deriving DecidableEq, Repr

/-- The platform block, the host link, clocks and firmware (R395 to R400, R415 to R418). -/
structure Platform where
  step : BitVec 16
  fwsvn : BitVec 16
  apwin : BitVec 14
  unitcnt : DWord
  corecnt0 : DWord
  corecnt1 : DWord
  pkgnum : BitVec 8
  mc : Ring
  sig : Ring
  /-- CXL revision (0 untrained, 2, 3 or 4), rate and width of the host link. -/
  cxlRev : Nat
  cxlRate : Nat
  cxlWidth : Nat
  /-- Lines of tier-2 memory that the host has read over CXL.mem and may hold (R395). -/
  hostLines : List Nat
  /-- Cycle counters of compute dies 0 to 3 and I/O dies 4 and 5 (R255). -/
  dieCtr : Tab DWord
  droop : BitVec 4
  fuse : Nat
  recovery : Bool
  booted : Bool
  measurements : Tab Nat
  certs : Tab Nat
  spdmPhase : Nat
  deriving DecidableEq, Repr

/-- The debug registers and counters of a partition (R421, R428); the leaf that its running cycle is charged to when the slot chosen
issues nothing (0 for none), the cycles since its last sample, and the samples taken and not yet recorded (R427). -/
structure PartDebug where
  place : BitVec 3
  claim : Bool
  sample : Bool
  sper : BitVec 5
  halted : Bool
  why : BitVec 4
  num : BitVec 4
  tag : BitVec 7
  cplace : BitVec 3
  abp : List DWord
  counters : List DWord
  spare : Nat
  since : Nat
  samples : List (List Byte)
  deriving DecidableEq, Repr

/-- A partition's debug block after reset (R421, R428). -/
def PartDebug.zero : PartDebug :=
  ⟨0, false, false, 16, false, 0, 0, 0, 0, List.replicate 4 0, List.replicate 10 0, 0, 0, []⟩

/-- A watchpoint's words (R425); the copy requests it has paused say so themselves. -/
structure Watch where
  w0 : DWord
  w1 : DWord
  w2 : DWord
  deriving DecidableEq, Repr

/-- The debug block (R419 to R429): partition blocks by PID, watchpoints, event ring, dump area, mailbox. -/
structure Debug where
  parts : List (Nat × PartDebug)
  watches : List Watch
  ring : Ring
  dumpBase : DWord
  /-- A dump has been written and its event record not yet (R429). -/
  dumpPending : Bool
  mbCmd : List DWord
  mbBusy : Bool
  mbResult : BitVec 8
  deriving DecidableEq, Repr

/-! ### The whole state -/

/-- A check value that goes bad (R413): of a line of memory that its ECC cannot correct, of a line of a cache, of a pool granule or a
macro, of an entry of a walk cache, of a line in an engine's or a posted operation's buffer; or a line with a bad check value that was
about to leave the package, for a launch or for none, and has not been forwarded. -/
inductive Upset where
  | memory (line : Nat)
  | l1 (cache line : Nat)
  | instr (cache asid line : Nat)
  | l2 (line : Nat)
  | walk (die asid level key : Nat)
  | pool (ident : Word) (gang wg : Nat) (acc : Bool) (line : Nat)
  | registers (ident : Word) (gang wg crew line : Nat)
  | control (ident : Word) (gang wg : Nat)
  | cimMacro (cluster core line : Nat)
  | rows (cluster core line : Nat)
  | copy (id : Nat)
  | post (slot : Nat)
  | unsent (ident : Word) (source pa wher : Nat)
  | dropped (line : Nat) (bytes : List Byte) (check : BitVec 64) (wher : Nat)
  deriving DecidableEq, Repr

/-- The state of the package. `inbox` holds what the outside sends and `upsets` the failures of check values that are to show, oldest
first. -/
structure State where
  inbox : List Instr
  upsets : List Upset
  issuer : Option Issuer
  free : Nat
  nextId : Nat
  outputs : List Output
  crews : List Crew
  coxes : List Cox
  wgs : List Workgroup
  gangs : List Gang
  mem : Tab Byte
  /-- Lines whose stored check value is bad (R413), by line number: the bytes not rewritten since. -/
  checks : Tab (BitVec 64)
  ctrs : Tab Word
  caches : Caches
  flight : Flight
  xlat : Xlat
  dealer : Dealer
  eng : Engines
  fab : Fabric
  plat : Platform
  dbg : Debug
  deriving DecidableEq, Repr

/-- Why the machine stops with a fault: never. Each of the spec's faults is taken as the trap, parked slot, machine check or error
code that the spec describes, and an access to an address where nothing stands is one of them. -/
inductive Fault where
  deriving DecidableEq, Repr

/-- Why a step has no meaning. -/
inductive Refusal where
  /-- Raised by `exec` for an instruction not modelled yet; safe. -/
  | notModelled (mnemonic : String)
  /-- Raised by an instruction's meaning when no unit has been chosen to issue, or the chosen unit does not exist: no
  instruction issues in such a state; safe. -/
  | noIssuer
  /-- Raised by an event that names no pending operation, slot, register or unit, so that it cannot occur; safe. -/
  | noSuchEvent
  deriving DecidableEq, Repr

/-- The outcome of a step of this machine. -/
abbrev Out := Host.Outcome State Fault Refusal

/-! ### Reset -/

/-- A queue after reset (R366). -/
def SubQueue.zero : SubQueue := ⟨0, false, false, 0, 4, 0, 0⟩

/-- A migration slot after reset (R72). -/
def MigSlot.zero : MigSlot := ⟨0, 0, 0, 0, 0, 0, 0, false, 0, 0⟩

/-- A link after reset, enabled and down (R404, log entry 7). -/
def Link.zero : Link := ⟨0, 0, true⟩

/-- UNITCNT of a full part without tier-2 memory (R415, log entry 7). -/
def fullUnitCnt : DWord := 0xFFFFFFF00004CCCC#64

/-- The package right after reset: every field as the spec states it, or as the log names it (entries 1 to 7). -/
def State.reset : State where
  inbox := []
  upsets := []
  issuer := none
  free := 0
  nextId := 0
  outputs := []
  crews := []
  coxes := []
  wgs := []
  gangs := []
  mem := []
  checks := []
  ctrs := []
  caches := ⟨[], [], [], [], [], [], [], []⟩
  flight := ⟨[], [], [], [], [], []⟩
  xlat := ⟨[], [], Ring.zero, Ring.zero, 0, 0, false, 0, none, false, List.replicate 16 MigSlot.zero, [], [], []⟩
  dealer := ⟨List.replicate 128 SubQueue.zero, 0, 0, [], 0, 0, [], [], [], 0, [], false⟩
  eng := ⟨[], [], [], [], []⟩
  fab := ⟨[(0, 0x10000#64)], [(0, 0x0000FFFFFFFFFFFF#64)], List.replicate 16 Link.zero, 50, 8, 0, [], [], [], [], [], []⟩
  plat := ⟨0, 0, 0, fullUnitCnt, 0xFFFFFFFFFFFFFFFF#64, 0x00000000FFFFFFFF#64, 0, Ring.zero, Ring.zero, 0, 0, 0, [], [], 0, 0,
    false, false, [], [], 0⟩
  dbg := ⟨[], List.replicate 16 ⟨0, 0, 0⟩, Ring.zero, 0, false, List.replicate 8 0, false, 0⟩

end Sys2Proof.Machine
end

