-- ==== Sys2Proof/Machine/Regs.lean ====
section
/-! DEFINITION. The named operations over tables, bytes, memory, lane masks, units and registers. -/

namespace Sys2Proof.Machine

/-! ### Tables and bytes -/

/-- The entry of a table at key `k`; an unlisted key holds the default `d`. -/
def tget {β : Type} (d : β) : Tab β → Nat → β
  | [], _ => d
  | (k, v) :: r, n => if k = n then v else tget d r n

/-- The table with `v` at key `n`, in canonical form: writing the default removes the entry. -/
def tset {β : Type} [DecidableEq β] (d : β) : Tab β → Nat → β → Tab β
  | [], n, v => if v = d then [] else [(n, v)]
  | (k, w) :: r, n, v =>
    if n < k then (if v = d then (k, w) :: r else (n, v) :: (k, w) :: r)
    else if n = k then (if v = d then r else (n, v) :: r)
    else (k, w) :: tset d r n v

/-- The canonical form of a table: keys strictly rising, no entry equal to the default. -/
def twf {β : Type} [DecidableEq β] (d : β) : Tab β → Bool
  | [] => true
  | (_, v) :: [] => decide (v ≠ d)
  | (k, v) :: (k', v') :: r => decide (v ≠ d) && decide (k < k') && twf d ((k', v') :: r)

/-- The natural number of bytes in little-endian order (R7). -/
def leNat : List Byte → Nat
  | [] => 0
  | b :: r => b.toNat + 256 * leNat r

/-- The `n` low bytes of a number in little-endian order (R7). -/
def leBytes : Nat → Nat → List Byte
  | 0, _ => []
  | n + 1, v => BitVec.ofNat 8 v :: leBytes n (v / 256)

/-- Bytes written from address `a` on. -/
def putBytes (m : Tab Byte) (a : Nat) : List Byte → Tab Byte
  | [] => m
  | b :: r => putBytes (tset 0 m a b) (a + 1) r

/-- `n` bytes from address `a` on. -/
def getBytes (m : Tab Byte) (a : Nat) : Nat → List Byte
  | 0 => []
  | n + 1 => tget 0 m a :: getBytes m (a + 1) n

/-- Global memory in canonical form. -/
def Memory.wf (m : Tab Byte) : Bool := twf 0 m

/-- `n` bytes of global memory from physical address `pa` on. -/
def State.rdMem (s : State) (pa n : Nat) : List Byte := getBytes s.mem pa n

/-- The bytes of bad lines that writes from `pa` on leave (R55, R413): a line is good again once all of it is rewritten. -/
def clearChecks (t : Tab (BitVec 64)) (pa : Nat) : Nat → Tab (BitVec 64)
  | 0 => t
  | n + 1 => clearChecks (tset 0 t (pa / 64) (tget 0 t (pa / 64) &&& ~~~(BitVec.twoPow 64 (pa % 64)))) (pa + 1) n

/-- The bad lines that a write of `n` bytes from an address on leaves. -/
def rewritten (t : Tab (BitVec 64)) (a n : Nat) : Tab (BitVec 64) := if t.isEmpty then [] else clearChecks t a n

/-- Bytes stored to global memory from physical address `pa` on. -/
def State.wrMem (s : State) (pa : Nat) (bs : List Byte) : State :=
  { s with mem := putBytes s.mem pa bs, checks := rewritten s.checks pa bs.length }

/-- Bytes stored to a workgroup's scratchpad, or to its accumulator storage, from an offset on (R97). -/
def Workgroup.putSp (w : Workgroup) (off : Nat) (bs : List Byte) : Workgroup :=
  { w with sp := putBytes w.sp off bs, spBad := rewritten w.spBad off bs.length }
def Workgroup.putAcc (w : Workgroup) (off : Nat) (bs : List Byte) : Workgroup :=
  { w with acc := putBytes w.acc off bs, accBad := rewritten w.accBad off bs.length }

/-- The line that holds a physical address fails its check value (R413). -/
def State.lineBad (s : State) (pa : Nat) : Bool := tget 0 s.checks (pa / 64) != 0

/-- A signed number from its `n`-bit two's complement. -/
def signed (n v : Nat) : Int := if v % 2 ^ n < 2 ^ (n - 1) then (v % 2 ^ n : Nat) else (v % 2 ^ n : Nat) - (2 ^ n : Nat)

/-- The `n`-bit two's complement of an integer. -/
def wrap (n : Nat) (i : Int) : Nat := (i % (2 ^ n : Nat)).toNat

/-- Bit `k` of a number. -/
def nbit (v k : Nat) : Bool := v.testBit k

/-- A Boolean as 0 or 1. -/
def b2n (b : Bool) : Nat := if b then 1 else 0

/-- A Boolean as a word. -/
def b2w (b : Bool) : Word := if b then 1 else 0

/-! ### Lanes and masks -/

/-- The lanes of a mask in ascending order. -/
def lanesOf (m : Mask) : List Nat := (List.range 96).filter fun l => m.getLsbD l

/-- The mask of a list of lanes. -/
def maskOf (ls : List Nat) : Mask := ls.foldl (fun m l => m ||| BitVec.twoPow 96 l) 0

/-- The lowest lane of a mask. -/
def lowLane (m : Mask) : Nat := ((lanesOf m).head?).getD 127

/-- Every lane of a crew of `n` lanes. -/
def fullMask (n : Nat) : Mask := BitVec.ofNat 96 (2 ^ n - 1)

/-- The three lanes of each thread of a set of threads (R150). -/
def spread3 (t : Nat) : Mask := maskOf (((List.range 32).filter fun k => nbit t k).flatMap fun k => [3 * k, 3 * k + 1, 3 * k + 2])

/-- The threads whose first lane is in the mask (R150). -/
def threads3 (m : Mask) : Nat := ((List.range 32).filter fun k => m.getLsbD (3 * k)).foldl (fun a k => a + 2 ^ k) 0

/-- The thread a lane belongs to (R150). -/
def threadOf (single : Bool) (l : Nat) : Nat := if single then l else l / 3

/-- The lanes of a thread (R150). -/
def laneSet (single : Bool) (t : Nat) : List Nat := if single then [t] else [3 * t, 3 * t + 1, 3 * t + 2]

/-- The threads with a lane in the mask, in ascending order. -/
def threadsIn (single : Bool) (m : Mask) : List Nat :=
  if single then lanesOf m else (List.range 32).filter fun k => m.getLsbD (3 * k)

/-- A mask in the form of the words MASK0 to MASK2 of a trap record (R387): threads in triple mode, lanes otherwise. -/
def recMask (single : Bool) (m : Mask) : Mask := if single then m else BitVec.ofNat 96 (threads3 m)

/-! ### Units -/

/-- The unit a crew is. -/
def Crew.ref (c : Crew) : UnitRef := .crew c.ident c.gang c.wg c.crew

/-- The unit a cox core is. -/
def Cox.ref (c : Cox) : UnitRef := .cox c.ident c.gang

/-- A unit with its state. -/
inductive UnitSt where
  | crew (c : Crew)
  | cox (c : Cox)
  deriving DecidableEq, Repr

/-- The unit named by `r`, when it has been placed and has not retired. -/
def State.unit? (s : State) (r : UnitRef) : Option UnitSt :=
  match r with
  | .crew .. => (s.crews.find? fun c => c.ref == r).map .crew
  | .cox .. => (s.coxes.find? fun c => c.ref == r).map .cox

/-- The state with a crew replaced. -/
def State.setCrew (s : State) (c : Crew) : State :=
  { s with crews := s.crews.map fun x => if x.ref == c.ref then c else x }

/-- The state with a cox core replaced. -/
def State.setCox (s : State) (c : Cox) : State :=
  { s with coxes := s.coxes.map fun x => if x.ref == c.ref then c else x }

/-- The state with a unit replaced. -/
def State.setUnit (s : State) : UnitSt → State
  | .crew c => s.setCrew c
  | .cox c => s.setCox c

/-- The unit's name. -/
def UnitSt.ref : UnitSt → UnitRef
  | .crew c => c.ref
  | .cox c => c.ref

/-- The registers a crew and a cox core both hold. -/
def UnitSt.scal : UnitSt → Scal
  | .crew c => c.scal
  | .cox c => c.scal

def UnitSt.setScal (u : UnitSt) (x : Scal) : UnitSt :=
  match u with
  | .crew c => .crew { c with scal := x }
  | .cox c => .cox { c with scal := x }

def UnitSt.isCox : UnitSt → Bool
  | .crew _ => false
  | .cox _ => true

/-- Slot `k` of a crew. -/
def Crew.slot (c : Crew) (k : Nat) : Slot := if k = 0 then c.slot0 else c.slot1

def Crew.setSlot (c : Crew) (k : Nat) (x : Slot) : Crew := if k = 0 then { c with slot0 := x } else { c with slot1 := x }

/-- Slot `k` of a unit; a cox core has one. -/
def UnitSt.slot (u : UnitSt) (k : Nat) : Slot :=
  match u with
  | .crew c => c.slot k
  | .cox c => if k = 0 then c.slot else Slot.none

def UnitSt.setSlot (u : UnitSt) (k : Nat) (x : Slot) : UnitSt :=
  match u with
  | .crew c => .crew (c.setSlot k x)
  | .cox c => if k = 0 then .cox { c with slot := x } else .cox c

/-- The numbers of a unit's slots. -/
def UnitSt.slots : UnitSt → List Nat
  | .crew _ => [0, 1]
  | .cox _ => [0]

/-- The state with the unit `r` changed by `f`; unchanged when it has retired. -/
def State.modUnit (s : State) (r : UnitRef) (f : UnitSt → UnitSt) : State :=
  match s.unit? r with
  | some u => s.setUnit (f u)
  | none => s

/-- The state with the crew `r` changed by `f`. -/
def State.modCrew (s : State) (r : UnitRef) (f : Crew → Crew) : State :=
  match s.unit? r with
  | some (.crew c) => s.setCrew (f c)
  | _ => s

/-- The launch of an identifier and generation; a rejected one does not count. -/
def State.launch? (s : State) (ident : Word) : Option Launch :=
  s.dealer.launches.find? fun l => l.lr.ident == ident && l.reject == 0

/-- A launch record with every field zero. -/
def LaunchRec.zero : LaunchRec :=
  ⟨0, 0, 0, false, false, false, 0, 0, 0, 0, 0xFFFFFFFF#32, 0xFFFFFFFF#32, 0, 0, 0, 0, 0, 0, 0, 0, 0, 0, 0, 0, 0, 0, 0, []⟩

/-- The record of a launch in the window. -/
def State.lrec (s : State) (ident : Word) : LaunchRec := ((s.launch? ident).map Launch.lr).getD LaunchRec.zero

/-- The state with a launch of the window changed. -/
def State.modLaunch (s : State) (ident : Word) (f : Launch → Launch) : State :=
  { s with dealer := { s.dealer with launches := s.dealer.launches.map fun l =>
    if l.lr.ident == ident && l.reject == 0 then f l else l } }

/-- Single-lane mode (R154). -/
def LaunchRec.single (r : LaunchRec) : Bool := r.shape.getLsbD 16
/-- Deterministic mode. -/
def LaunchRec.determ (r : LaunchRec) : Bool := r.shape.getLsbD 17
/-- Persistent launch. -/
def LaunchRec.persist (r : LaunchRec) : Bool := r.shape.getLsbD 18
/-- The plane-drain bit of the shape. -/
def LaunchRec.planedr (r : LaunchRec) : Bool := r.shape.getLsbD 19
/-- Workgroups per gang. -/
def LaunchRec.wgs (r : LaunchRec) : Nat := bits r.shape.toNat 8 2 + 1
/-- Crews per workgroup. -/
def LaunchRec.nCrews (r : LaunchRec) : Nat := bits r.shape.toNat 0 6
/-- Vector registers per thread (R84). -/
def LaunchRec.vregs (r : LaunchRec) : Nat := 8 * (bits r.poolPart.toNat 0 5 + 1)
/-- Register file, scratchpad and accumulator granules (R83). -/
def LaunchRec.rfGran (r : LaunchRec) : Nat := bits r.poolPart.toNat 8 8
def LaunchRec.spGran (r : LaunchRec) : Nat := bits r.poolPart.toNat 16 8
def LaunchRec.accGran (r : LaunchRec) : Nat := bits r.poolPart.toNat 24 8
/-- Granules of a pool image (R81). -/
def LaunchRec.image (r : LaunchRec) : Nat := r.rfGran + r.spGran + r.accGran
/-- Scratchpad bytes of a workgroup (R21). -/
def LaunchRec.spSize (r : LaunchRec) : Nat := r.spGran * 16384
/-- Accumulator storage bytes of a workgroup (R85). -/
def LaunchRec.accSize (r : LaunchRec) : Nat := r.accGran * 16384
/-- A launch with a cox section. -/
def LaunchRec.hasCox (r : LaunchRec) : Bool := r.coxOff != 0
/-- Threads of a crew at its start (R151). -/
def LaunchRec.perCrew (r : LaunchRec) : Nat := if r.single then 96 else 32

/-- The workgroup of a gang. -/
def State.wg? (s : State) (ident : Word) (gang wg : Nat) : Option Workgroup :=
  s.wgs.find? fun w => w.ident == ident && w.gang == gang && w.wg == wg

/-- The state with a workgroup changed. -/
def State.modWg (s : State) (ident : Word) (gang wg : Nat) (f : Workgroup → Workgroup) : State :=
  { s with wgs := s.wgs.map fun w => if w.ident == ident && w.gang == gang && w.wg == wg then f w else w }

/-- A placed gang. -/
def State.gang? (s : State) (ident : Word) (gang : Nat) : Option Gang :=
  s.gangs.find? fun g => g.ident == ident && g.gang == gang

/-- The workgroup of a crew; workgroup 0 for a cox core. -/
def wgOf : UnitRef → Nat
  | .crew _ _ w _ => w
  | .cox .. => 0

/-- The cluster of a unit's gang (0 when it has retired). -/
def State.clusterOf (s : State) (r : UnitRef) : Nat := ((s.gang? r.ident r.gang).map Gang.cluster).getD 0

/-- The core of a workgroup. -/
def State.coreOf (s : State) (ident : Word) (gang wg : Nat) : Nat := ((s.wg? ident gang wg).map Workgroup.core).getD 0

/-- The number of a unit's L1 data cache: a core's, or a cox core's. -/
def State.cacheOf (s : State) (r : UnitRef) : Nat :=
  match r with
  | .crew i g w _ => 4 * s.clusterOf r + s.coreOf i g w
  | .cox _ _ => 192 + s.clusterOf r

/-- The die of a cluster. -/
def dieOfCluster (cl : Nat) : Nat := cl / 12

/-- What of a unit decides whether an encoding is legal (R204). -/
def State.encCtx (s : State) (u : UnitSt) : EncCtx :=
  let r := s.lrec u.ref.ident
  { cox := u.isCox, single := r.single, vregs := r.vregs, wgs := r.wgs
    nfWidth := fun n => match u with
      | .crew c => 8 - 2 * bits (tget 0 c.nf n).toNat 8 2
      | .cox _ => 8 }

/-! ### Registers -/

/-- A scalar register. -/
def Scal.sget (x : Scal) (n : Nat) : Word := tget 0 x.s n

/-- A scalar register written and made full (R226). -/
def Scal.sset (x : Scal) (n : Nat) (v : Word) : Scal :=
  { x with s := tset 0 x.s n v, sEmpty := x.sEmpty &&& ~~~(BitVec.twoPow 128 n) }

/-- A scalar pair (R7). -/
def Scal.sget2 (x : Scal) (n : Nat) : DWord := x.sget (n + 1) ++ x.sget n

/-- A scalar pair written. -/
def Scal.sset2 (x : Scal) (n : Nat) (v : DWord) : Scal := (x.sset n (v.extractLsb' 0 32)).sset (n + 1) (v.extractLsb' 32 32)

/-- A uniform predicate. -/
def Scal.qget (x : Scal) (n : Nat) : Bool := x.q.getLsbD n

/-- A bit of a bit vector set to `b`. -/
def setBit {w : Nat} (v : BitVec w) (n : Nat) (b : Bool) : BitVec w :=
  if b then v ||| BitVec.twoPow w n else v &&& ~~~(BitVec.twoPow w n)

/-- A uniform predicate written and made full (R226). -/
def Scal.qset (x : Scal) (n : Nat) (b : Bool) : Scal := { x with q := setBit x.q n b, qEmpty := setBit x.qEmpty n false }

/-- A future handle. -/
def Scal.hget (x : Scal) (n : Nat) : Word := tget 0 x.h n

/-- A future handle filled (R249). -/
def Scal.hfill (x : Scal) (n : Nat) (v : Word) : Scal := { x with h := tset 0 x.h n v, hEmpty := setBit x.hEmpty n false }

/-- A vector register in one lane. -/
def Crew.vget (c : Crew) (n l : Nat) : Word := tget 0 c.v (96 * n + l)

/-- A vector pair in one lane (R7). -/
def Crew.vget2 (c : Crew) (n l : Nat) : DWord := c.vget (n + 1) l ++ c.vget n l

/-- The line of a crew's area of the register file that holds a word of a vector register: 128 lines of its state block come before the
vector registers, and a line holds sixteen words (R84). -/
def regLine (n l : Nat) : Nat := 128 + (96 * n + l) / 16

/-- The line that holds a word of a vector register fails its check, and one of the state block does (R97). -/
def Crew.lineBad (c : Crew) (n l : Nat) : Bool := tget 0 c.regBad (regLine n l) != 0
def Crew.blockBad (c : Crew) : Bool := c.regBad.any fun x => decide (x.1 < 128)

/-- The crew's bad lines once a word of a vector register has been rewritten (R97). -/
def Crew.regWritten (c : Crew) (n l : Nat) : Tab (BitVec 16) :=
  if c.regBad.isEmpty then []
  else tset 0 c.regBad (regLine n l) (tget 0 c.regBad (regLine n l) &&& ~~~(BitVec.twoPow 16 ((96 * n + l) % 16)))

/-- A vector register of one lane written; its full/empty bit is left as it is. -/
def Crew.vput (c : Crew) (n l : Nat) (v : Word) : Crew := { c with v := tset 0 c.v (96 * n + l) v, regBad := c.regWritten n l }

/-- A predicate register as a mask. -/
def Crew.pget (c : Crew) (n : Nat) : Mask := tget 0 c.p n

/-- A predicate in the lanes of `m` set to those of `b`. -/
def Crew.pput (c : Crew) (n : Nat) (m b : Mask) : Crew := { c with p := tset 0 c.p n ((c.pget n &&& ~~~m) ||| (b &&& m)) }

/-- The empty lanes of a register: those of a vector or predicate register, every lane when a crew-wide one is empty. -/
def UnitSt.emptyLanes (u : UnitSt) (cls : RegClass) (n : Nat) : Mask :=
  let one (b : Bool) : Mask := if b then BitVec.allOnes 96 else 0
  match cls, u with
  | .v, .crew c => tget 0 c.vEmpty n
  | .p, .crew c => tget 0 c.pEmpty n
  | .nf, .crew c => one (c.nfEmpty.getLsbD n)
  | .s, _ => one (u.scal.sEmpty.getLsbD n)
  | .q, _ => one (u.scal.qEmpty.getLsbD n)
  | .h, _ => one (u.scal.hEmpty.getLsbD n)
  | _, .cox _ => 0

/-- Every lane of `m` of the register is full (R171). -/
def UnitSt.isFull (u : UnitSt) (cls : RegClass) (n : Nat) (m : Mask) : Bool := u.emptyLanes cls n &&& m == 0

/-- The lanes of a register made empty (R170). -/
def UnitSt.markEmpty (u : UnitSt) (cls : RegClass) (n : Nat) (m : Mask) : UnitSt :=
  match cls, u with
  | .v, .crew c => .crew { c with vEmpty := tset 0 c.vEmpty n (tget 0 c.vEmpty n ||| m) }
  | .p, .crew c => .crew { c with pEmpty := tset 0 c.pEmpty n (tget 0 c.pEmpty n ||| m) }
  | .nf, .crew c => .crew { c with nfEmpty := setBit c.nfEmpty n true }
  | .s, u => u.setScal { u.scal with sEmpty := setBit u.scal.sEmpty n true }
  | .q, u => u.setScal { u.scal with qEmpty := setBit u.scal.qEmpty n true }
  | .h, u => u.setScal { u.scal with hEmpty := setBit u.scal.hEmpty n true }
  | _, .cox c => .cox c

/-- One register lane written and marked full (R170). -/
def UnitSt.fill (u : UnitSt) (w : RegWrite) : UnitSt :=
  let m := BitVec.twoPow 96 w.lane
  match w.cls, u with
  | .v, .crew c => .crew { c.vput w.reg w.lane w.val with vEmpty := tset 0 c.vEmpty w.reg (tget 0 c.vEmpty w.reg &&& ~~~m) }
  | .p, .crew c => .crew { c.pput w.reg m (if w.val.getLsbD 0 then m else 0) with
      pEmpty := tset 0 c.pEmpty w.reg (tget 0 c.pEmpty w.reg &&& ~~~m) }
  | .nf, .crew c => .crew { c with nf := tset 0 c.nf w.reg w.val, nfEmpty := setBit c.nfEmpty w.reg false }
  | .s, u => u.setScal (u.scal.sset w.reg w.val)
  | .q, u => u.setScal (u.scal.qset w.reg (w.val.getLsbD 0))
  | .h, u => u.setScal (u.scal.hfill w.reg w.val)
  | _, .cox c => .cox c

/-- Register lanes written and marked full, in order. -/
def UnitSt.fills (u : UnitSt) (ws : List RegWrite) : UnitSt := ws.foldl UnitSt.fill u

/-- Register lanes marked empty for a producer (R170). -/
def UnitSt.empties (u : UnitSt) (ws : List RegWrite) : UnitSt :=
  ws.foldl (fun u w => u.markEmpty w.cls w.reg (BitVec.twoPow 96 w.lane)) u

end Sys2Proof.Machine
end

