-- ==== Sys2Proof/Machine/Map.lean ====
section
/-! DEFINITION. The physical address map: packages, enabled units, what a LOCAL address names, and the home slice of a line. -/

namespace Sys2Proof.Machine

open Sys2Proof

/-! ### Enabled units and the local map (R37 to R39, R96, R415) -/

/-- This package's number. -/
def State.pkg (s : State) : Nat := s.plat.pkgnum.toNat

/-- PKG and LOCAL of a physical address (R37). -/
def paPkg (pa : Nat) : Nat := bits pa 44 8
def paLocal (pa : Nat) : Nat := pa % 2 ^ 44

/-- The enabled logical clusters of a package in ascending order: this package's from UNITCNT, another's from CLMAP. -/
def State.clustersOf (s : State) (pkg : Nat) : List Nat :=
  if pkg = s.pkg then (List.range 48).filter fun c => decide (c % 12 < bits s.plat.unitcnt.toNat (4 * (c / 12)) 4)
  else (List.range 48).filter fun c => (tget 0 s.fab.clmap pkg).getLsbD c

/-- The enabled cores of a cluster of this package. -/
def State.coreCount (s : State) (cl : Nat) : Nat :=
  1 + (if cl < 32 then bits s.plat.corecnt0.toNat (2 * cl) 2 else bits s.plat.corecnt1.toNat (2 * (cl - 32)) 2)

/-- What a LOCAL address names (R38). -/
inductive Target where
  | tier1 (stack : Nat)
  | tier2
  | trigger
  | host
  | unbacked
  deriving DecidableEq, Repr

/-- The target of a LOCAL address (R38). -/
def targetOf (l : Nat) : Target :=
  if l < 0x00C000000000 then .tier1 (l / 2 ^ 36)
  else if l < 0x010000000000 then .unbacked
  else if l < 0x030000000000 then .tier2
  else if l < 0x030000100000 then .trigger
  else if l < 0x080000000000 then .unbacked
  else .host

/-- The package belongs to the domain (R404). -/
def State.inDomain (s : State) (p : Nat) : Bool := p == s.pkg || (tget 0 s.fab.route p).getLsbD 16

/-- Storage stands behind an address, as this package can tell (R38, R39; log entry 20 for another package's memory). -/
def State.backed (s : State) (pa : Nat) : Bool :=
  let l := paLocal pa
  if paPkg pa = s.pkg then
    match targetOf l with
    | .tier1 n => nbit s.plat.unitcnt.toNat (36 + n)
    | .tier2 => decide (l - 0x010000000000 < bits s.plat.unitcnt.toNat 20 12 * 2 ^ 30)
    | .trigger | .host => true
    | .unbacked => false
  else s.inDomain (paPkg pa) && match targetOf l with
    | .tier1 _ | .tier2 => Config.peerBacked pa
    | _ => false

/-- Bits `[1:0]`, `[9:8]`, `[17:16]` and `[25:24]` of a line index joined (R96). -/
def sliceHash (idx : Nat) : Nat := bits idx 0 2 ^^^ bits idx 8 2 ^^^ bits idx 16 2 ^^^ bits idx 24 2

/-- The home slice of a line on the package that owns it: a logical cluster (R96), or 48 for the trigger unit. -/
def State.homeSlice (s : State) (pa : Nat) : Nat :=
  let cs := s.clustersOf (paPkg pa)
  let idx := paLocal pa / 64
  match targetOf (paLocal pa) with
  | .tier1 n =>
    let die := cs.filter fun c => c / 12 == n / 3
    let grp := die.filter fun c => c % 12 / 4 == n % 3
    let g := if grp.isEmpty then die else grp
    (g[sliceHash idx % g.length]?).getD 0
  | .trigger => 48
  | _ => (cs[(idx ^^^ idx / 2 ^ 16) % cs.length]?).getD 0

end Sys2Proof.Machine
end

