-- ==== Sys2Proof/Machine/Slices.lean ====
section
/-! DEFINITION. The free-value counter, and the L2 slices: the lines each holds, their ranks for eviction, what memory beneath them still holds, and writes at the point of coherence (R90, R95 to R97, R413). -/

namespace Sys2Proof.Machine

open Sys2Proof

/-- The next free value's index, with the counter advanced (log entry 2). -/
def State.fresh (s : State) : Nat × State := (s.free, { s with free := s.free + 1 })

/-- The next operation's serial, with the counter advanced (log entry 2). -/
def State.newId (s : State) : Nat × State := (s.nextId, { s with nextId := s.nextId + 1 })

/-! ### Lines of the slices (R90, R95) -/

/-- A slice of this package is the home of an address: its tier-1, tier-2 and host memory (R96, R97). -/
def State.sliced (s : State) (pa : Nat) : Bool :=
  paPkg pa == s.pkg && match targetOf (paLocal pa) with
    | .tier1 _ | .tier2 | .host => true
    | .trigger | .unbacked => false

/-- The line that its home slice holds. -/
def State.l2Find (s : State) (line : Nat) : Option L2Line := s.caches.l2.find? fun x => x.line == line

/-- The lines of the slices replaced. -/
def State.setL2 (s : State) (ls : List L2Line) : State := { s with caches := { s.caches with l2 := ls } }

/-- A line's bytes and check as memory beneath its slice holds them. -/
def State.restoreLine (s : State) (x : L2Line) : State :=
  match x.under with
  | none => s
  | some (bytes, bad) => { s with mem := putBytes s.mem (64 * x.line) bytes, checks := tset 0 s.checks x.line bad }

/-- A line's check as memory beneath its slice holds it. -/
def State.restoreCheck (s : State) (x : L2Line) : State :=
  match x.under with
  | none => s
  | some (_, bad) => { s with checks := tset 0 s.checks x.line bad }

/-- A failure of a check value that shows next: the record of a line that has not been forwarded, for a launch or for none (R413, R414). -/
def State.unsent (s : State) (ident : Word) (source pa wher : Nat) : State :=
  { s with upsets := s.upsets ++ [.unsent ident source pa wher] }

/-- A dirty line of host memory that fails its check: it may not leave the device (R413). -/
def State.hostBad (s : State) (x : L2Line) : Bool :=
  x.dirty && targetOf (paLocal (64 * x.line)) == .host && tget 0 s.checks x.line != 0

/-- A line of host memory that fails its check as it leaves its slice is not forwarded: the next step leaves host memory with what it
held beneath the line, and writes the record (R413, R414, log entry 122). -/
def State.dropBad (s : State) (x : L2Line) : State :=
  match x.under with
  | some (bytes, bad) => { s with upsets := s.upsets ++ [.dropped x.line bytes bad (if x.upset then 1 else 8)] }
  | none => s

/-- What memory holds of a line that leaves its slice: a dirty one is written back, but for one of host memory that fails its check; of
a clean one memory holds the same bytes, with the check that it has there (R95, R413). -/
def State.leaveSlice (s : State) (x : L2Line) : State :=
  if s.hostBad x then s.dropBad x else if x.dirty then s else s.restoreCheck x

/-- A line leaves its slice. -/
def State.l2Evict (s : State) (x : L2Line) : State := (s.leaveSlice x).setL2 (s.caches.l2.filter fun y => y.line != x.line)

/-- A line dropped from its slice, dirty or not (R55). -/
def State.l2Drop (s : State) (line : Nat) : State :=
  match s.l2Find line with
  | some x => (s.restoreLine x).setL2 (s.caches.l2.filter fun y => y.line != line)
  | none => s

/-- The rank of a cache policy for a load, or for a store or atomic (R90). -/
def rankOf (cp : Nat) (write : Bool) : Rank :=
  match cp with
  | 1 => ⟨0, write⟩
  | 3 => ⟨2, true⟩
  | _ => Rank.plain

/-- Two lines share a set of a slice: 16 MiB of 64-byte lines in 16 ways are 16,384 sets (R95, log entry 9). -/
def sameL2Set (a b : Nat) : Bool := a % 16384 == b % 16384

/-- The line of an address held by its home slice, allocated when it was absent; a full set gives up one of its lines of lowest rank,
of the free choice (R90, R95, log entry 9). Lines of other packages have no slice here (R97). -/
def State.l2Take (s : State) (pa : Nat) (r : Rank) : State :=
  let line := pa / 64
  if !(s.sliced pa) then s
  else match s.l2Find line with
    | some _ => if r.always then s.setL2 (s.caches.l2.map fun y => if y.line == line then { y with rank := r.rank } else y) else s
    | none =>
      let x : L2Line := ⟨s.homeSlice pa, line, r.rank, false, false, none⟩
      let set := s.caches.l2.filter fun y => y.slice == x.slice && sameL2Set y.line line
      if set.length < 16 then s.setL2 (x :: s.caches.l2)
      else
        let least := set.foldl (fun m y => min m y.rank) 2
        let out := set.filter fun y => y.rank == least
        let (n, s) := s.fresh
        let s := match out[Config.victim n % out.length]? with
          | some v => s.l2Evict v
          | none => s
        s.setL2 (x :: s.caches.l2)

/-- A line that its slice holds is about to be written: what memory beneath it holds is kept until the line is written back. -/
def State.l2Dirty (s : State) (line : Nat) : State :=
  s.setL2 (s.caches.l2.map fun y =>
    if y.line == line && !y.dirty then
      { y with dirty := true, under := y.under.or (some (s.rdMem (64 * line) 64, tget 0 s.checks line)) }
    else y)

/-- A line that the host may hold is invalidated there before the device writes it (R395). -/
def State.backInvalidate (s : State) (line : Nat) : State :=
  if s.plat.hostLines.contains line then
    { s with
      plat := { s.plat with hostLines := s.plat.hostLines.filter fun x => x != line }
      outputs := s.outputs ++ [.backInvalidate line] }
  else s

/-- Bytes written at the point of coherence of the line that holds them (R95, R115): in the home slice, or in the memory of another
package. -/
def State.l2Write (s : State) (pa : Nat) (bs : List Byte) (r : Rank := Rank.plain) : State :=
  (((s.backInvalidate (pa / 64)).l2Take pa r).l2Dirty (pa / 64)).wrMem pa bs

/-- Bytes from an address on, split where they pass from one line to the next. -/
def lineRuns (pa : Nat) : List Byte → List (Nat × List Byte)
  | [] => []
  | b :: r =>
    match lineRuns (pa + 1) r with
    | [] => [(pa, [b])]
    | (a, g) :: gs => if a / 64 = pa / 64 then (pa, b :: g) :: gs else (pa, [b]) :: (a, g) :: gs

/-- A line of another package is asked of it (R37, R403). -/
def State.askLine (s : State) (pa : Nat) : State :=
  if paPkg pa = s.pkg then s else { s with outputs := s.outputs ++ [.remoteRequest (paPkg pa) (paLocal pa / 64 * 64) 64] }

/-- Bytes of any length written at their points of coherence. -/
def State.l2Writes (s : State) (pa : Nat) (bs : List Byte) : State :=
  (lineRuns pa bs).foldl (fun s x => s.l2Write x.1 x.2) s

/-- Every line of a frame written back and dropped from the slices (R73). -/
def State.l2Flush (s : State) (lo hi : Nat) : State :=
  (s.caches.l2.filter fun x => decide (lo ≤ 64 * x.line) && decide (64 * x.line < hi)).foldl State.l2Evict s

/-- WHERE of an integrity record for a line of memory (R414): its slice when the failure arose there, else the memory. -/
def State.whereOf (s : State) (pa : Nat) : Nat :=
  if ((s.l2Find (pa / 64)).map L2Line.upset).getD false then 1
  else match targetOf (paLocal pa) with
    | .tier2 => 7
    | .host => 8
    | _ => 6

end Sys2Proof.Machine
end

