-- ==== Sys2Proof/Machine/Records.lean ====
section
/-! DEFINITION. The records the device writes to host memory: rings with held records, fault, machine-check, signal, access-counter and debug event records. -/

namespace Sys2Proof.Machine

/-- The physical address of a host physical address: the host window of this package (R38). -/
def State.hostPa (s : State) (a : Nat) : Nat := s.plat.pkgnum.toNat * 2 ^ 44 + 0x080000000000 + a % 2 ^ 43

/-- The ring of an identifier. -/
def State.ring (s : State) : RingId → Ring
  | .fault => s.xlat.fault
  | .access => s.xlat.access
  | .machineCheck => s.plat.mc
  | .signal => s.plat.sig
  | .debug => s.dbg.ring

/-- The state with a ring replaced. -/
def State.setRing (s : State) (i : RingId) (r : Ring) : State :=
  match i with
  | .fault => { s with xlat := { s.xlat with fault := r } }
  | .access => { s with xlat := { s.xlat with access := r } }
  | .machineCheck => { s with plat := { s.plat with mc := r } }
  | .signal => { s with plat := { s.plat with sig := r } }
  | .debug => { s with dbg := { s.dbg with ring := r } }

/-- The record size of a ring in bytes (R60, R78, R399, R400, R420). -/
def ringSize : RingId → Nat
  | .fault => 64
  | .access => 32
  | .machineCheck => 32
  | .signal => 16
  | .debug => 64

/-- The MSI-X vector a ring's advance raises (R398); the spec gives none to the debug event ring. -/
def ringVector : RingId → Option Nat
  | .fault => some 0
  | .access => some 1
  | .machineCheck => some 2
  | .signal => some 3
  | .debug => none

/-- A record carries a sequence number in bytes [3:0]: every record but a machine-check record (R390, R414). -/
def ringSeq : RingId → Bool
  | .machineCheck => false
  | _ => true

/-- Records a ring holds: 2^LOG2SIZE, clamped to 6-20 (R61). -/
def Ring.count (r : Ring) : Nat := 2 ^ (max 6 (min 20 r.log2size.toNat))

/-- The ring takes a record at once (R62). -/
def Ring.room (r : Ring) : Bool := r.en && decide ((r.put - r.get).toNat < r.count)

/-- A record written to a ring, PUT advanced and the host signalled (R61, R398). -/
def State.ringWrite (s : State) (i : RingId) (body : List Byte) : State :=
  let r := s.ring i
  let bytes := if ringSeq i then leBytes 4 r.seq.toNat ++ body.drop 4 else body
  let s := s.l2Writes (s.hostPa (r.base.toNat + ringSize i * (r.put.toNat % r.count))) bytes
  let s := s.setRing i { r with put := r.put + 1, seq := if ringSeq i then r.seq + 1 else r.seq }
  match ringVector i with
  | some v => { s with outputs := s.outputs ++ [.msix v] }
  | none => s

/-- A record with its HELD flag set (R60, R62). -/
def heldMark (i : RingId) (body : List Byte) : List Byte :=
  match i with
  | .fault => body.take 7 ++ [(body.getD 7 0) ||| 4] ++ body.drop 8
  | _ => body

/-- A record posted to a ring: written at once, or held until space appears (R62). -/
def State.ringPost (s : State) (i : RingId) (body : List Byte) : State :=
  let r := s.ring i
  if r.held.isEmpty && r.room then s.ringWrite i body
  else s.setRing i { r with held := r.held ++ [heldMark i body], full := true }

/-- A record that a full ring discards and counts in DROP: access-counter events (R78), which take a number only when they are written (log
entry 112), and samples, which set FULL too (R61, R420, R427). -/
def State.ringHint (s : State) (i : RingId) (body : List Byte) : State :=
  let r := s.ring i
  if r.held.isEmpty && r.room then s.ringWrite i body
  else s.setRing i { r with drop := min (r.drop + 1) (if i == .access then 2 ^ 32 - 1 else 65535), full := r.full || i != .access }

/-- A field of `n` bytes. -/
def fld (n v : Nat) : List Byte := leBytes n v

/-- The identity fields of REPLAYCMD for a place of the package (R63). -/
def placeIdent (cluster core part index : Nat) : Nat :=
  (cluster / 12) * 2 ^ 23 + (cluster % 12) * 2 ^ 19 + core * 2 ^ 17 + part * 2 ^ 15 + index

/-- SOURCE of a unit (R60, R63): UNIT 0 for a crew slot, 1 for a cox core. -/
def State.source (s : State) (r : UnitRef) : Nat :=
  match s.unit? r with
  | some (.crew c) => match c.place with
    | some p => placeIdent p.cluster p.core p.part p.place
    | none => 0
  | _ => 2 ^ 25 + placeIdent (s.clusterOf r) 0 0 0

/-- The cycle counter of a die (R255). -/
def State.dieCtr (s : State) (die : Nat) : DWord := tget 0 s.plat.dieCtr die

/-- The die of a unit. -/
def State.dieOf (s : State) (r : UnitRef) : Nat := dieOfCluster (s.clusterOf r)

/-- The fields of a fault record (R60) that differ from record to record. -/
structure FaultInfo where
  kind : Nat
  cause : Nat
  access : Nat
  more : Bool
  priv : Bool
  nonReplay : Bool
  asid : Nat
  addr : Nat
  lanes : Mask
  source : Nat
  pc : Nat
  ident : Word
  gang : Nat
  die : Nat
  deriving DecidableEq, Repr

/-- The bytes of a fault record, SEQ zero (R60). -/
def State.faultBytes (s : State) (f : FaultInfo) : List Byte :=
  fld 4 0 ++ fld 1 f.kind ++ fld 1 f.cause ++ fld 1 f.access ++
  fld 1 (b2n f.more + 2 * b2n f.priv + 8 * b2n f.nonReplay) ++ fld 2 f.asid ++ fld 6 0 ++ fld 8 f.addr ++
  fld 12 f.lanes.toNat ++ fld 4 f.source ++ fld 8 f.pc ++ fld 4 f.ident.toNat ++ fld 4 f.gang ++
  fld 4 ((s.dieCtr f.die).toNat % 2 ^ 32) ++ fld 4 0

/-- A fault record posted to the fault buffer (R60 to R62). -/
def State.faultPost (s : State) (f : FaultInfo) : State := s.ringPost .fault (s.faultBytes f)

/-- A type-0 machine-check record (R390): the sibling results of the lowest mismatching lane. -/
def mcSibling (ident : Word) (source pc : Nat) (sibs : Word × Word × Word) (lane : Nat) : List Byte :=
  fld 4 ident.toNat ++ fld 4 source ++ fld 8 pc ++ fld 4 sibs.1.toNat ++ fld 4 sibs.2.1.toNat ++ fld 4 sibs.2.2.toNat ++
  fld 1 lane ++ fld 2 0 ++ fld 1 0

/-- A type-1 machine-check record (R414). -/
def mcIntegrity (ident : Word) (source paddr wher : Nat) : List Byte :=
  fld 4 ident.toNat ++ fld 4 source ++ fld 8 paddr ++ fld 1 wher ++ fld 14 0 ++ fld 1 1

/-- A host-signal record (R400). -/
def signalBytes (tag slot : Nat) (ident : Word) : List Byte :=
  fld 4 0 ++ fld 4 tag ++ fld 2 slot ++ fld 2 0 ++ fld 4 ident.toNat

/-- A partition identity (R419). -/
def pidOf (cox : Bool) (cluster core part : Nat) : Nat :=
  b2n cox * 1024 + (cluster / 12) * 256 + (cluster % 12) * 16 + core * 4 + part

/-- The partition identity of a unit. -/
def State.pid (s : State) (r : UnitRef) : Nat :=
  match s.unit? r with
  | some (.crew c) => match c.place with
    | some p => pidOf false p.cluster p.core p.part
    | none => 0
  | _ => pidOf true (s.clusterOf r) 0 0

/-- The place of a crew on its partition. -/
def State.placeOf (s : State) (r : UnitRef) : Nat :=
  match s.unit? r with
  | some (.crew c) => (c.place.map Place.place).getD 0
  | _ => 0

/-- The fields of a debug event record (R427). -/
structure EventInfo where
  type : Nat
  why : Nat
  num : Nat
  issuerRet : Bool
  pid : Nat
  place : Nat
  slot : Nat
  die : Nat
  pc : Nat
  ident : Word
  addr : Nat
  lane : Nat
  channel : Nat
  leaf : Nat
  issuerPid : Nat
  issuerPlace : Nat
  deriving DecidableEq, Repr

/-- An event record with no field but its type and place set; the lane is 127. -/
def EventInfo.of (type why pid place slot die : Nat) : EventInfo :=
  ⟨type, why, 0, false, pid, place, slot, die, 0, 0, 0, 127, 0, 0, 0, 0⟩

/-- The bytes of a debug event record, SEQ zero (R427). -/
def State.eventBytes (s : State) (e : EventInfo) : List Byte :=
  fld 4 0 ++ fld 1 e.type ++ fld 1 e.why ++ fld 1 e.num ++ fld 1 (b2n e.issuerRet) ++ fld 2 e.pid ++ fld 1 e.place ++
  fld 1 e.slot ++ fld 8 (s.dieCtr e.die).toNat ++ fld 4 e.pc ++ fld 4 e.ident.toNat ++ fld 8 e.addr ++ fld 1 e.lane ++
  fld 1 e.channel ++ fld 1 e.leaf ++ fld 2 e.issuerPid ++ fld 1 e.issuerPlace ++ fld 22 0

/-- A stop, copy-watch or dump record: held when the ring is full (R427). -/
def State.eventPost (s : State) (e : EventInfo) : State := s.ringPost .debug (s.eventBytes e)

/-- An access-counter event record (R78). -/
def accessBytes (cls asid : Nat) (dies : Nat) (addr count : Nat) : List Byte :=
  fld 4 0 ++ fld 1 cls ++ fld 1 asid ++ fld 2 dies ++ fld 8 addr ++ fld 4 count ++ fld 12 0

/-- The ten words 0x20 to 0x29 of a trap record (R387). -/
def TrapRec.words (t : TrapRec) : List Word :=
  [BitVec.ofNat 32 (t.kind.toNat * 2 ^ 24 + t.sub.toNat * 2 ^ 16 + t.other.toNat * 2 ^ 12 + b2n t.skipBp * 256 +
      b2n t.inh * 2 + b2n t.slot),
   t.resume, t.trapPc, t.code, t.addr.extractLsb' 0 32, t.addr.extractLsb' 32 32, t.lane.zeroExtend 32,
   t.mask.extractLsb' 0 32, t.mask.extractLsb' 32 32, t.mask.extractLsb' 64 32]

/-- LIMBSTAT of a crew (R307). -/
def Crew.limbStat (c : Crew) : Word :=
  BitVec.ofNat 32 (c.limbN * 2 ^ 25 + b2n c.limbChi * 2 ^ 24 + c.limbCarry.toNat)

/-- The code of a slot's state as SLOTINFO.OTHER gives it, before FROZEN and HALTED (R255). -/
def SlotState.code : SlotState → Nat
  | .empty => 0
  | .ready => 1
  | .blocked _ => 2
  | .joinWait => 3
  | .parked .. => 4

end Sys2Proof.Machine
end

