-- ==== Sys2Proof/Machine/Streams.lean ====
section
/-! DEFINITION. Streams of packets to other packages (R406). -/

namespace Sys2Proof.Machine

open Sys2Proof

/-- A new stream of a unit kind and index: the serial is raised by one. -/
def State.openStream (s : State) (kind index : Nat) (ident : Word) (closing : Bool) : StreamKey × State :=
  let mine (x : Nat × Nat × Word) : Bool := x.1 == kind && x.2.1 == index
  let n : Word := (((s.fab.serials.find? mine).map fun x => x.2.2).getD 0) + 1
  let key : StreamKey := ⟨s.pkg, kind, index, ident, n⟩
  (key, { s with fab := { s.fab with
    serials := (kind, index, n) :: s.fab.serials.filter fun x => !(mine x)
    streams := s.fab.streams ++ [⟨key, [], closing⟩] } })

/-- The link by which packets to a slice of a package leave: of those that ROUTE names, enabled and trained, the one that the slice
selects (R404, log entry 103); none where there is none. -/
def State.linkFor (s : State) (dst slice : Nat) : Option Nat :=
  let ls := (List.range 16).filter fun k => (tget 0 s.fab.route dst).getLsbD k && match s.fab.links[k]? with
    | some l => l.en && l.gen != 0
    | none => false
  ls[slice % ls.length]?

/-- A packet as it leaves by a link: that of an atomic whose value comes back asks for it (R117). -/
def Origin.output (o : Origin) (dst : Nat) (link : Option Nat) (p : Packet) : Output :=
  match o with
  | .atomic .. => .remoteAtomic dst link p
  | _ => .packet dst link p

/-- A packet of a stream to a slice of another package, with the next sequence number, kept until it is acknowledged. -/
def State.sendPacket (s : State) (key : StreamKey) (dst slice : Nat) (payload : Payload) (origin : Origin) : State :=
  let mine (x : Nat × Nat × Word) : Bool := x.1 == dst && x.2.1 == slice
  let last : Word := ((s.fab.streams.find? fun x => x.key == key).bind fun x => (x.seqs.find? mine).map fun y => y.2.2).getD 0
  let seq : Word := last + 1
  let p : Packet := ⟨key, slice, seq, payload⟩
  let up (x : Stream) : Stream := if x.key == key then { x with seqs := (dst, slice, seq) :: x.seqs.filter fun y => !(mine y) } else x
  { s with
    fab := { s.fab with streams := s.fab.streams.map up, out := s.fab.out ++ [⟨p, dst, origin, 0, false⟩] }
    outputs := s.outputs ++ [origin.output dst (s.linkFor dst slice) p] }

/-- The stream of a run of writes of a unit kind and index for a launch: the one still open, or a new one that closes once every packet
has been acknowledged (R406). -/
def State.runOf (s : State) (kind index : Nat) (ident : Word) : StreamKey × State :=
  match s.fab.streams.find? fun x => x.key.unitKind == kind && x.key.index == index && x.key.ident == ident with
  | some x => (x.key, s)
  | none => s.openStream kind index ident true

/-- The stream of a unit's run of remote stores. -/
def State.runStream (s : State) (r : UnitRef) : StreamKey × State :=
  s.runOf (match r with
    | .crew .. => 0
    | .cox .. => 1) (s.source r) r.ident

/-- A stream with no packet outstanding whose sender has no more to send is closed with an end mark (R406, R407). -/
def State.closeStream (s : State) (key : StreamKey) : State :=
  match s.fab.streams.find? fun x => x.key == key with
  | none => s
  | some x =>
    if x.closing && !(s.fab.out.any fun p => p.pkt.key == key) then
      { s with fab := { s.fab with streams := s.fab.streams.filter fun y => y.key != key }
               outputs := s.outputs ++ [.endMark key] }
    else s

/-- The sender of a stream has no more packets for it. -/
def State.endStream (s : State) (key : StreamKey) : State :=
  let up (x : Stream) : Stream := if x.key == key then { x with closing := true } else x
  { s with fab := { s.fab with streams := s.fab.streams.map up } }.closeStream key

end Sys2Proof.Machine
end

