-- ==== Sys2Proof/Machine/Reach.lean ====
section
/-! DEFINITION. Access counters, and how a cluster's requests reach the L2 (R77, R78, R90, R95). -/

namespace Sys2Proof.Machine

open Sys2Proof

/-! ### Access counters (R77, R78) -/

/-- A counter of a region raised by one for a cluster; at its threshold it writes an event and restarts at 0 (R77). -/
def State.bump (s : State) (asid region cls threshold cluster : Nat) : State :=
  let mine (c : AccessCounter) : Bool := c.asid == asid && c.region == region && c.cls == cls
  let die := dieOfCluster cluster
  let c := (s.xlat.counters.find? mine).getD ⟨asid, region, cls, 0, 0⟩
  let c := { c with count := c.count + 1, dies := setBit c.dies die true }
  let others := s.xlat.counters.filter fun x => !(mine x)
  let set := others.filter fun x => x.region % 1024 == region % 1024
  let others := if set.length < 16 then others
    else match set.getLast? with
      | some v => others.filter fun x => x != v
      | none => others
  let s' : State := if threshold ≤ c.count then
      s.ringHint .access (accessBytes cls asid c.dies.toNat (region * 2 ^ 21) threshold)
    else s
  let c := if threshold ≤ c.count then { c with count := 0, dies := 0 } else c
  { s' with xlat := { s'.xlat with counters := c :: others } }

/-- The L2 serves a request: the line's home slice is this package's and holds it (R77, R95). -/
def State.l2Serves (s : State) (pa : Nat) : Bool := s.sliced pa && (s.l2Find (pa / 64)).isSome

/-- A request of a cluster that leaves the L2 for its target raises the counter of its class (R77). -/
def State.countAccess (s : State) (asid cluster va pa : Nat) : State :=
  let w := (tget 0 s.xlat.asctx (4 * asid + 2)).toNat
  let remote := paPkg pa != s.pkg || targetOf (paLocal pa) == .host
  let tier2 := paPkg pa == s.pkg && targetOf (paLocal pa) == .tier2
  let clamp (t : Nat) : Nat := 2 ^ max 4 (min 24 t)
  if s.l2Serves pa then s
  else if remote && nbit w 31 then s.bump asid (va / 2 ^ 21) 0 (clamp (bits w 24 5)) cluster
  else if tier2 && nbit w 23 then s.bump asid (va / 2 ^ 21) 1 (clamp (bits w 16 5)) cluster
  else s

/-- A request of a cluster reaches its line's home slice: counted when the L2 does not serve it, and the line is held there (R77, R90,
R95). -/
def State.reachL2 (s : State) (asid cluster va pa : Nat) (r : Rank) : State := (s.countAccess asid cluster va pa).l2Take pa r

/-- The lines of an access, each with the first of its bytes there. -/
def lineHeads (xs : List (Nat × Nat)) : List (Nat × Nat) :=
  xs.foldl (fun (l : List (Nat × Nat)) x => if l.any fun y => y.2 / 64 == x.2 / 64 then l else l ++ [x]) []

/-- The requests of an access to several lines, by the virtual and physical addresses of its bytes. -/
def State.reachLines (s : State) (asid cluster : Nat) (xs : List (Nat × Nat)) (r : Rank) : State :=
  (lineHeads xs).foldl (fun (s : State) x => s.reachL2 asid cluster x.1 x.2 r) s

end Sys2Proof.Machine
end

