-- ==== Sys2Proof/Machine/Caches.lean ====
section
/-! DEFINITION. The caches: L1 data caches with their global and private lines, instruction caches, TLBs and walk caches. -/

namespace Sys2Proof.Machine

/-! ### L1 data caches (R89 to R93) -/

/-- The L1 line held by a cache. -/
def State.l1Find (s : State) (cache line : Nat) : Option L1Line :=
  s.caches.l1.find? fun x => x.cache == cache && x.line == line

/-- The lines of the L1 caches replaced. -/
def State.setL1 (s : State) (ls : List L1Line) : State := { s with caches := { s.caches with l1 := ls } }

/-- A private line. -/
def L1Line.priv (x : L1Line) : Bool := x.owner.isSome

/-- Runs of the dirty bytes of a line, with their addresses. -/
def L1Line.dirtyRuns (x : L1Line) : List (Nat × Byte) :=
  (List.range 64).filterMap fun k => if x.dirty.getLsbD k then some (64 * x.line + k, x.data.getD k 0) else none

/-- Consecutive bytes gathered. -/
def gatherRuns : List (Nat × Byte) → List (Nat × List Byte)
  | [] => []
  | b :: r =>
    match gatherRuns r with
    | [] => [(b.1, [b.2])]
    | (a, g) :: gs => if a = b.1 + 1 then (b.1, b.2 :: g) :: gs else (b.1, [b.2]) :: (a, g) :: gs

/-- The line of memory takes over a bad check value that travels with written data (R413). -/
def State.markBad (s : State) (line : Nat) : State := { s with checks := tset 0 s.checks line (BitVec.allOnes 64) }

/-- The dirty bytes of a private line written back to its home (R92): a slice of this package, or another package's, to which they
travel in a stream of the core's (R37, R406, log entry 65) unless the line fails its check as it leaves (R413). -/
def State.writeBack (s : State) (x : L1Line) : State :=
  let runs := gatherRuns x.dirtyRuns
  let pkg := paPkg (64 * x.line)
  match runs, x.owner with
  | _ :: _, some o =>
    let s := s.reachL2 o.asid (x.cache / 4) (64 * o.vline) (64 * x.line) Rank.plain
    if pkg = s.pkg then
      let s := runs.foldl (fun (s : State) r => s.l2Write r.1 r.2) s
      if x.bad then s.markBad x.line else s
    else if x.bad then s.unsent o.ident (placeIdent (x.cache / 4) (x.cache % 4) 0 0) (64 * x.line) 0
    else
      let (key, s) := s.runOf 0 (placeIdent (x.cache / 4) (x.cache % 4) 0 0) o.ident
      runs.foldl (fun (s : State) r => s.sendPacket key pkg (s.homeSlice r.1) (.write (paLocal r.1) r.2) .priv) s
  | _, _ => s

/-- Every dirty private line of a cache written back, and the private lines dropped, so that none is met again once its frame has
another owner (R27, R92). -/
def State.writeBackPrivate (s : State) (cache : Nat) : State :=
  let mine (x : L1Line) : Bool := x.cache == cache && x.priv
  let s := (s.caches.l1.filter mine).foldl State.writeBack s
  s.setL1 (s.caches.l1.filter fun x => !(mine x))

/-! ### Sets and replacement (R89) -/

/-- Two lines share a set: 256 sets of a core's cache (R89); the cox core's 512 lines form one set (log entry 9). -/
def sameSet (cache a b : Nat) : Bool := if cache < 192 then a % 256 == b % 256 else true

/-- Lines of a set: 12 ways (R89), or the 32 KiB of a cox core's cache (R93). -/
def setWays (cache : Nat) : Nat := if cache < 192 then 12 else 512

/-- The tree over the `w` ways of a set (R89, R93, log entry 9): nodes 1 to `w - 1`, the children of node `n` are `2 n` and `2 n + 1`,
and way `k` is the leaf `w + k`. A set bit at a node says that the next victim lies under its second child. An access of a way turns
every node above it away. -/
def plruUp : Nat → Nat → BitVec 512 → BitVec 512
  | 0, _, b => b
  | fuel + 1, n, b => if n < 2 then b else plruUp fuel (n / 2) (setBit b (n / 2) (n % 2 == 0))

/-- The leaf that the tree names as the next victim, from a node down. -/
def plruDown (w : Nat) : Nat → Nat → BitVec 512 → Nat
  | 0, n, _ => n
  | fuel + 1, n, b => if w ≤ n then n else plruDown w fuel (2 * n + b2n (b.getLsbD n)) b

/-- The tree after an access of a way, and the way it names as the next victim; ten steps pass from the root of the largest tree to a
leaf. -/
def plruTouch (w way : Nat) (b : BitVec 512) : BitVec 512 := plruUp 10 (w + way) b
def plruVictim (w : Nat) (b : BitVec 512) : Nat := plruDown w 10 1 b - w

/-- The tree of a line's set. -/
def plruKey (cache line : Nat) : Nat := 256 * cache + if cache < 192 then line % 256 else 0

/-- An access of a line that a cache holds turns the tree of its set. -/
def State.l1Touch (s : State) (cache line : Nat) : State :=
  match s.l1Find cache line with
  | some x =>
    let k := plruKey cache line
    { s with caches := { s.caches with plru := tset 0 s.caches.plru k (plruTouch (setWays cache) x.way (tget 0 s.caches.plru k)) } }
  | none => s

/-- A line entered into a cache, in a free way of its set; a full set gives up the line of the way that its tree names (R89, R93, log
entry 9), written back when dirty. -/
def State.l1Fill (s : State) (x : L1Line) : State :=
  let others := s.caches.l1.filter fun y => !(y.cache == x.cache && y.line == x.line)
  let set := others.filter fun y => y.cache == x.cache && sameSet x.cache y.line x.line
  let ways := setWays x.cache
  let way := ((List.range ways).find? fun w => !(set.any fun y => y.way == w)).getD
    (plruVictim ways (tget 0 s.caches.plru (plruKey x.cache x.line)))
  let s := (set.filter fun y => y.way == way).foldl State.writeBack s
  (s.setL1 ({ x with way := way } :: others.filter fun y => !(y.cache == x.cache && sameSet x.cache y.line x.line && y.way == way))).l1Touch
    x.cache x.line

/-- Every global line of a cache invalidated; fills in flight no longer allocate (R91). -/
def State.l1Invalidate (s : State) (cache : Nat) : State :=
  let s := s.setL1 (s.caches.l1.filter fun x => x.cache != cache || x.priv)
  { s with flight := { s.flight with loads := s.flight.loads.map fun o => if o.cache == cache then { o with alloc := [] } else o } }

/-- A cache's copy of a line dropped (R89, R90). -/
def State.l1Drop (s : State) (cache line : Nat) : State :=
  s.setL1 (s.caches.l1.filter fun x => x.cache != cache || x.line != line || x.priv)

/-- Byte `k` of a line replaced. -/
def L1Line.put (x : L1Line) (k : Nat) (b : Byte) (dirty : Bool) : L1Line :=
  { x with data := x.data.set k b, dirty := if dirty then setBit x.dirty k true else x.dirty }

/-- A store's bytes update the lines present in the core's own cache and allocate none (R89). -/
def State.l1Update (s : State) (cache : Nat) (bytes : List (Nat × Byte)) : State :=
  let s := s.setL1 (s.caches.l1.map fun x =>
    if x.cache == cache && !x.priv then
      bytes.foldl (fun x b => if b.1 / 64 == x.line then x.put (b.1 % 64) b.2 false else x) x
    else x)
  ((bytes.map fun b => b.1 / 64).eraseDups).foldl (fun s n => s.l1Touch cache n) s

/-- The bytes of stores a cache has sent and that have not been accepted, laid over data from `pa` on. -/
def State.overlay (s : State) (cache pa : Nat) (data : List Byte) : List Byte :=
  let sent := (s.flight.stores.filter fun o => o.cache == cache).flatMap StoreOp.bytes
  sent.foldl (fun d b => if pa ≤ b.1 then d.set (b.1 - pa) b.2 else d) data

/-- What a load that a cache has in flight reads of a line that enters the cache: memory with the core's earlier stores on their way,
now that the line is there; an acquire reads past the cache (R89, R114, R122). -/
def State.mergeFill (s : State) (line : Nat) (o : LoadOp) : LoadOp :=
  let older := (s.flight.stores.filter fun x => x.cache == o.cache && decide (x.id < o.id)).flatMap StoreOp.bytes
  let byte (pa : Nat) : Byte := ((older.reverse.find? fun b => b.1 == pa).map Prod.snd).getD (tget 0 s.mem pa)
  { o with got := (o.locs.zip o.got).map fun x => match x.1, x.2 with
    | .mem pa, none => if pa / 64 = line then some (byte pa) else none
    | _, g => g }

/-- The loads in flight of a cache after a good line of theirs has entered it: a later load that it serves reads no older value than
they do. -/
def State.mergeFills (s : State) (cache line : Nat) : State :=
  if s.lineBad (64 * line) then s
  else { s with flight := { s.flight with loads := s.flight.loads.map fun o =>
      if o.cache == cache && !o.acquire then s.mergeFill line o else o } }

/-- A line's data as a core's cache takes it in: memory with the core's own stores on their way (log entry 16). -/
def State.lineData (s : State) (cache line : Nat) : List Byte := s.overlay cache (64 * line) (s.rdMem (64 * line) 64)

/-- A line enters a core's cache: its bytes with the core's own stores on their way, and its check; the loads in flight that read it read it
now. -/
def State.fillLine (s : State) (cache line : Nat) : State :=
  (s.l1Fill ⟨cache, line, 0, s.lineData cache line, none, 0, s.lineBad (64 * line)⟩).mergeFills cache line

/-- A line of another package's memory with the private bytes that are on their way to it (R27). -/
def State.privData (s : State) (line : Nat) : List Byte :=
  let base := 64 * line
  let sent := (s.fab.out.filter fun o => o.origin == .priv && o.dst == paPkg base).flatMap fun o => match o.pkt.payload with
    | .write a d => d.zipIdx.map fun x => (a + x.2, x.1)
    | _ => []
  sent.foldl (fun d b => if paLocal base ≤ b.1 then d.set (b.1 - paLocal base) b.2 else d) (s.rdMem base 64)

/-- A private line present in the cache, allocated from memory when it was absent (R89): a request of the core's cluster (R77). -/
def State.privLine (s : State) (cache line : Nat) (o : Backing) : State :=
  match s.l1Find cache line with
  | some x => if x.priv then s else s.setL1 (s.caches.l1.map fun y => if y == x then { y with owner := some o } else y)
  | none =>
    let s := (s.reachL2 o.asid (cache / 4) (64 * o.vline) (64 * line) Rank.plain).askLine (64 * line)
    s.l1Fill ⟨cache, line, 0, s.privData line, some o, 0, s.lineBad (64 * line)⟩

/-- One private byte read through the cache (R27), and whether its line fails its check. -/
def State.privRead (s : State) (cache pa : Nat) (o : Backing) : (Byte × Bool) × State :=
  let s := (s.privLine cache (pa / 64) o).l1Touch cache (pa / 64)
  match s.l1Find cache (pa / 64) with
  | some x => ((x.data.getD (pa % 64) 0, x.bad), s)
  | none => ((0, false), s)

/-- One private byte written into the cache, dirty (R27). -/
def State.privWrite (s : State) (cache pa : Nat) (b : Byte) (o : Backing) : State :=
  let s := (s.privLine cache (pa / 64) o).l1Touch cache (pa / 64)
  s.setL1 (s.caches.l1.map fun x => if x.cache == cache && x.line == pa / 64 then x.put (pa % 64) b true else x)

/-! ### Instruction caches (R94) -/

/-- The number of the instruction cache of a unit is that of its data cache; the line of an address. -/
def State.ilFind (s : State) (cache asid line : Nat) : Option ILine :=
  s.caches.il.find? fun x => x.cache == cache && x.asid == asid && x.line == line

/-- A line entered into an instruction cache: 128 sets of 8 ways (R94), or the 256 lines of a cox core's (R93). The set is the number of the
virtual line mod 128, which is the model's choice (log entry 9). -/
def State.ilFill (s : State) (x : ILine) : State :=
  let same (y : ILine) : Bool := y.cache == x.cache && (if x.cache < 192 then y.line % 128 == x.line % 128 else true)
  let ways := if x.cache < 192 then 8 else 256
  let set := s.caches.il.filter same
  if set.length < ways then { s with caches := { s.caches with il := x :: s.caches.il } }
  else
    let (n, s) := s.fresh
    match set[Config.victim n % set.length]? with
    | some v => { s with caches := { s.caches with il := x :: s.caches.il.filter fun y => y != v } }
    | none => s

/-! ### TLBs and walk caches (R51) -/

/-- The bytes of a page of a level: 64 KiB, 2 MiB, 1 GiB (R43). -/
def pageBytes (level : Nat) : Nat := if level = 0 then 2 ^ 16 else if level = 1 then 2 ^ 21 else 2 ^ 30

/-- The entry of a TLB that covers a virtual address. -/
def State.tlbFind (s : State) (tlb asid va : Nat) : Option TlbEntry :=
  s.caches.tlb.find? fun e => e.tlb == tlb && e.asid == asid && e.vpage == va / pageBytes e.level

/-- Two entries of a TLB compete for a place: a core's 64 are fully associative; a cluster's and the network engine's 4096 are 256 sets
of 16 ways, a page's set given by its number at its own size (R51, log entry 9). -/
def TlbEntry.rival (a b : TlbEntry) : Bool :=
  a.tlb == b.tlb && (a.tlb < 192 || a.vpage % 256 == b.vpage % 256)

/-- The entries that may compete: 64 of a core's TLB, 16 of a set. -/
def tlbWays (tlb : Nat) : Nat := if tlb < 192 then 64 else 16

/-- A translation entered into a TLB; where there is no room an entry of the free choice gives way (log entry 9). -/
def State.tlbFill (s : State) (e : TlbEntry) : State :=
  if s.caches.tlb.contains e then s
  else
    let mine := s.caches.tlb.filter e.rival
    if mine.length < tlbWays e.tlb then { s with caches := { s.caches with tlb := e :: s.caches.tlb } }
    else
      let (n, s) := s.fresh
      match mine[Config.victim n % mine.length]? with
      | some v => { s with caches := { s.caches with tlb := e :: s.caches.tlb.filter fun x => x != v } }
      | none => s

/-- A non-leaf entry entered into a die's walk cache of 256 (R51). -/
def State.walkFill (s : State) (e : WalkEntry) : State :=
  if s.caches.walkCache.contains e then s
  else
    let mine := s.caches.walkCache.filter fun x => x.die == e.die
    if mine.length < 256 then { s with caches := { s.caches with walkCache := e :: s.caches.walkCache } }
    else
      let (n, s) := s.fresh
      match mine[Config.victim n % mine.length]? with
      | some v => { s with caches := { s.caches with walkCache := e :: s.caches.walkCache.filter fun x => x != v } }
      | none => s

/-- A table line dropped from its slice and from every walk cache that holds an entry of it (R55). -/
def State.dropTableLine (s : State) (line : Nat) : State :=
  let s := s.l2Drop line
  { s with caches := { s.caches with walkCache := s.caches.walkCache.filter fun x => x.pa / 64 != line } }

end Sys2Proof.Machine
end

