-- ==== Sys2Proof/Machine/Ops.lean ====
section
/-! DEFINITION. The named operations over slots, barriers and units: what a slot waits for, retiring a crew, ending a launch, taking a trap and returning from one, the core dump, and counting an instruction. -/

namespace Sys2Proof.Machine

/-! ### What a unit has outstanding -/

/-- A slot holds an instruction with unfinished lanes, parked or waiting for page walks or to be replayed, whose ACCESS code
(R60) satisfies `p`; one that waits for its own release does not count. -/
def Slot.holds (x : Slot) (p : Nat → Bool) : Bool :=
  x.unfinished.isSome && p x.acc && x.st != .blocked .release

/-- A slot of the unit holds such an instruction. -/
def UnitSt.holds (u : UnitSt) (p : Nat → Bool) : Bool := u.slots.any fun k => (u.slot k).holds p

/-- A copy request may still send ordered updates (R411): one of a deterministic launch that has not been accepted yet, or whose
operator is among REDOP 1 to 5. -/
def CopyReq.mayUpdate (q : CopyReq) : Bool :=
  match q.phase, q.job with
  | .finishing _, _ => false
  | _, some j => 1 ≤ j.redop && j.redop ≤ 5
  | .queued, none | .waiting _, none => true
  | _, none => false

/-- The request is in its channel's queue, and no longer at its issue (R323). -/
def CopyReq.joined (q : CopyReq) : Bool :=
  match q.phase with
  | .waiting _ => false
  | _ => true

/-- A queued vocabulary operation may still send ordered updates for its dW (R363, R411). -/
def MatOp.mayUpdate (o : MatOp) : Bool :=
  match o.kind with
  | .vocab j => j.regen && o.code == 0 && leNat ((j.desc.drop 96).take 8) != 0
  | _ => false

/-- Operations that a core's matrix engine holds, in its queue of eight or waiting for room there (R336, R394). -/
def Matrix.load (m : Matrix) : Nat := m.queue.length + m.backlog.length

/-- Every operation that the engine holds, and the engine with each of them changed. -/
def Matrix.ops (m : Matrix) : List MatOp := m.queue ++ m.backlog
def Matrix.mapOps (m : Matrix) (f : MatOp → MatOp) : Matrix := { m with queue := m.queue.map f, backlog := m.backlog.map f }

/-- The engine with nothing but its operations. -/
def Matrix.bare (m : Matrix) : Matrix := ⟨m.cluster, m.core, [], [], [], 0, 0, m.queue, m.backlog, 0, [], []⟩

/-- The engine with other operations: the first eight in its queue, the others waiting for room there (R336). -/
def Matrix.withOps (m : Matrix) (ops : List MatOp) : Matrix := { m with queue := ops.take 8, backlog := ops.drop 8 }

/-- Engine operations of a unit may still send ordered updates (R138, R411). -/
def State.mayUpdate (s : State) (r : UnitRef) : Bool :=
  (s.lrec r.ident).determ && ((s.eng.copies.any fun q => q.unit == r && q.mayUpdate) ||
    (s.eng.mats.any fun m => m.ops.any fun o => o.unit == r && o.mayUpdate))

/-- The unit has no unfinished ordered update (R138, R246, R411). -/
def State.roundQuiet (s : State) (u : UnitSt) : Bool :=
  !(s.flight.updates.any fun o => o.unit == u.ref && o.place == .sent) && !(u.holds fun a => a == 3) && !(s.mayUpdate u.ref)

/-- Two units whose accesses a narrow scope may order (R121): crews of one workgroup, or the same unit. -/
def sameGroup : UnitRef → UnitRef → Bool
  | .crew i g w _, .crew j h x _ => i == j && g == h && w == x
  | a, b => a == b

/-- The unit's earlier loads have returned and its stores are acknowledged (R92, R122), and those of the other crews of its workgroup,
any of which may happen before it by a barrier or an acquire (R125, R126, log entry 100): none is in flight; of its own none is parked
(R58), and no ordered update is unaccepted (R321, R411). -/
def State.released (s : State) (u : UnitSt) : Bool :=
  let r := u.ref
  !(s.flight.loads.any fun o => sameGroup o.unit r) && !(s.flight.stores.any fun o => sameGroup o.unit r) &&
  !(s.flight.atomics.any fun o => sameGroup o.unit r) && s.roundQuiet u && !(u.holds fun a => a ≤ 3)

/-- A slot keeps an acquire whose lanes have not all made their accesses (R122, R123). -/
def UnitSt.acquiring (u : UnitSt) : Bool := u.slots.any fun k => (((u.slot k).kept.map Issued.acquire).getD false)

/-- The unit's own scratchpad passes have been served (R88). -/
def State.ownPassed (s : State) (r : UnitRef) : Bool :=
  !(s.flight.loads.any fun o => o.unit == r && o.port.isSome) && !(s.flight.stores.any fun o => o.unit == r && o.port.isSome) &&
  !(s.flight.atomics.any fun o => o.unit == r && o.port.isSome)

/-- No scratchpad pass of the unit's gang is still to be served (R88): what is issued next reads and writes the scratchpad after every
pass issued before it (R122). -/
def State.passed (s : State) (r : UnitRef) : Bool :=
  let mine (u : UnitRef) : Bool := u.ident == r.ident && u.gang == r.gang
  !(s.flight.loads.any fun o => mine o.unit && o.port.isSome) && !(s.flight.stores.any fun o => mine o.unit && o.port.isSome) &&
  !(s.flight.atomics.any fun o => mine o.unit && o.port.isSome)

/-- No access of an acquire is still to be made (R122, R123, R125), as an instruction of slot `sl` must know: one that has issued and
stays in its slot was issued before every acquire that the other slot keeps, or is one itself. -/
def State.acquired (s : State) (u : UnitSt) (sl : Slot) : Bool :=
  !(s.flight.loads.any fun o => o.unit == u.ref && o.acquire) && !(s.flight.atomics.any fun o => o.unit == u.ref && o.acquire) &&
  (sl.counted || !u.acquiring)

/-- The engine counter of a class (R248): 0 copy, 1 network, 2 matrix, 3 vocabulary. -/
def Scal.counter (x : Scal) (cls : Nat) : Nat :=
  (match cls with | 0 => x.cpy | 1 => x.net | 2 => x.mat | _ => x.voc).toNat

/-- An engine counter raised by one. -/
def Scal.raise (x : Scal) (cls : Nat) : Scal :=
  match cls with
  | 0 => { x with cpy := x.cpy + 1 }
  | 1 => { x with net := x.net + 1 }
  | 2 => { x with mat := x.mat + 1 }
  | _ => { x with voc := x.voc + 1 }

/-- An engine counter lowered by one at an operation's completion. -/
def Scal.lower (x : Scal) (cls : Nat) : Scal :=
  match cls with
  | 0 => { x with cpy := x.cpy - 1 }
  | 1 => { x with net := x.net - 1 }
  | 2 => { x with mat := x.mat - 1 }
  | _ => { x with voc := x.voc - 1 }

/-- Requests in the queue of a copy channel (R99). -/
def State.channelLoad (s : State) (cluster chan : Nat) : Nat :=
  (s.eng.copies.filter fun q => q.cluster == cluster && q.chan == chan && q.joined).length

/-- The gang of a unit is being saved or has been (R391, R392). -/
def State.gangStopping (s : State) (r : UnitRef) : Bool :=
  match s.gang? r.ident r.gang with
  | some g => g.saving || g.saved
  | none => false

/-- A panel request of a vocabulary operation, which goes on until the running tile has ended (R364). -/
def CopyReq.panel (q : CopyReq) : Bool :=
  match q.vocab with
  | some (_, dw, _) => !dw
  | none => false

/-- A request is within a step: its source is being read, or its bytes are on their way (R107). -/
def CopyJob.moving (j : CopyJob) : Bool := j.stepBytes != 0 || !j.reads.isEmpty || !j.got.isEmpty

/-- A request of a gang that is being saved which has come to a stopping point, at a step's end, and goes no further (R391, R392). -/
def State.stopsCopy (s : State) (q : CopyReq) : Bool :=
  s.gangStopping q.unit && !q.panel && !q.cancel && match q.phase, q.job with
    | .finishing _, _ => false
    | _, some j => !j.moving
    | _, none => true

/-- A channel's queue has room for a panel: requests that pre-emption has stopped are in it no longer (R99, R364, log entry 119). -/
def State.panelRoom (s : State) (cluster chan : Nat) : Bool :=
  decide ((s.eng.copies.filter fun q => q.cluster == cluster && q.chan == chan && q.joined && !(s.stopsCopy q)).length < 16)

/-- The matrix engine of a core (zero when it has never been used). -/
def State.matrix (s : State) (cluster core : Nat) : Matrix :=
  (s.eng.mats.find? fun m => m.cluster == cluster && m.core == core).getD ⟨cluster, core, [], [], [], 0, 0, [], [], 0, [], []⟩

/-- The state with a matrix engine replaced. -/
def State.setMatrix (s : State) (m : Matrix) : State :=
  { s with eng := { s.eng with mats := m :: s.eng.mats.filter fun x => !(x.cluster == m.cluster && x.core == m.core) } }

/-- COUNT and STATUS of the byte barrier at a scratchpad offset of a workgroup (R104). -/
def Workgroup.byteBar (w : Workgroup) (off : Nat) : Nat × Nat :=
  (leNat (getBytes w.sp off 8), leNat (getBytes w.sp (off + 8) 4))

/-- STATUS.STATE and WP of the request record at a scratchpad offset (R100). -/
def Workgroup.copyRec (w : Workgroup) (off : Nat) : Nat × Nat :=
  (leNat (getBytes w.sp (off + 36) 1), leNat (getBytes w.sp (off + 40) 8))

/-- What a slot waits for has come about. -/
def State.waitOver (s : State) (u : UnitSt) (sl : Slot) (w : Wait) : Bool :=
  let id := u.ref.ident
  let g := u.ref.gang
  match w with
  | .regs runs => runs.all fun x => u.isFull x.1 x.2.1 x.2.2
  | .engine cls n => decide (u.scal.counter cls ≤ n)
  | .barrier n gen => match s.wg? id g (wgOf u.ref) with
    | some wg => decide (gen < ((wg.bars[n]?).getD ⟨0, []⟩).gen)
    | none => false
  | .gangBarrier gen => match s.wg? id g 0 with
    | some wg => decide (gen < wg.gbar.gen)
    | none => false
  | .ornd => s.roundQuiet u
  | .release => s.released u
  | .acquire => s.acquired u sl
  | .byteBarrier wg off => match s.wg? id g wg with
    | some x => (x.byteBar off).1 == 0 || (x.byteBar off).2 != 0
    | none => false
  | .copyWp wg off n => match s.wg? id g wg with
    | some x => (x.copyRec off).1 != 0 || decide (n ≤ (x.copyRec off).2)
    | none => false
  | .channel cl ch => decide (s.channelLoad cl ch < 16)
  | .matrixQueue cl co => decide ((s.matrix cl co).load < 8)
  | .draws => match s.wg? id g (wgOf u.ref) with
    | some x => decide (x.draws < 4)
    | none => false
  | .regroup p => (s.unit? (.crew id g (wgOf u.ref) p)).isNone
  | .walk _ _ pages => pages.all fun p => sl.walked.any fun x => x.1 == p
  | .target c h => match s.unit? (.crew id g (wgOf u.ref) c) with
    | some t => t.isFull .h h (BitVec.allOnes 96)
    | none => true
  | .limbs => !(s.flight.limbs.any fun o => o.unit == u.ref)
  | .floats => !(s.flight.producers.any fun o => o.unit == u.ref && o.float) && !(u.slots.any fun k => (u.slot k).sweep.isSome)
  | .atomics => !(s.flight.atomics.any fun o => o.unit == u.ref) && s.passed u.ref &&
      !(s.flight.stores.any fun o => o.unit == u.ref && o.bytes.isEmpty && o.port.isNone)
  | .passes => s.ownPassed u.ref
  | .posting .. => s.released u

/-- The unit has a place: it is not in a context image. -/
def State.placed (s : State) (u : UnitSt) : Bool :=
  match u with
  | .crew c => c.place.isSome
  | .cox c => !c.ended && !(((s.gang? c.ident c.gang).map Gang.saved).getD true)

/-- A slot is READY, or BLOCKED on something that has come about (R156, R241). -/
def State.slotReady (s : State) (u : UnitSt) (k : Nat) : Bool :=
  match (u.slot k).st with
  | .ready => true
  | .blocked w => s.waitOver u (u.slot k) w
  | _ => false

/-- A slot FROZEN by a bracket or by a handler (R164, R388). -/
def Slot.frozen (x : Slot) : Bool := x.frozenBkt || x.frozenTrap

/-- The debug registers of a partition (R421). -/
def State.part (s : State) (pid : Nat) : PartDebug := ((s.dbg.parts.find? fun x => x.1 == pid).map Prod.snd).getD PartDebug.zero

/-- The state with a partition's debug registers replaced. -/
def State.setPart (s : State) (pid : Nat) (d : PartDebug) : State :=
  { s with dbg := { s.dbg with parts := (pid, d) :: s.dbg.parts.filter fun x => x.1 != pid } }

/-- The unit's partition is stopped (R422). -/
def State.isHalted (s : State) (r : UnitRef) : Bool := (s.part (s.pid r)).halted

/-- SLOTINFO.OTHER of slot `k` (R255): HALTED, FROZEN, else the state itself. -/
def State.slotCode (s : State) (u : UnitSt) (k : Nat) : Nat :=
  if s.isHalted u.ref && (u.slot k).st != .empty then 6
  else if (u.slot k).frozen && (u.slot k).st != .empty then 5
  else if s.slotReady u k then 1 else (u.slot k).st.code

/-- SLOTINFO.OTHER for the issuer's other slot; 15 on a cox core. -/
def State.otherCode (s : State) (u : UnitSt) (k : Nat) : Nat := if u.isCox then 15 else s.slotCode u (1 - k)

/-! ### The core dump (R429) -/

/-- The core dump of a crew (R429); where the layout leaves a field's place open the model packs them in the order named
(log entry 15). A line of the register file that fails its check is not forwarded (R413): its bytes are written as ones (log entry 118). -/
def State.dumpOf (s : State) (c : Crew) : List Byte :=
  let block (l : List Byte) : List Byte := if c.blockBad then l.map fun _ => 0xFF else l
  let word (n l : Nat) : Word := if c.lineBad n l then 0xFFFFFFFF#32 else c.vget n l
  let vregs := (s.lrec c.ident).vregs
  let total := 0xB00 + vregs * 384 + vregs * 12
  let pad (n : Nat) (l : List Byte) : List Byte := (l ++ List.replicate n 0).take n
  let u := UnitSt.crew c
  let r := c.ref
  let slotBytes (k : Nat) : List Byte :=
    let x := c.slot k
    fld 8 x.pc.toNat ++ fld 12 x.mask.toNat ++ fld 4 (s.slotCode u k) ++ fld 4 x.link.toNat ++ fld 4 0
  let pcs := (c.pcs.take 64).reverse
  pad 0x40 (fld 4 c.ident.toNat ++ fld 2 (s.pid r) ++ fld 2 (s.placeOf r) ++ fld 4 vregs ++ fld 4 total) ++
  pad 0x40 (c.scal.trap.words.flatMap bytesOfWord) ++
  pad 0x40 c.faultRec ++
  pad 0x100 (List.replicate (4 * (64 - pcs.length)) 0 ++ pcs.flatMap bytesOfWord) ++
  block (slotBytes 0 ++ slotBytes 1 ++
  ((List.range 128).flatMap fun n => bytesOfWord (c.scal.sget n)) ++
  ((List.range 64).flatMap fun n => fld 12 (c.pget n).toNat) ++
  pad 0x100 (fld 4 c.scal.q.toNat ++ ((List.range 16).flatMap fun n => bytesOfWord (c.scal.hget n)) ++
    ((List.range 4).flatMap fun n => bytesOfWord (tget 0 c.nf n)) ++ fld 16 (~~~c.scal.sEmpty).toNat ++
    fld 2 (~~~c.scal.qEmpty).toNat ++ fld 2 (~~~c.scal.hEmpty).toNat ++ fld 4 (~~~c.nfEmpty).toNat ++
    bytesOfWord c.arithCtl ++ bytesOfWord c.arithStat ++ bytesOfWord c.limbStat ++ bytesOfWord c.scal.round) ++
  ((List.range 64).flatMap fun n => fld 12 (~~~(u.emptyLanes .p n)).toNat)) ++
  ((List.range vregs).flatMap fun n => (List.range 96).flatMap fun l => bytesOfWord (word n l)) ++
  block ((List.range vregs).flatMap fun n => fld 12 (~~~(u.emptyLanes .v n)).toNat)

/-- The crew that caused the end of its launch at a code offset is dumped, and an event record of type 5 follows (R429). -/
def State.dump (s : State) (c : Crew) (slot : Nat) (pc : Word) : State :=
  if !(s.dbg.dumpBase.getLsbD 0) || s.dbg.dumpPending then s
  else
    let base := s.dbg.dumpBase.toNat / 4096 * 4096
    let s := s.l2Writes (s.hostPa base) (s.dumpOf c)
    let r := c.ref
    let e : EventInfo := { EventInfo.of 5 0 (s.pid r) (s.placeOf r) slot (s.dieOf r) with
      ident := c.ident, pc := pc.toNat }
    let waits := !((s.ring .debug).held.isEmpty && (s.ring .debug).room)
    let s := s.eventPost e
    { s with dbg := { s.dbg with dumpPending := waits } }

/-! ### Barriers (R166, R244, R245) -/

/-- A party arrives: for the current generation, or for the next when it has already arrived. The generation it waits for. -/
def Barrier.arrive (b : Barrier) (party : Nat) : Barrier × Nat :=
  let g := if b.arrivals.contains (party, b.gen) then b.gen + 1 else b.gen
  ({ b with arrivals := b.arrivals ++ [(party, g)] }, g)

/-- The generation advances once every expected party has arrived; arrivals for the next generation may advance it again. -/
def Barrier.settle (b : Barrier) (expected : Nat) : Nat → Barrier
  | 0 => b
  | fuel + 1 =>
    let here := (b.arrivals.filter fun a => a.2 == b.gen).length
    if 0 < expected && expected ≤ here then
      Barrier.settle { gen := b.gen + 1, arrivals := b.arrivals.filter fun a => a.2 != b.gen } expected fuel
    else b

/-- The crews of a workgroup that have not retired. -/
def State.wgCrews (s : State) (ident : Word) (gang wg : Nat) : List Crew :=
  s.crews.filter fun c => c.ident == ident && c.gang == gang && c.wg == wg

/-- The crews of a gang that have not retired. -/
def State.gangCrews (s : State) (ident : Word) (gang : Nat) : List Crew :=
  s.crews.filter fun c => c.ident == ident && c.gang == gang

/-- The gang's cox core runs a cox section and has not executed EXIT. -/
def State.coxLive (s : State) (ident : Word) (gang : Nat) : Bool :=
  s.coxes.any fun c => c.ident == ident && c.gang == gang && !c.ended

/-- The barriers of a workgroup advanced as far as the arrivals allow. -/
def State.settleBars (s : State) (ident : Word) (gang wg : Nat) : State :=
  let n := (s.wgCrews ident gang wg).length
  s.modWg ident gang wg fun w => { w with bars := w.bars.map fun b => b.settle n 2 }

/-- The caches of the cores a gang occupies, and of its cox core. -/
def State.gangCaches (s : State) (ident : Word) (gang : Nat) : List Nat :=
  let cl := ((s.gang? ident gang).map Gang.cluster).getD 0
  ((s.wgs.filter fun w => w.ident == ident && w.gang == gang).map fun w => 4 * cl + w.core) ++ [192 + cl]

/-- The gang barrier advanced as far as the arrivals allow; its departure is an acquire at gang scope (R128, R245). -/
def State.settleGbar (s : State) (ident : Word) (gang : Nat) : State :=
  let n := (s.gangCrews ident gang).length + b2n (s.coxLive ident gang)
  match s.wg? ident gang 0 with
  | none => s
  | some w =>
    let b := w.gbar.settle n 2
    let s' := s.modWg ident gang 0 fun w => { w with gbar := b }
    if b.gen == w.gbar.gen then s' else (s.gangCaches ident gang).foldl State.l1Invalidate s'

/-! ### Retiring -/

/-- An engine still works for the gang: a copy request, or a queued matrix operation. -/
def State.gangBusy (s : State) (ident : Word) (gang : Nat) : Bool :=
  (s.eng.copies.any fun q => q.unit.ident == ident && q.unit.gang == gang) ||
  (s.eng.mats.any fun m => m.ops.any fun o => o.unit.ident == ident && o.unit.gang == gang)

/-- A gang whose crews and cox core have retired and for which no engine works gives up its pool images and its cluster
(log entry 17). -/
def State.reapGang (s : State) (ident : Word) (gang : Nat) : State :=
  if (s.gangCrews ident gang).isEmpty && !(s.coxLive ident gang) && !(s.gangBusy ident gang) &&
      !(((s.gang? ident gang).map Gang.saved).getD false) then
    { s with
      wgs := s.wgs.filter fun w => !(w.ident == ident && w.gang == gang)
      coxes := s.coxes.filter fun c => !(c.ident == ident && c.gang == gang)
      gangs := s.gangs.filter fun g => !(g.ident == ident && g.gang == gang) }
  else s

/-- A crew retires (R160): its place is free, the barriers expect one crew less, and with the last crew of a workgroup the
private lines are written back (R92) and the private frame is free (R24). -/
def State.retireCrew (s : State) (c : Crew) : State :=
  let cache := s.cacheOf c.ref
  let s := { s with crews := s.crews.filter fun x => x.ref != c.ref }
  let s := if (s.wgCrews c.ident c.gang c.wg).isEmpty then
      let f := ((s.wg? c.ident c.gang c.wg).map Workgroup.frame).getD 0
      (s.writeBackPrivate cache).modLaunch c.ident fun l => { l with framesUsed := l.framesUsed.filter fun x => x != f }
    else s
  ((s.settleBars c.ident c.gang c.wg).settleGbar c.ident c.gang).reapGang c.ident c.gang

/-- A slot of the crew that has become EMPTY lets a JOIN waiting in the other slot continue (R159). -/
def Crew.joinFree (c : Crew) : Crew :=
  let go (a b : Slot) : Slot := if b.st == .empty && a.st == .joinWait then { a with st := .ready, pc := a.pc + 4, counted := false } else a
  { c with slot0 := go c.slot0 c.slot1, slot1 := go c.slot1 c.slot0 }

/-- A crew with both slots EMPTY and no handler running retires (R160). -/
def State.settleCrew (s : State) (r : UnitRef) : State :=
  match s.unit? r with
  | some (.crew c) =>
    let c := c.joinFree
    if c.slot0.st == .empty && c.slot1.st == .empty && !c.scal.trap.inh then s.retireCrew c else s.setCrew c
  | _ => s

/-! ### Ending a launch (R65, R389, R390) -/

/-- A launch ends as a cancel does: its crews and cox cores stop, its copies are stopped at a 256-byte step, its matrix operations end with code 8 (R338), its rounds not
yet applied are abandoned (R144), and no further gang of it is placed. -/
def State.endLaunch (s : State) (ident : Word) : State :=
  let mine (r : UnitRef) : Bool := r.ident == ident
  let caches := (s.wgs.filter fun w => w.ident == ident).map fun w =>
    4 * (((s.gang? w.ident w.gang).map Gang.cluster).getD 0) + w.core
  let s : State := caches.foldl State.writeBackPrivate s
  let gangs := (s.gangs.filter fun g => g.ident == ident).map Gang.gang
  let stop (m : Matrix) : Matrix :=
    let end8 (p : MatOp) : MatOp := if mine p.unit then { p with code := 8 } else p
    m.mapOps end8
  let s : State := { s with
    issuer := if (s.issuer.map fun i => mine i.unit).getD false then none else s.issuer
    crews := s.crews.filter fun c => c.ident != ident
    coxes := s.coxes.filter fun c => c.ident != ident
    gangs := s.gangs.map fun g => if g.ident == ident then { g with saving := false, saved := false } else g
    flight := { s.flight with
      loads := s.flight.loads.filter fun o => !(mine o.unit)
      producers := s.flight.producers.filter fun o => !(mine o.unit)
      limbs := s.flight.limbs.filter fun o => !(mine o.unit)
      stores := s.flight.stores.filter fun o => !(mine o.unit && o.port.isSome)
      atomics := s.flight.atomics.filter fun o => !(mine o.unit && o.port.isSome)
      updates := s.flight.updates.filter fun o => !(mine o.unit) }
    eng := { s.eng with
      copies := (s.eng.copies.filter fun q => !(mine q.unit && (q.cluster == 48 || !q.joined))).map fun q =>
        if mine q.unit then { q with cancel := true } else q
      mats := s.eng.mats.map stop
      saved := s.eng.saved.filter fun m => m.ident != ident }
    dealer := { s.dealer with
      reservations := s.dealer.reservations.filter fun r => r.ident != ident
      draws := s.dealer.draws.filter fun d => !(mine d.unit) } }
  let s := s.modLaunch ident fun l => { l with cancelled := true, returned := [], ovfUsed := [], framesUsed := [] }
  gangs.foldl (fun s g => s.reapGang ident g) s

/-! ### Traps (R385 to R389) -/

/-- What a trap reports. -/
structure TrapInfo where
  kind : Nat
  sub : Nat
  code : Word
  addr : DWord
  /-- The lanes for which the condition held; none when the kind names no lane. -/
  lanes : Option Mask
  deriving DecidableEq, Repr

/-- A trap of a kind and subcode, with no code, address or lanes. -/
def TrapInfo.of (kind sub : Nat) : TrapInfo := ⟨kind, sub, 0, 0, none⟩

/-- A handle linked to a new operation no longer stands for an earlier one whose trap is to come (R355). -/
def unlinkTraps (h : Nat) (ts : List LogitTrap) : List LogitTrap :=
  ts.map fun t => if t.handle == some h then { t with handle := none } else t
def UnitSt.mapTraps (u : UnitSt) (f : List LogitTrap → List LogitTrap) : UnitSt :=
  match u with
  | .crew c => .crew { c with logitTraps := f c.logitTraps }
  | .cox c => .cox { c with logitTraps := f c.logitTraps }

/-- The traps for non-finite logits that a unit has still to take (R355). -/
def UnitSt.traps : UnitSt → List LogitTrap
  | .crew c => c.logitTraps
  | .cox c => c.logitTraps

/-- What a non-finite logit's trap reports (R355, R385, R387). -/
def LogitTrap.info (t : LogitTrap) : TrapInfo :=
  { kind := 1, sub := 8, code := BitVec.ofNat 32 t.token, addr := BitVec.ofNat 64 t.row, lanes := none }

/-- The trap of the operation issued first. -/
def firstTrap (ts : List LogitTrap) : Option LogitTrap :=
  ts.foldl (fun a t => match a with
    | some x => if t.id < x.id then some t else some x
    | none => some t) none

/-- A limb instruction lands (R301, R307): its registers, and LIMBSTAT of its acting segments. -/
def State.landLimb (s : State) (o : LimbOp) : State :=
  let s := { s with flight := { s.flight with limbs := s.flight.limbs.filter fun x => x.id != o.id } }
  s.modUnit o.unit fun u =>
    match u.fills o.writes with
    | .crew c => .crew (o.outs.foldl (fun c x =>
        if x.1 < 24 then { c with limbCarry := setBit c.limbCarry x.1 x.2 }
        else if x.2 then { c with limbChi := true } else c) c)
    | v => v

/-- A limb instruction may land: those of one latency land in the order of their issue, and one of the longer latency may be passed by
those issued after it (R301, log entry 104). -/
def State.limbReady (s : State) (o : LimbOp) : Bool :=
  s.flight.limbs.all fun x => x.unit != o.unit || decide (o.id ≤ x.id) || (x.slow && !o.slow)

/-- The limb instructions of a list, `n` long at least, land, in an order that R301 allows, of the free choice. -/
def State.landSome : Nat → UnitRef → State → State
  | 0, _, s => s
  | n + 1, r, s =>
    match s.flight.limbs.filter fun o => o.unit == r && s.limbReady o with
    | [] => s
    | [o] => State.landSome n r (s.landLimb o)
    | o :: os =>
      let (k, s) := s.fresh
      State.landSome n r (s.landLimb (((o :: os)[Config.pick k % (os.length + 1)]?).getD o))

/-- Every issued limb instruction of a unit lands. -/
def State.landLimbs (s : State) (r : UnitRef) : State := State.landSome s.flight.limbs.length r s

/-- The byte offset of an address from the code base of a unit's launch (R255). -/
def State.codeOff (s : State) (r : UnitRef) (pc : DWord) : Word := (pc - (s.lrec r.ident).codeBase).extractLsb' 0 32

/-- The address of a code offset. -/
def State.codeAddr (s : State) (r : UnitRef) (off : Word) : DWord := (s.lrec r.ident).codeBase + off.zeroExtend 64

/-! ### Stopping a partition (R421, R422) -/

/-- A partition is stopped for a reason (R421, R422), and the stop is recorded (R427). -/
def State.haltPart (s : State) (pid why num tag cplace : Nat) : State :=
  let d := s.part pid
  s.setPart pid { d with
    halted := true, why := BitVec.ofNat 4 why, num := BitVec.ofNat 4 num, tag := BitVec.ofNat 7 tag
    cplace := BitVec.ofNat 3 cplace }

/-- The partition of a unit is stopped at its slot `k` by an instruction at `pc` (R424, R425). -/
def State.stopUnit (s : State) (r : UnitRef) (k why num tag : Nat) (pc : DWord) (addr lane : Nat) : State :=
  let pid := s.pid r
  let e : EventInfo := { EventInfo.of 1 why pid (s.placeOf r) k (s.dieOf r) with
    num := num, ident := r.ident, pc := (s.codeOff r pc).toNat, addr := addr, lane := lane }
  (s.haltPart pid why num tag (s.placeOf r)).eventPost e

/-! ### Handlers -/

/-- The trap record written at a handler's entry (R387); INH is set by the entry. -/
def State.trapRecord (s : State) (u : UnitSt) (k : Nat) (t : TrapInfo) (trapPc resume : DWord) (inh : Bool) : TrapRec :=
  let single := (s.lrec u.ref.ident).single
  { kind := BitVec.ofNat 8 t.kind, sub := BitVec.ofNat 8 t.sub, other := BitVec.ofNat 4 (s.otherCode u k), skipBp := false
    inh := inh, slot := k == 1, resume := s.codeOff u.ref resume, trapPc := s.codeOff u.ref trapPc, code := t.code
    addr := t.addr, lane := BitVec.ofNat 7 ((t.lanes.map lowLane).getD 127)
    mask := (t.lanes.map (recMask single)).getD 0 }

/-- The offset of a unit's trap handler (R368). -/
def State.handlerOff (s : State) (r : UnitRef) : Word :=
  match r with
  | .crew .. => (s.lrec r.ident).trapOff
  | .cox .. => (s.lrec r.ident).coxTrapOff

/-- The handler is entered (R388): the record written, INH set, the other slot frozen, and the trapping slot continues at the
handler with its mask unchanged. -/
def State.enterHandler (s : State) (u : UnitSt) (k : Nat) (t : TrapInfo) (trapPc resume : DWord) : State :=
  let rec_ := s.trapRecord u k t trapPc resume true
  let sl := { u.slot k with
    pc := s.codeAddr u.ref (s.handlerOff u.ref), st := .ready, unfinished := none, acc := 0, counted := false, kept := none
    sweep := none, trapSweep := (u.slot k).sweep, walked := [], blocks := [], skipBp := false, skipWatch := [], replayed := false }
  let u := (u.setScal { u.scal with trap := rec_ }).setSlot k sl
  match u with
  | .crew c =>
    let o := c.slot (1 - k)
    let c := if o.st == .empty then c else c.setSlot (1 - k) { o with frozenTrap := true }
    s.setUnit (.crew { c with bpHandler := t.kind == 10 })
  | .cox c => s.setUnit (.cox { c with bpHandler := t.kind == 10 })

/-- A trap is taken (R388, R389): in a handler, or in a launch without one, it writes its record, the crew is dumped (R429)
and the launch ends; otherwise the handler is entered once the limb instructions have landed. -/
def State.takeTrap (s : State) (r : UnitRef) (k : Nat) (t : TrapInfo) (trapPc resume : DWord) : State :=
  let s := s.landLimbs r
  match s.unit? r with
  | none => s
  | some u =>
    if u.scal.trap.inh || s.handlerOff r == 0xFFFFFFFF#32 then
      let u := u.setScal { u.scal with trap := s.trapRecord u k t trapPc resume u.scal.trap.inh }
      let s := s.setUnit u
      let s := match u with
        | .crew c => s.dump c k (s.codeOff r trapPc)
        | .cox _ => s
      s.endLaunch r.ident
    else s.enterHandler u k t trapPc resume

/-- The slot that trapped (R387). -/
def TrapRec.slotNo (t : TrapRec) : Nat := if t.slot then 1 else 0

/-- A handler ends (R389): INH clears and the slot that did not trap takes back its saved state. -/
def UnitSt.endHandler (u : UnitSt) : UnitSt :=
  let k := u.scal.trap.slotNo
  let u := u.setScal { u.scal with trap := { u.scal.trap with inh := false } }
  match u with
  | .crew c => .crew { c.setSlot (1 - k) { c.slot (1 - k) with frozenTrap := false } with bpHandler := false }
  | .cox c => .cox { c with bpHandler := false }

/-- Return from a handler (R252, R389): the handler ends and the slot that trapped continues at RESUME, ignoring address breakpoints
once when SKIPBP is set; a sweep that the trap interrupted resumes at its saved step (R279). A slot that the handler has emptied stays
EMPTY, and another slot that executes TRET goes on after it (log entry 105). -/
def State.returnTrap (s : State) (r : UnitRef) : State :=
  s.modUnit r fun u =>
    let t := u.scal.trap
    let k := t.slotNo
    let u := u.endHandler
    let sw := if t.resume == t.trapPc then (u.slot k).trapSweep else none
    if (u.slot k).st == .empty then u
    else u.setSlot k { u.slot k with
      pc := s.codeAddr r t.resume, st := .ready, skipBp := t.skipBp, blocks := [], sweep := sw, trapSweep := none
      counted := sw.isSome, kept := sw.map Sweep.issued }

/-- One cycle added to TOTAL and a leaf (R428). -/
def PartDebug.charge (d : PartDebug) (leaf : Nat) : PartDebug :=
  { d with counters := d.counters.mapIdx fun i x => if i = 0 || i = leaf then x + 1 else x }

/-- The cycle that chose a unit issues nothing after all: it is charged to the leaf that describes the crews then (R428). -/
def State.idled (s : State) (r : UnitRef) (replayed : Bool) : State :=
  let d := s.part (s.pid r)
  if d.spare = 0 || d.halted then s
  else
    let was := if replayed then 2 else 1
    s.setPart (s.pid r) { d with
      spare := 0
      counters := d.counters.mapIdx fun i x => if i = was then x - 1 else if i = d.spare then x + 1 else x }

/-- A machine check for siblings that disagree again when the instruction has been executed once more, in a cycle charged to REPLAY
(R390, R428): its record is written, the crew is dumped (R429) and the launch ends. -/
def State.machineCheck (s : State) (r : UnitRef) (k : Nat) (pc : DWord) (lane : Nat) (sibs : Word × Word × Word) : State :=
  let s := if s.isHalted r then s else s.setPart (s.pid r) ((s.part (s.pid r)).charge 2)
  let s := s.ringPost .machineCheck (mcSibling r.ident (s.source r) pc.toNat sibs lane)
  let s := match s.unit? r with
    | some (.crew c) => s.dump c k (s.codeOff r pc)
    | _ => s
  s.endLaunch r.ident

/-- PADDR of an integrity record: a value the spec does not state where the line has no physical address (R414, log entry 14). -/
def State.paddrOf (s : State) (p : Option Nat) : Nat × State :=
  match p with
  | some pa => (pa, s)
  | none =>
    let (n, s) := s.fresh
    (Config.freeWord n % 2 ^ 46 * 64, s)

/-- The machine-check record of data that failed its check at a unit (R414). -/
def State.integrityRecord (s : State) (ident : Word) (source : Nat) (x : Option Nat × Nat) : State :=
  let (pa, s) := s.paddrOf x.1
  s.ringPost .machineCheck (mcIntegrity ident source (pa / 64 * 64) x.2)

/-- The machine check of a launch for data that failed its check value (R390, R414, R429). -/
def State.integrityCheck (s : State) (r : UnitRef) (x : Option Nat × Nat) : State :=
  let s := s.integrityRecord r.ident (s.source r) x
  let s := match s.unit? r with
    | some (.crew c) => s.dump c 0 (s.codeOff r c.slot0.pc)
    | _ => s
  s.endLaunch r.ident

/-! ### Issuing -/

/-- What an instruction's meaning works on: the issuer, its state and launch before the instruction, the instruction's
address, the issuing slot's mask and the acting lanes. -/
structure Ctx where
  i : Instr
  iss : Issuer
  u : UnitSt
  lr : LaunchRec
  pc : DWord
  bytes : Nat
  mask : Mask
  act : Mask
  deriving DecidableEq, Repr

/-- The issuing slot. -/
def Ctx.slot (c : Ctx) : Slot := c.u.slot c.iss.slot

/-- The sibling mode of the issuer's launch. -/
def Ctx.single (c : Ctx) : Bool := c.lr.single

/-- The address after the instruction. -/
def Ctx.nextPc (c : Ctx) : DWord := c.pc + BitVec.ofNat 64 c.bytes

/-- ARITHCTL and the instruction counts with which the instruction was issued: those kept since, for one that stayed in its slot (R155,
R187, R190). -/
def Ctx.issuedAs (c : Ctx) : Issued :=
  let acquire := match c.i.mem?.bind MemOp.ext with
    | some e => e.ord.getLsbD 0
    | none => false
  c.slot.kept.getD (match c.u with
    | .crew x => ⟨x.arithCtl, x.threads.map Thread.icount, acquire⟩
    | .cox _ => ⟨0, [], acquire⟩)

/-- What an instruction comes to. -/
inductive Eff where
  /-- It completes. -/
  | done (s : State)
  /-- It traps before it takes effect (resume "At", R385). -/
  | trap (t : TrapInfo)
  /-- It completes, then traps (resume "After"). -/
  | after (s : State) (t : TrapInfo)
  /-- It does not issue; the slot waits. -/
  | wait (w : Wait)
  /-- It has issued and stays at its address, parked or waiting for page walks, for the lanes given (R56). -/
  | stay (s : State) (st : SlotState) (unfinished : Option Mask)
  /-- Its siblings disagree (R390): the lane and the three results. -/
  | mismatch (lane : Nat) (sibs : Word × Word × Word)
  /-- A watchpoint stops its partition before it takes effect (R425): the watchpoint, the first matching byte, the lane. -/
  | watch (n addr lane : Nat)

/-- Each thread's count rises by one (R155), once for an instruction that parks or has resume points. -/
def UnitSt.count (u : UnitSt) (k : Nat) (single : Bool) : UnitSt :=
  let sl := u.slot k
  if sl.counted then u
  else match u with
    | .crew c =>
      if c.bpHandler then u
      else .crew { c with threads := c.threads.mapIdx fun t x =>
        if sl.mask.getLsbD (if single then t else 3 * t) then { x with icount := x.icount + 1 } else x }
    | .cox c => if c.bpHandler then u else .cox { c with icount := c.icount + 1 }

/-- The last 64 PCs with one more, once for an instruction that stays in its slot (R429). -/
def UnitSt.trace (u : UnitSt) (k : Nat) (off : Word) : UnitSt :=
  if (u.slot k).counted then u
  else match u with
  | .crew c => .crew { c with pcs := ((setBit off 0 (k == 1)) :: c.pcs).take 64 }
  | .cox c => .cox c

/-- The issuer after its instruction has issued and completed: counted, at the next address, READY, the turn passed to the
other slot (R155, R157). -/
def State.issued (s : State) (c : Ctx) : State :=
  let k := c.iss.slot
  let u := (c.u.count k c.single).trace k (s.codeOff c.iss.unit c.pc)
  let u := u.setSlot k { u.slot k with
    pc := c.nextPc, st := .ready, unfinished := none, acc := 0, counted := false, kept := none, walked := [], skipBp := false
    skipWatch := [], replayed := false }
  let u := match u with
    | .crew x => .crew { x with last1 := k == 1 }
    | v => v
  { s with issuer := none }.setUnit u

/-- The state after an instruction that came to `e`: `s` before it, the trap and park cases as R387 to R390 and R56 state. -/
def State.finish (s : State) (c : Ctx) (e : Eff) : State :=
  let r := c.iss.unit
  let k := c.iss.slot
  let s0 := { s with issuer := none }
  let idle := s0.idled r c.slot.replayed
  match e with
  | .done s' => s'
  | .trap t => idle.takeTrap r k t c.pc c.pc
  | .after s' t => s'.takeTrap r k t c.pc c.nextPc
  | .wait w => s0.modUnit r fun u => u.setSlot k { u.slot k with st := .blocked w }
  | .stay s' st unf => s'.modUnit r fun u => u.setSlot k { u.slot k with
      pc := c.pc, st := st, unfinished := unf, counted := true, kept := some c.issuedAs, skipBp := c.slot.skipBp
      skipWatch := if st == .ready then [] else c.slot.skipWatch
      acc := match st with
        | .parked _ acc _ => acc
        | .blocked (.walk acc _ _) => acc
        | _ => 0
      walked := match st with
        | .blocked _ => c.slot.walked
        | _ => [] }
  | .mismatch lane sibs => s0.machineCheck r k c.pc lane sibs
  | .watch n addr lane =>
    (idle.modUnit r fun u => u.setSlot k { u.slot k with st := .ready, skipWatch := n :: c.slot.skipWatch }).stopUnit r k 4 n 0 c.pc addr lane

end Sys2Proof.Machine
end

