-- ==== Sys2Proof/Machine/Operands.lean ====
section
/-! DEFINITION. Every operand form: source values with scalar sources and literals, source and destination registers of each format, sibling comparison, and how results are written, at once or by a producer. -/

namespace Sys2Proof.Machine

/-! ### Source values -/

/-- A binary32 encoding widened exactly to binary64 (R207); a NaN keeps its sign and payload. -/
def widen32 (w : Word) : DWord :=
  let v := w.toNat
  let s := v / 2 ^ 31
  let e := bits v 23 8
  let f := bits v 0 23
  BitVec.ofNat 64 (s * 2 ^ 63 +
    (if e = 255 then 2047 * 2 ^ 52 + f * 2 ^ 29
     else if e = 0 then
       (if f = 0 then 0
        else let k := Nat.log2 f
             (k + 874) * 2 ^ 52 + (f - 2 ^ k) * 2 ^ (52 - k))
     else (e + 896) * 2 ^ 52 + f * 2 ^ 29))

/-- The value of a literal as a value of the source type (R207). -/
def litVal (ty : Nat) (l : Word) : DWord :=
  if ty = tyI64 then l.signExtend 64
  else if ty = tyF64 then widen32 l
  else l.zeroExtend 64

/-- The value of a run of one or two registers in lane `l`: a pair's odd register is its high half (R7). -/
def UnitSt.runVal (u : UnitSt) (x : RegRun) (l : Nat) : DWord :=
  let one (n : Nat) : Word :=
    match x.cls, u with
    | .v, .crew c => c.vget n l
    | .p, .crew c => b2w ((c.pget n).getLsbD l)
    | .nf, .crew c => tget 0 c.nf n
    | .s, _ => u.scal.sget n
    | .q, _ => b2w (u.scal.qget n)
    | .h, _ => u.scal.hget n
    | _, .cox _ => 0
  if x.count = 2 then one (x.first + 1) ++ one x.first else (one x.first).zeroExtend 64

/-- The class and field of source `k` (0 SA, 1 SB, 2 SC) of an instruction of the 64-bit format. -/
def srcField (r : Row) (o : Op) (k : Nat) : Cls × BitVec 8 :=
  match k with
  | 0 => (r.sa, o.sa)
  | 1 => (r.sb, o.sb)
  | _ => (r.sc, o.sc)

/-- A source of one register whatever the instruction's type, read as natural: a shift amount, a position, a count (R258, R268, R286,
R287). -/
def naturalCls : Cls → Bool
  | .s | .vs | .sbs | .bcast | .waitB => true
  | _ => false

/-- The value of source `k` in lane `l`: the literal in its place, a scalar read once, or the register of the lane (R207,
R213, R257). -/
def Ctx.src (c : Ctx) (k l : Nat) : DWord :=
  match c.i.row, c.i.op? with
  | some r, some o =>
    if r.litAt o == some k then
      (if naturalCls (srcField r o k).1 then (o.lit.getD 0).zeroExtend 64 else litVal o.ty.toNat (o.lit.getD 0))
    else
      let (cls, f) := srcField r o k
      match cls.run o f.toNat (r.scalBit o k) c.u.isCox c.single with
      | some x => c.u.runVal x l
      | none => 0
  | _, _ => 0

/-- The low word of source `k` in lane `l`. -/
def Ctx.src32 (c : Ctx) (k l : Nat) : Word := (c.src k l).extractLsb' 0 32

/-- Source `k` read once, as a scalar. -/
def Ctx.s32 (c : Ctx) (k : Nat) : Word := c.src32 k 0

/-- A predicate source as a mask. -/
def Ctx.srcP (c : Ctx) (n : Nat) : Mask :=
  match c.u with
  | .crew x => x.pget n
  | .cox _ => 0

/-- The operand fields of an instruction of the 64-bit format; all zero for another format. -/
def opZero : Op := ⟨0, 0, 0, 0, 0, true, false, false, false, 0, 0, none⟩
def Ctx.op (c : Ctx) : Op := c.i.op?.getD opZero
def Ctx.ty (c : Ctx) : Nat := c.op.ty.toNat
def Ctx.fn (c : Ctx) : Nat := c.op.fn.toNat
def Ctx.d (c : Ctx) : Nat := c.op.d.toNat

/-- The issuing crew; a cox core holds none of what is read through this, and reads it as an empty crew. -/
def Crew.none : Crew :=
  ⟨0, 0, 0, 0, Option.none, 0, 0, Scal.zero, [], [], [], [], [], 0, Slot.none, Slot.none, true, Option.none, 0, 0, [], 0, 0, 0,
    false, 0, false, [], [], [], []⟩
def Ctx.crew (c : Ctx) : Crew :=
  match c.u with
  | .crew x => x
  | .cox _ => Crew.none

/-- The acting threads in ascending order (R256, R281). -/
def Ctx.threads (c : Ctx) : List Nat := threadsIn c.single c.act

/-- The instruction count of a thread at the instruction's issue (R155, R185, R187). -/
def Ctx.icount (c : Ctx) (t : Nat) : Nat := ((c.issuedAs.counts[t]?).map BitVec.toNat).getD 0

/-- ARITHCTL at the instruction's issue (R190). -/
def Ctx.ctl (c : Ctx) : Word := c.issuedAs.ctl

/-- THREADID of a thread (R151). -/
def Ctx.tid (c : Ctx) (t : Nat) : Word := ((c.crew.threads[t]?).map Thread.tid).getD 0

/-! ### Groups of threads (R281 to R287) -/

/-- The threads of a crew: 32, or 96 in single-lane mode. -/
def Ctx.crewThreads (c : Ctx) : Nat := if c.single then 96 else 32

/-- The size of a lane group (R283). -/
def Ctx.grp (c : Ctx) : Nat :=
  match bits c.fn 4 3 with
  | 0 => c.crewThreads
  | k => 2 ^ k

/-- The lane of a thread that stands beside lane `l`: the same sibling (R282). -/
def Ctx.peer (c : Ctx) (t l : Nat) : Nat := if c.single then t else 3 * t + l % 3

/-- A thread acts (R281). -/
def Ctx.acts (c : Ctx) (t : Nat) : Bool := t < c.crewThreads && c.act.getLsbD (if c.single then t else 3 * t)

/-- The acting threads of the group of a thread. -/
def Ctx.mates (c : Ctx) (t : Nat) : List Nat := c.threads.filter fun x => x / c.grp == t / c.grp

/-- The source thread of VSHFL for a thread whose operand is `k` (R286): none outside the group. -/
def Ctx.shflFrom (c : Ctx) (t k : Nat) : Option Nat :=
  let g := c.grp
  let q := t % g
  let b := t - q
  match c.fn % 8 with
  | 0 => if k < g then some (b + k) else none
  | 1 => if k ≤ q then some (b + (q - k)) else none
  | 2 => if q + k < g then some (b + (q + k)) else none
  | _ => if q ^^^ k < g then some (b + (q ^^^ k)) else none

/-- The source thread of VBCAST for a thread (R287): none where it keeps its own value. -/
def Ctx.bcastFrom (c : Ctx) (t : Nat) : Option Nat :=
  match c.fn % 8 with
  | 0 =>
    let k := (((c.mates t).head?).map fun m => (c.src32 1 (if c.single then m else 3 * m)).toNat).getD 0
    if k < c.grp && c.acts (t / c.grp * c.grp + k) then some (t / c.grp * c.grp + k) else none
  | 1 => (c.mates t).head?
  | _ => (c.mates t).getLast?

/-- The lowest acting thread of each group. -/
def Ctx.groupLows (c : Ctx) : List Nat := c.threads.filter fun t => (c.mates t).head? == some t

/-- The lanes in which source `k` of an instruction is read (R171, R285): of VSHFL and VBCAST the lanes of the source threads of those
whose position is known, and for the position of VBCAST the group's lowest acting thread. -/
def Ctx.readers (c : Ctx) (k : Nat) : Mask :=
  let known (l : Nat) : Bool := match c.i.row, c.i.op? with
    | some r, some o => (r.sources o c.u.isCox c.single).all fun x => x.2.1 != 1 ||
        !((c.u.emptyLanes x.1.cls x.1.first).getLsbD l)
    | _, _ => true
  let from_ (f : Nat → Option Nat) (at_ : Nat → Nat) : Mask := maskOf ((lanesOf c.act).filterMap fun l =>
    if known (at_ l) then some (match f l with
      | some t => if c.acts t then c.peer t l else l
      | none => l) else none)
  match c.i, k with
  | .vshfl _, 0 => from_ (fun l => c.shflFrom (threadOf c.single l) (c.src32 1 l).toNat) id
  | .vbcast _, 0 => from_ (fun l => c.bcastFrom (threadOf c.single l)) fun l =>
      (((c.mates (threadOf c.single l)).head?).map fun m => if c.single then m else 3 * m).getD l
  | .vbcast _, 1 => maskOf (c.groupLows.flatMap (laneSet c.single))
  | _, _ => c.act

/-! ### Source and destination registers -/

/-- The lanes in which a source run is waited for: the acting lanes of a vector or predicate register (R171), every lane of a
predicate read as a mask by PMASK and BRC (R233, R234), and the one bit of any other register. -/
def waitLanes (i : Instr) (x : RegRun) (act : Mask) : Mask :=
  match x.cls with
  | .v => act
  | .p => match i with
    | .pmask _ | .brc _ => BitVec.allOnes 96
    | _ => act
  | _ => BitVec.allOnes 96

/-- Sources that are not waited for: the handle of HTEST, HCANCEL and HPASS (R249, R250). TEA of HCANCEL and HPASS has no effect (log entry
129). -/
def noWaitSource (i : Instr) (k : Nat) : Bool :=
  match i with
  | .htest _ | .hcancel _ | .hpass _ => k == 0
  | _ => false

/-- The record registers of a parked-divergence instruction (R162). -/
def recordRun (n : BitVec 8) (single : Bool) : RegRun := ⟨.s, n.toNat, if single then 4 else 2, 1⟩

/-- The register runs of an instruction's sources in the order of R385's subcodes, each with its subcode and trap-on-empty bit;
a destination that is read comes last and always blocks (R258). -/
def instrSources (i : Instr) (cox single : Bool) : List (RegRun × Nat × Bool) :=
  let s (n : BitVec 8) (k : Nat) : RegRun × Nat × Bool := (⟨.s, n.toNat, 1, 1⟩, k, false)
  match i.row, i.op? with
  | some r, some o =>
    (r.sources o cox single).filter (fun x => !(noWaitSource i x.2.1)) ++
    (match i with
      | .vbfi _ | .vnfpack _ | .vgmm _ => [(⟨.v, o.d.toNat, 1, 1⟩, 2, false)]
      | _ => []) ++
    (if r.scalarBits && isNF o.ty.toNat && (match i with
        | .vnfadd _ | .vnfmul _ | .vnffma _ | .vnfpack _ | .vnfunpk _ => true
        | _ => false)
      then [(⟨.nf, o.ty.toNat - 12, 1, 1⟩, 0, false)] else [])
  | _, _ =>
    match i.memRow, i.mem? with
    | some m, some o =>
      let e := o.ext.getD ⟨0, 0, 0, 0, 0, false, false, 0⟩
      let w := if szfSize o.szf.toNat == 8 then 2 else 1
      let dc := if m.vdata then RegClass.v else .s
      let data := match m.kind with
        | .st | .atom | .oatom => [(⟨dc, o.data.toNat, w, w⟩, 3, o.ted)]
        | _ => []
      let xa := match m.kind with
        | .atomr | .cas => [(⟨dc, e.xa.toNat, w, w⟩, 5, e.texa)]
        | _ => []
      let xb := match m.kind with
        | .cas => [(⟨dc, e.xb.toNat, w, w⟩, 6, e.texb)]
        | _ => []
      data ++ [(⟨if m.vbase then .v else .s, 2 * o.base.toNat, 2, 2⟩, 4, o.tebase)] ++ xa ++ xb
    | _, _ =>
      match i with
      | .saddShort _ a _ | .ssubShort _ a _ | .sshlShort _ a _ | .sshrShort _ a _ | .smovShort _ a => [s a 0]
      | .vmovShort _ a => [(⟨.v, a.toNat, 1, 1⟩, 0, false)]
      | .dresume a | .dprune _ a => [(recordRun a single, 0, false)]
      | _ => []

/-- The destination runs of an instruction. -/
def instrDests (i : Instr) (cox single : Bool) : List RegRun :=
  match i.row, i.op? with
  | some r, some o =>
    (r.dest o cox single).toList ++
    (match i with
      | .ladd _ | .lsub _ | .lshl _ | .lshr _ => [⟨.p, bits o.fn.toNat 0 6, 1, 1⟩]
      | .lmuls _ => [⟨.v, o.fn.toNat, 1, 1⟩]
      | _ => [])
  | _, _ =>
    match i.memRow, i.mem? with
    | some m, some o =>
      let w := if szfSize o.szf.toNat == 8 then 2 else 1
      match m.kind with
      | .ld | .atomr | .cas => [⟨if m.vdata then .v else .s, o.data.toNat, w, w⟩]
      | _ => []
    | _, _ =>
      let s (n : BitVec 8) : RegRun := ⟨.s, n.toNat, 1, 1⟩
      match i with
      | .saddShort d _ _ | .ssubShort d _ _ | .sshlShort d _ _ | .sshrShort d _ _ | .smovShort d _ => [s d]
      | .vmovShort d _ => [⟨.v, d.toNat, 1, 1⟩]
      | .dpark d => [recordRun d single]
      | .dprune d _ => [⟨.q, d.toNat, 1, 1⟩]
      | _ => []

/-- The class of an instruction's guard, `none` for an instruction of the 32-bit format (R205, R215). -/
def instrGuard (i : Instr) : Option (GuardCls × BitVec 6 × Bool) :=
  match i.row, i.op? with
  | some r, some o => some (r.guard, o.g, o.gn)
  | _, _ =>
    match i.memRow, i.mem? with
    | some m, some o => some (if m.vdata || (m.kind == .prf && m.vbase) then .p else .q, o.g, o.gn)
    | _, _ => none

/-! ### Results -/

/-- The three lanes of each acting thread, in triple mode. -/
def Ctx.triples (c : Ctx) : List (Nat × Nat × Nat) :=
  if c.single then [] else c.threads.map fun t => (3 * t, 3 * t + 1, 3 * t + 2)

/-- The lowest acting thread whose siblings' results differ (R194), with the three results. -/
def Ctx.mismatch (c : Ctx) (f : Nat → DWord) : Option (Nat × (Word × Word × Word)) :=
  (c.triples.find? fun x => f x.1 != f x.2.1 || f x.1 != f x.2.2).map fun x =>
    (x.1, ((f x.1).extractLsb' 0 32, (f x.2.1).extractLsb' 0 32, (f x.2.2).extractLsb' 0 32))

/-- The register writes of a result `f` in the acting lanes, to register `d` or the pair from `d`. -/
def Ctx.writesV (c : Ctx) (d : Nat) (wide : Bool) (f : Nat → DWord) : List RegWrite :=
  (lanesOf c.act).flatMap fun l =>
    ⟨.v, d, l, (f l).extractLsb' 0 32⟩ :: (if wide then [⟨.v, d + 1, l, (f l).extractLsb' 32 32⟩] else [])

/-- The register writes of a predicate result in the acting lanes. -/
def Ctx.writesP (c : Ctx) (d : Nat) (f : Nat → Bool) : List RegWrite :=
  (lanesOf c.act).map fun l => ⟨.p, d, l, b2w (f l)⟩

/-- Registers of the issuer written at once. -/
def State.writeRegs (s : State) (c : Ctx) (ws : List RegWrite) : State := s.modUnit c.iss.unit fun u => u.fills ws

/-- Registers of the issuer left empty until a producer writes them (R170); `net` for the answer of TRIG.POST (R329). -/
def State.produce (s : State) (c : Ctx) (float : Bool) (ws : List RegWrite) (net : Bool := false) : State :=
  if ws.isEmpty then s
  else
    let (n, s) := s.newId
    let s := s.modUnit c.iss.unit fun u => u.empties ws
    { s with flight := { s.flight with producers := s.flight.producers ++ [⟨n, c.iss.unit, float, net, ws⟩] } }

/-- A result that integer instructions compare across siblings before they write it (R194, R390). -/
def Ctx.intResult (c : Ctx) (s : State) (wide : Bool) (f : Nat → DWord) : Eff :=
  match c.mismatch f with
  | some (l, x) => .mismatch l x
  | none => .done (s.writeRegs c (c.writesV c.d wide f))

/-- The same, written by a producer (R285; for the bit instructions log entry 127). -/
def Ctx.intProduce (c : Ctx) (s : State) (wide : Bool) (f : Nat → DWord) : Eff :=
  match c.mismatch f with
  | some (l, x) => .mismatch l x
  | none => .done (s.produce c false (c.writesV c.d wide f))

/-- A result that each sibling keeps. -/
def Ctx.laneResult (c : Ctx) (s : State) (wide : Bool) (f : Nat → DWord) : Eff :=
  .done (s.writeRegs c (c.writesV c.d wide f))

/-- A scalar result. -/
def Ctx.scalar (c : Ctx) (s : State) (v : Word) : Eff := .done (s.writeRegs c [⟨.s, c.d, 0, v⟩])

/-- A scalar pair result (R7). -/
def Ctx.scalar2 (c : Ctx) (s : State) (v : DWord) : Eff :=
  .done (s.writeRegs c [⟨.s, c.d, 0, v.extractLsb' 0 32⟩, ⟨.s, c.d + 1, 0, v.extractLsb' 32 32⟩])

/-- A uniform predicate result. -/
def Ctx.uniform (c : Ctx) (s : State) (b : Bool) : Eff := .done (s.writeRegs c [⟨.q, c.d, 0, b2w b⟩])

end Sys2Proof.Machine
end

