-- ==== Sys2Proof/Machine/Flags.lean ====
section
/-! DEFINITION. Rounding directions, the sticky flags of ARITHSTAT and the instability conditions (R185 to R199): what every float instruction does beside its result. -/

namespace Sys2Proof.Machine

/-- The direction of a rounding in lane `l` with operation index `n` (R185, R188, R189): bit `s` of the thread's draw for
sibling `s`, or as RMODE chooses in single-lane mode. -/
def Ctx.dir (c : Ctx) (l n : Nat) : Dir :=
  let t := threadOf c.single l
  let w := threadDraw c.lr.seed (c.tid t) (c.icount t) n
  if c.single then
    match bits c.ctl.toNat 0 3 with
    | 0 => .near
    | 1 => .down
    | 2 => .up
    | 3 => .zero
    | _ => drawDir w 0
  else drawDir w (l % 3)

/-- DIGMIN of ARITHCTL (R190). -/
def Ctx.digMin (c : Ctx) : Nat := bits c.ctl.toNat 16 6

/-- The threads in which the conditions of R196 to R198 hold. -/
structure Instab where
  canc : List Nat
  cmpd : List Nat
  divd : List Nat
  deriving DecidableEq, Repr

/-- No condition held. -/
def Instab.none : Instab := ⟨[], [], []⟩

/-- The bits of ARITHSTAT that conditions and flags set (R191). -/
def Instab.stat (x : Instab) (fl : Nat) : Word :=
  BitVec.ofNat 32 (fl % 32 + (if x.canc.isEmpty then 0 else 32) + (if x.cmpd.isEmpty then 0 else 64) +
    (if x.divd.isEmpty then 0 else 128))

/-- The conditions that ARITHCTL enables (R190, R199). -/
def Instab.enabled (x : Instab) (ctl : Word) : Instab :=
  ⟨if ctl.getLsbD 8 then x.canc else [], if ctl.getLsbD 9 then x.cmpd else [], if ctl.getLsbD 10 then x.divd else []⟩

/-- The subcode of the instability trap (R385). -/
def Instab.sub (x : Instab) : Nat := b2n (!x.canc.isEmpty) + 2 * b2n (!x.cmpd.isEmpty) + 4 * b2n (!x.divd.isEmpty)

/-- The lanes of a set of threads. -/
def threadLanes (single : Bool) (ts : List Nat) : Mask := maskOf (ts.flatMap (laneSet single))

/-- Sticky bits ORed into ARITHSTAT of the issuing crew (R191). -/
def State.orStat (s : State) (c : Ctx) (w : Word) : State :=
  s.modCrew c.iss.unit fun x => { x with arithStat := x.arithStat ||| w }

/-- A float instruction completes: its results written, or left to a producer (`late`), its flags and conditions recorded, and
the instability trap taken when an enabled condition held, with every destination written (R191, R199). -/
def Ctx.floatEnd (c : Ctx) (s : State) (late : Bool) (ws : List RegWrite) (fl : Nat) (x : Instab) : Eff :=
  let s := s.orStat c (x.stat fl)
  let e := x.enabled c.ctl
  if e.sub = 0 then .done (if late then s.produce c true ws else s.writeRegs c ws)
  else .after (s.writeRegs c ws)
    { kind := 1, sub := e.sub, code := 0, addr := 0, lanes := some (threadLanes c.single (e.canc ++ e.cmpd ++ e.divd)) }

/-- The siblings of a thread of a value by lane. -/
def sibs (f : Nat → Nat) (t : Nat) : Nat × Nat × Nat := (f (3 * t), f (3 * t + 1), f (3 * t + 2))

/-- The digit count of a thread's value by lane; `p` in single-lane mode (R195). -/
def Ctx.digits (c : Ctx) (f : Fmt) (v : Nat → Nat) (t : Nat) : Nat :=
  if c.single then f.p else f.digits (v (3 * t)) (v (3 * t + 1)) (v (3 * t + 2))

/-- The threads in which a sum has cancelled (R196): few digits in the result, enough in every operand. -/
def Ctx.cancelled (c : Ctx) (f : Fmt) (ops : List (Nat → Nat)) (res : Nat → Nat) : List Nat :=
  if c.single then []
  else c.threads.filter fun t =>
    decide (c.digits f res t < c.digMin) && ops.all fun v => decide (c.digMin ≤ c.digits f v t)

/-- The threads in which a divisor has no digits (R198). -/
def Ctx.noDigits (c : Ctx) (f : Fmt) (v : Nat → Nat) : List Nat :=
  if c.single then [] else c.threads.filter fun t => c.digits f v t == 0

/-- Flags of all acting lanes joined. -/
def Ctx.flags (c : Ctx) (f : Nat → Nat) : Nat := (lanesOf c.act).foldl (fun a l => a ||| f l) 0

end Sys2Proof.Machine
end

