-- ==== Sys2Proof/Machine/Issue.lean ====
section
/-! DEFINITION. Issuing an instruction: what it must wait for, the traps and faults that come before its effect, and how its meaning is run (R171, R194, R203, R204, R226, R256, R309). -/

namespace Sys2Proof.Machine

/-! ### Scratchpad objects that instructions name -/

/-- The workgroup and byte that `n` bytes at a scratchpad aperture offset name; none beyond the scratchpad or with a reserved
bit set, which is address fault kind 4 (R21, R22). -/
def spTarget (u : UnitRef) (lr : LaunchRec) (off n : Nat) : Option (Nat × Nat) :=
  match u with
  | .crew _ _ w _ => if off + n ≤ lr.spSize then some (w, off) else none
  | .cox .. =>
    let w := off / 2 ^ 24
    if w < lr.wgs && off % 2 ^ 24 + n ≤ lr.spSize then some (w, off % 2 ^ 24) else none

/-- A record of `n` bytes at a scratchpad offset that must be a multiple of `align`: where it lies, or the kind of the address
fault it takes (R247, R323, R325). -/
def Ctx.spRecord (c : Ctx) (off align n : Nat) : Except Nat (Nat × Nat) :=
  if off % align ≠ 0 then .error 3
  else match spTarget c.iss.unit c.lr off n with
    | some x => .ok x
    | none => .error 4

/-- `n` bytes of the scratchpad of a workgroup of the issuer's gang. -/
def State.spBytes (s : State) (r : UnitRef) (wg off n : Nat) : List Byte :=
  match s.wg? r.ident r.gang wg with
  | some w => getBytes w.sp off n
  | none => List.replicate n 0

/-- Bytes stored to the scratchpad of a workgroup of the issuer's gang. -/
def State.spWrite (s : State) (r : UnitRef) (wg off : Nat) (bs : List Byte) : State :=
  s.modWg r.ident r.gang wg fun w => w.putSp off bs

/-- An address in the global aperture (R14). -/
def isGlobal (a : Nat) : Bool := decide (a < 2 ^ 56)

/-- A scope code as a unit means it: a cox core's crew and workgroup scopes stand for the gang (R121). -/
def scopeOf (cox : Bool) (scope : Nat) : Nat := if cox then max scope 2 else scope

/-- SCOPE of a copy request record. -/
def recScope (rec_ : List Byte) : Nat := leNat ((rec_.drop 28).take 1) % 8

/-- The scope of the release that a copy's issue makes: its SCOPE, and at least gang when SRC or DST is global (R323). -/
def issueScope (cox : Bool) (rec_ : List Byte) : Nat :=
  let scope := scopeOf cox (recScope rec_)
  if isGlobal (leNat (rec_.take 8)) || isGlobal (leNat ((rec_.drop 8).take 8)) then max scope 2 else scope

/-- The scope of a copy's completion: its SCOPE, and at least gang when DST is global (R131). -/
def copyScope (cox : Bool) (rec_ : List Byte) : Nat :=
  let scope := scopeOf cox (recScope rec_)
  if isGlobal (leNat ((rec_.drop 8).take 8)) then max scope 2 else scope

/-! ### Waits beyond the registers -/

/-- The instruction makes an access, so that it follows an outstanding acquire (R122). -/
def makesAccess (i : Instr) : Bool :=
  i.memRow.isSome || match i with
    | .cpy _ | .cpywp _ | .binit _ | .bwait _ | .trigPost _ | .trigAdd _ | .trigRead _ | .draw _ | .mldb _ | .mlda _ | .mma _
    | .mzero _ | .mdrain _ | .vocabStream _ | .vocabRegen _ | .vmeld _ | .vheaprd _ | .vti _ | .gbar | .bar _ => true
    | _ => false

/-- The engine counter class an instruction raises (R248), if any. -/
def raisesClass (i : Instr) : Option Nat :=
  match i with
  | .cpy _ => some 0
  | .trigPost _ => some 1
  | .mldb _ | .mlda _ | .mma _ | .mzero _ | .mdrain _ => some 2
  | .vocabStream _ | .vocabRegen _ | .vmeld _ => some 3
  | _ => none

/-- The workgroup whose core a matrix-queue instruction acts on (R337): FN[1:0] on a cox core, the issuer's in a crew. -/
def Ctx.matWg (c : Ctx) : Nat := if c.u.isCox then c.fn % 4 else wgOf c.iss.unit

/-- The ordering code and scope of a memory instruction (R120). -/
def Ctx.ord (c : Ctx) : Nat × Nat :=
  match c.i.mem? with
  | some o => match o.ext with
    | some e => (e.ord.toNat, scopeOf c.u.isCox e.scope.toNat)
    | none => (0, 0)
  | none => (0, 0)

/-- Both slots live and no bracket open: a barrier or a rendezvous is refused (R166, R292). -/
def Ctx.divergent (c : Ctx) : Bool :=
  match c.u with
  | .crew x => x.slot0.st != .empty && x.slot1.st != .empty && x.bracket.isNone
  | .cox _ => false

/-- The instruction reads or writes the scratchpad as it issues, in the order of the passes issued before it (R88, R122), or names
atomics' results in its records. -/
def readsScratchpad (i : Instr) : Bool :=
  match i with
  | .cpy _ | .cpywp _ | .binit _ | .bwait _ | .trigPost _ | .draw _ | .vocabStream _ | .vocabRegen _ | .mlda _ | .mldb _ | .vmeld _
  | .vheaprd _ | .vti _ => true
  | _ => false

/-- What CPY and TRIG.POST wait for when they have issued and have not completed: room in a channel (R323), the release before their
effect (R329). -/
def Slot.pendingOn (x : Slot) : Option Wait :=
  match x.counted, x.st with
  | true, .blocked (.channel cl ch) => some (.channel cl ch)
  | true, .blocked (.posting wg off) => some (.posting wg off)
  | _, _ => Option.none

/-- They have issued and wait. -/
def Slot.pending (x : Slot) : Bool := x.pendingOn.isSome

/-- What an instruction that would issue still has to wait for, beside its registers: the release of a qualified access, an
engine's room, a barrier object, a handle of another crew, results still to come (each as its own rule states). -/
def Ctx.extraWait (c : Ctx) (s : State) : Option Wait :=
  let r := c.iss.unit
  let cl := s.clusterOf r
  let orWait (isOver : Bool) (w : Wait) : Option Wait := if isOver then none else some w
  let room (next : Option Wait) : Option Wait :=
    match raisesClass c.i with
    | some k => if c.u.scal.counter k < 65535 then next else some (.engine k 65534)
    | none => next
  if makesAccess c.i && !(s.acquired c.u c.slot) then some .acquire
  else if readsScratchpad c.i && !(s.waitOver c.u c.slot .atomics) then some .atomics
  else match c.i with
  | .ornd => orWait (s.roundQuiet c.u) .ornd
  | .gbar => if c.divergent then none else orWait (s.released c.u) .release
  | .bar _ | .regrp _ => if c.divergent then none else orWait (s.ownPassed r) .passes
  | .lfree => orWait (s.waitOver c.u c.slot .limbs) .limbs
  | .lbind _ => orWait (s.waitOver c.u c.slot .limbs) .limbs
  | .sysr _ =>
    if c.fn = 1 then orWait (s.waitOver c.u c.slot .floats) .floats
    else if c.fn = 0x12 then orWait (s.waitOver c.u c.slot .limbs) .limbs
    else none
  | .waitEng _ => orWait (decide (c.u.scal.counter c.fn ≤ (c.s32 0).toNat)) (.engine c.fn (c.s32 0).toNat)
  | .hpass _ =>
    let b := (c.s32 1).toNat
    orWait (s.waitOver c.u c.slot (.target (bits b 0 5) (bits b 8 4))) (.target (bits b 0 5) (bits b 8 4))
  | .draw _ =>
    if (bits (c.s32 1).toNat 20 12) ≠ 0 then none
    else match c.spRecord (c.s32 0).toNat 32 32 with
      | .error _ => none
      | .ok _ => orWait (s.waitOver c.u c.slot .draws) .draws
  | .cpy o =>
    match c.spRecord (c.s32 0).toNat 64 64 with
    | .error _ => none
    | .ok (wg, off) =>
      let rec_ := s.spBytes r wg off 64
      if c.fn % 2 = 1 && !(c.u.isFull .h o.d.toNat (BitVec.allOnes 96)) then some (.regs [(.h, o.d.toNat, BitVec.allOnes 96)])
      else if recScope rec_ ≤ 5 && 2 ≤ issueScope c.u.isCox rec_ && !(s.released c.u) then some .release
      else room none
  | .cpywp _ =>
    match c.spRecord (c.s32 0).toNat 64 64 with
    | .error _ => none
    | .ok (wg, off) =>
      if c.fn % 2 = 1 then orWait (s.waitOver c.u c.slot (.copyWp wg off (c.s32 1).toNat)) (.copyWp wg off (c.s32 1).toNat)
      else none
  | .bwait _ =>
    match c.spRecord (c.s32 0).toNat 16 16 with
    | .error _ => none
    | .ok (wg, off) => orWait (s.waitOver c.u c.slot (.byteBarrier wg off)) (.byteBarrier wg off)
  | .trigPost _ =>
    match c.spRecord (c.s32 0).toNat 64 64 with
    | .error _ => none
    | .ok _ => room none
  | .trigAdd _ => if 8 ≤ c.fn && 2 ≤ scopeOf c.u.isCox (c.fn % 8) && !(s.released c.u) then some .release else none
  | .vocabStream _ | .vocabRegen _ =>
    let co := s.coreOf r.ident r.gang c.matWg
    room (orWait (decide ((s.matrix cl co).load < 8)) (.matrixQueue cl co))
  | .mldb _ | .mlda _ | .mma _ | .mzero _ | .mdrain _ | .vmeld _ =>
    let co := s.coreOf r.ident r.gang c.matWg
    room (orWait (decide ((s.matrix cl co).load < 8)) (.matrixQueue cl co))
  | _ =>
    if c.ord.1 < 2 then none
    else if 2 ≤ c.ord.2 then orWait (s.released c.u) .release
    else orWait (s.ownPassed r) .passes

/-! ### The gate -/

/-- What becomes of an instruction that its slot would issue. -/
inductive Gate where
  /-- No unit has been chosen to issue. -/
  | noIssuer
  /-- The illegal-encoding trap with a cause (R204). -/
  | illegal (c : Ctx) (cause : Nat)
  /-- The slot waits. -/
  | wait (c : Ctx) (w : Wait)
  /-- A source is empty and its trap-on-empty bit is set (R171). -/
  | trap (c : Ctx) (t : TrapInfo)
  /-- The siblings' guard bits disagree (R256). -/
  | mismatch (c : Ctx) (lane : Nat) (sibs : Word × Word × Word)
  /-- The guard of a uniform instruction selects no action (R226). -/
  | skip (c : Ctx)
  /-- A line that it reads of the register file fails its check (R414). -/
  | check (c : Ctx)
  /-- It issues. -/
  | go (c : Ctx)
  deriving DecidableEq, Repr

/-- The code of a register class in a trap record (R214, R385). -/
def classNum : RegClass → Nat
  | .v => 0
  | .s => 1
  | .p => 2
  | .q => 3
  | .h => 4
  | .nf => 5

/-- A lane-wise class. -/
def classPerLane : RegClass → Bool
  | .v | .p => true
  | _ => false

/-- The registers of a run with the lanes that are waited for. -/
def runWaits (i : Instr) (act : Mask) (x : RegRun) : List (RegClass × Nat × Mask) :=
  (List.range x.count).map fun k => (x.cls, x.first + k, waitLanes i x act)

/-- Every register of a wait is full. -/
def UnitSt.allFull (u : UnitSt) (ws : List (RegClass × Nat × Mask)) : Bool := ws.all fun w => u.isFull w.1 w.2.1 w.2.2

/-- The lanes for which a source is empty. -/
def UnitSt.anyEmpty (u : UnitSt) (ws : List (RegClass × Nat × Mask)) : Mask :=
  ws.foldl (fun m w => m ||| (u.emptyLanes w.1 w.2.1 &&& w.2.2)) 0

/-- The guard selects action in the lanes of a mask: lanes of a P guard, all or none for a Q guard (R215). -/
def guardLanes (u : UnitSt) (g : Option (GuardCls × BitVec 6 × Bool)) (m : Mask) : Mask :=
  match g with
  | none => m
  | some (cls, n, neg) =>
    if unguarded n neg then m
    else if cls.isQ u.isCox then (if u.scal.qget n.toNat != neg then m else 0)
    else match cls, u with
      | .must, _ => m
      | _, .crew c => (if neg then ~~~(c.pget n.toNat) else c.pget n.toNat) &&& m
      | _, .cox _ => m

/-- The register that a guard reads in the lanes of a mask; none when unguarded. -/
def guardWait (u : UnitSt) (g : Option (GuardCls × BitVec 6 × Bool)) (m : Mask) : List (RegClass × Nat × Mask) :=
  match g with
  | none => []
  | some (cls, n, neg) =>
    if unguarded n neg then []
    else if cls.isQ u.isCox then [(.q, n.toNat, BitVec.allOnes 96)]
    else match cls with
      | .must => []
      | _ => [(.p, n.toNat, m)]

/-- A uniform instruction: its Q guard turns the whole of it off (R226). -/
def uniformGuard (u : UnitSt) (g : Option (GuardCls × BitVec 6 × Bool)) : Bool :=
  match g with
  | some (cls, n, neg) => cls.isQ u.isCox && !(unguarded n neg)
  | none => false

/-- The context of the instruction that a slot would issue. -/
def State.ctxOf (s : State) (i : Instr) (iss : Issuer) (u : UnitSt) : Ctx :=
  let sl := u.slot iss.slot
  { i := i, iss := iss, u := u, lr := s.lrec u.ref.ident, pc := sl.pc, bytes := i.bytes, mask := sl.mask
    act := (sl.unfinished).getD (guardLanes u (instrGuard i) sl.mask) }

/-- The lowest acting thread in triple mode whose siblings' guard bits differ. -/
def Ctx.guardSplit (c : Ctx) : Option Nat :=
  if c.single || c.u.isCox || c.slot.unfinished.isSome then none
  else ((List.range 32).filter fun t => c.mask.getLsbD (3 * t)).find? fun t =>
    c.act.getLsbD (3 * t) != c.act.getLsbD (3 * t + 1) || c.act.getLsbD (3 * t) != c.act.getLsbD (3 * t + 2)

/-- The registers that a source is waited for: an instruction that resumes does not wait for its own destination, which is empty
until it completes (R57). -/
def Ctx.sourceWaits (c : Ctx) (x : RegRun) (k : Nat) : List (RegClass × Nat × Mask) :=
  let own := if c.slot.counted then instrDests c.i c.u.isCox c.single else []
  (runWaits c.i (c.readers k) x).filter fun w => !(own.any fun d => d.cls == w.1 && d.first ≤ w.2.1 && w.2.1 < d.first + d.count)

/-- The first source in the order of R385's subcodes that is empty: its registers and what becomes of the instruction; one that
resumes always waits, and one whose guard selects no lane waits for nothing (R171, R215). -/
def Ctx.emptySource (c : Ctx) : Option Gate :=
  let srcs := if c.act == 0 then [] else instrSources c.i c.u.isCox c.single
  match srcs.find? fun x => !(c.u.allFull (c.sourceWaits x.1 x.2.1)) with
  | none => none
  | some (x, sub, te) =>
    let ws := c.sourceWaits x sub
    if te && !c.slot.counted then
      let code := BitVec.ofNat 32 (x.first + 256 * classNum x.cls)
      let lanes := if classPerLane x.cls then some (c.u.anyEmpty ws) else none
      some (.trap c { kind := 2, sub := sub, code := code, addr := 0, lanes := lanes })
    else some (.wait c (.regs ws))

/-- Destinations that must be full before the instruction writes (R171); an instruction that resumes has emptied its own, and CPY
waits for its handle after its checks (R323). -/
def Ctx.destWaits (c : Ctx) : List (RegClass × Nat × Mask) :=
  if c.slot.counted then []
  else match c.i with
  | .cpy _ => []
  | .sysr _ => (instrDests c.i c.u.isCox c.single).flatMap fun x =>
      (List.range x.count).map fun k => (x.cls, x.first + k, BitVec.allOnes 96)
  | .pset _ =>
    let part : Mask := if c.fn % 4 = 3 then BitVec.allOnes 96 else BitVec.ofNat 96 (0xFFFFFFFF * 2 ^ (32 * (c.fn % 4)))
    [(.p, c.d, part &&& c.mask)]
  | _ => (instrDests c.i c.u.isCox c.single).flatMap (runWaits c.i c.act)

/-- The instruction reads a line of the crew's area of the register file that fails its check (R84, R97, R414): of the state block, which
every instruction reads, or of a vector register that is a source (log entry 118). -/
def Ctx.readsBad (c : Ctx) : Bool :=
  match c.u with
  | .cox _ => false
  | .crew x =>
    !x.regBad.isEmpty && (x.blockBad || (instrSources c.i c.u.isCox c.single).any fun r =>
      r.1.cls == .v && (runWaits c.i (c.readers r.2.1) r.1).any fun w => (lanesOf w.2.2).any fun l => x.lineBad w.2.1 l)

/-- The gate: illegal encodings first, then the guard, the sources, the destinations, and what else it waits for. An instruction that has
issued and waits is not judged again (R323, R329). A guard that turns the instruction off comes before a trap that its operands would
raise (log entry 117). -/
def State.gate (s : State) (i : Instr) : Gate :=
  match s.issuer with
  | none => .noIssuer
  | some iss =>
    match s.unit? iss.unit with
    | none => .noIssuer
    | some u =>
      let c := s.ctxOf i iss u
      match c.slot.pendingOn with
      | some w => if s.waitOver u c.slot w then .go c else .wait c w
      | none =>
      match i.cause (some (s.encCtx u)) with
      | some k => .illegal c k
      | none =>
        let gw := if c.slot.unfinished.isSome then [] else guardWait u (instrGuard i) c.mask
        if !(u.allFull gw) then .wait c (.regs gw)
        else match c.guardSplit with
        | some t => .mismatch c (3 * t) (b2w (c.act.getLsbD (3 * t)), b2w (c.act.getLsbD (3 * t + 1)), b2w (c.act.getLsbD (3 * t + 2)))
        | none =>
          if c.slot.unfinished.isNone && uniformGuard u (instrGuard i) && c.act == 0 then .skip c
          else match c.emptySource with
          | some g => g
          | none =>
            if !(u.allFull c.destWaits) then .wait c (.regs c.destWaits)
            else match c.extraWait s with
            | some w => .wait c w
            | none => if c.readsBad then .check c else .go c

/-- The first word of an instruction, as CODE of the illegal-encoding trap gives it (R385). -/
def firstWord (i : Instr) : Word := ((encode i).head?).getD 0

/-- The illegal-encoding trap with a cause (R204, R385). -/
def illegalTrap (cause : Nat) (w : Word) : TrapInfo := { kind := 6, sub := cause, code := w, addr := 0, lanes := none }

/-- An instruction is issued with the meaning `body`, which sees the state in which it has issued (R155, R157). -/
def State.issue (s : State) (i : Instr) (body : Ctx → State → Eff) : Out :=
  match s.gate i with
  | .noIssuer => .refused .noIssuer
  | .illegal c k => .next (s.finish c (.trap (illegalTrap k (firstWord i))))
  | .wait c w => .next (s.finish c (.wait w))
  | .trap c t => .next (s.finish c (.trap t))
  | .mismatch c l x => .next (s.finish c (.mismatch l x))
  | .skip c => .next (s.finish c (.done (s.issued c)))
  | .check c => .next ((s.issued c).integrityCheck c.iss.unit (none, 2))
  | .go c => .next (s.finish c (body c (s.issued c)))

end Sys2Proof.Machine
end

