-- ==== Sys2Proof/Machine/Start.lean ====
section
/-! DEFINITION. How a crew, a cox core and a workgroup stand when their gang is placed (R25, R82, R151, R156, R169, R335). -/

namespace Sys2Proof.Machine

/-- A slot that is READY at an address with a mask. -/
def Slot.start (pc : DWord) (m : Mask) : Slot := { Slot.none with pc := pc, mask := m, st := .ready }

/-- THREADID of a thread (R151). -/
def threadId (lr : LaunchRec) (gang wg crew t : Nat) : Word :=
  BitVec.ofNat 32 (((gang * lr.wgs + wg) * lr.nCrews + crew) * lr.perCrew + t)

/-- A crew at its start: every register full and zero, slot 0 READY at the kernel's first instruction with every lane, slot 1
EMPTY (R155, R156, R169). -/
def Crew.start (lr : LaunchRec) (gang wg crew : Nat) (place : Place) (age : Nat) : Crew :=
  { Crew.none with
    ident := lr.ident, gang := gang, wg := wg, crew := crew, place := some place, age := age
    slot0 := Slot.start lr.codeBase (fullMask 96), lanes := 96
    threads := (List.range lr.perCrew).map fun t => ⟨threadId lr gang wg crew t, 0, crew, t⟩
    arithCtl := lr.arithCtl }

/-- A cox core at the start of its section (R224, R335). -/
def Cox.start (lr : LaunchRec) (gang : Nat) : Cox :=
  ⟨lr.ident, gang, Scal.zero, Slot.start (lr.codeBase + lr.coxOff.zeroExtend 64) 1, 0, !lr.hasCox, false, []⟩

/-- A workgroup in a new pool image: scratchpad, accumulator storage and barriers are zero (R82, R166). -/
def Workgroup.start (lr : LaunchRec) (gang wg core granule frame : Nat) : Workgroup :=
  ⟨lr.ident, gang, wg, core, granule, frame, [], [], [], [], false, List.replicate 16 ⟨0, []⟩, ⟨0, []⟩, 0⟩

/-- A launch as it enters the window. -/
def Launch.start (lr : LaunchRec) (queueAsid : Nat) (accept : Word) (reject : Nat) : Launch :=
  { lr := lr, queueAsid := queueAsid, accept := accept, phase := .running, reject := reject, cancelled := false, nextGang := 0
    ahead := [], returned := [], aff := [], framesUsed := [], top := 0, closed := 0, applied := [], roundWritten := 0, roundParked := none
    ovfUsed := [], ovfDisc := 0, peers := [], told := none }

end Sys2Proof.Machine
end

