-- ==== Sys2Proof/Machine/Fetch.lean ====
section
/-! DEFINITION. Fetching the instruction that the chosen slot issues from the block it holds (R69, R70, R202, R203), address breakpoints before it (R424). -/

namespace Sys2Proof.Machine

/-- The block of a slot that holds an address. -/
def Slot.block? (x : Slot) (pc : DWord) : Option FetchBlock := x.blocks.find? fun b => b.base == pc &&& ~~~(31#64)

/-- The words of a block from an address to its end. -/
def FetchBlock.words (b : FetchBlock) (pc : DWord) : List Word := wordsOfBytes (b.bytes.drop (pc - b.base).toNat)

/-- The cause of R204 that whole words show, 7 for none. -/
def wordsCause (cx : Option EncCtx) (ws : List Word) : Nat :=
  match decodeFields ws with
  | .ok i => (i.cause cx).getD 7
  | .error r => r.cause

/-- The words of an instruction that crosses its fetch block, with every value of the second word's function and type where that lies in
the next block, its other operand fields unused, and a literal or extension of zero. -/
def crossFills (w : Word) : List Word → List (List Word)
  | w1 :: _ => [[w, w1, 0]]
  | [] => (List.range 4096).map fun k => [w, BitVec.ofNat 32 (k * 2 ^ 20 + 2 ^ 16), 0]

/-- The cause of an instruction that crosses its fetch block (R203, R204): the lowest that the words in the block show whatever the
others hold, else 7 (log entry 27). -/
def crossCause (cx : Option EncCtx) (w : Word) (rest : List Word) : Nat :=
  (crossFills w rest).foldl (fun m ws => max m (wordsCause cx ws)) 0

/-- The cause of the illegal-encoding trap when the words are no instruction (R203, R204). -/
def rejectCause (cx : Option EncCtx) (ws : List Word) (r : Reject) : Nat :=
  match r, ws with
  | .truncated, w :: rest => crossCause cx w rest
  | r, _ => r.cause

/-- What the chosen slot finds at its address. -/
inductive Fetched where
  | noIssuer
  /-- The slot does not hold the block. -/
  | noBlock
  /-- An address breakpoint (R424). -/
  | brk (n : Nat)
  /-- Words that are no instruction (R204). -/
  | bad (cause : Nat) (word : Word)
  /-- An instruction, its fields as they stand. -/
  | ok (i : Instr)
  deriving DecidableEq, Repr

/-- The enabled address breakpoint of a unit's partition that names an address (R421, R424). -/
def State.breakAt (s : State) (r : UnitRef) (pc : DWord) : Option Nat :=
  (s.part (s.pid r)).abp.findIdx? fun w =>
    w.getLsbD 63 && bits w.toNat 56 6 == (s.lrec r.ident).asid && bits w.toNat 2 54 == bits pc.toNat 2 54

/-- The instruction would issue: it has not issued yet and waits for nothing. -/
def State.wouldIssue (s : State) (sl : Slot) (i : Instr) : Bool :=
  !sl.counted && match s.gate i with
    | .wait .. => false
    | _ => true

/-- The instruction at the chosen slot's address; an address breakpoint comes before one that is about to issue (R424). -/
def State.fetched (s : State) : Fetched :=
  match s.issuer with
  | none => .noIssuer
  | some iss =>
    match s.unit? iss.unit with
    | none => .noIssuer
    | some u =>
      let sl := u.slot iss.slot
      let brk (go : Bool) (x : Fetched) : Fetched :=
        match (if sl.skipBp || !go then none else s.breakAt iss.unit sl.pc) with
        | some n => .brk n
        | none => x
      match sl.block? sl.pc with
      | none => .noBlock
      | some b =>
        match decodeFields (b.words sl.pc) with
        | .ok i => brk (s.wouldIssue sl i) (.ok i)
        | .error r => brk true (.bad (rejectCause (some (s.encCtx u)) (b.words sl.pc) r) (((b.words sl.pc).head?).getD 0))

/-- The chosen slot takes a trap at its address before any instruction issues. -/
def State.fetchTrap (s : State) (t : TrapInfo) : State :=
  match s.issuer with
  | none => s
  | some iss =>
    match s.unit? iss.unit with
    | none => s
    | some u => s.finish (s.ctxOf .nop iss u) (.trap t)

/-- An address breakpoint traps, or stops the partition when a debugger has claimed it; the instruction then ignores address
breakpoints once (R424). -/
def State.takeBreak (s : State) (n : Nat) : State :=
  match s.issuer with
  | none => s
  | some iss =>
    match s.unit? iss.unit with
    | none => s
    | some u =>
      if (s.part (s.pid iss.unit)).claim then
        let s := ({ s with issuer := none }.idled iss.unit (u.slot iss.slot).replayed).modUnit iss.unit fun u =>
          u.setSlot iss.slot { u.slot iss.slot with skipBp := true }
        s.stopUnit iss.unit iss.slot 3 n 0 (u.slot iss.slot).pc 0 127
      else s.fetchTrap { kind := 10, sub := 1, code := BitVec.ofNat 32 n, addr := 0, lanes := none }

end Sys2Proof.Machine
end

