-- ==== Sys2Proof/Machine/Park.lean ====
section
/-! DEFINITION. Parking an instruction on a fault: the fault record of the issuing unit and the parked slot (R20, R56, R59, R60), and the acquire that invalidates an L1 (R122). -/

namespace Sys2Proof.Machine

/-- The fault record of the issuing unit (R60): kind, cause, ACCESS, address, lanes. -/
def State.unitFault (s : State) (c : Ctx) (kind cause access addr : Nat) (lanes : Mask) (more priv nonReplay : Bool) : FaultInfo :=
  { kind := kind, cause := cause, access := access, more := more, priv := priv, nonReplay := nonReplay, asid := c.lr.asid
    addr := addr, lanes := lanes, source := s.source c.iss.unit, pc := c.pc.toNat, ident := c.iss.unit.ident
    gang := c.iss.unit.gang, die := s.dieOf c.iss.unit }

/-- A fault record of the issuing unit is posted, and the crew keeps it for a dump (R429). -/
def State.postUnitFault (s : State) (c : Ctx) (f : FaultInfo) : State :=
  (s.faultPost f).modCrew c.iss.unit fun x => { x with faultRec := s.faultBytes f }

/-- An address fault: one record marked as not replayable, and the slot parked at the instruction (R19, R20, R59). `acc` is what
the slot keeps: the ACCESS code of a memory instruction, 9 for an engine instruction's checks. -/
def Ctx.addrFault (c : Ctx) (s : State) (kind access acc : Nat) (addr : Nat) (lanes : Mask) : Eff :=
  .stay (s.postUnitFault c (s.unitFault c 2 kind access addr lanes false false true)) (.parked true acc []) (some c.act)

/-- The lanes of a fault record of an instruction that acts once: none in the record's mask (log entry 19). -/
def noLanes : Mask := 0

/-- A scratchpad record that an engine instruction names fails its check (R323, R325): the address is the scratchpad address. -/
def Ctx.recFault (c : Ctx) (s : State) (kind access off : Nat) : Eff :=
  c.addrFault s kind access 9 (0xFFFF000000000000 + off) noLanes

/-- What an acquire at gang scope or wider does after its own access: every global line of the core's L1 is invalidated
(R91, R122). -/
def State.acquireL1 (s : State) (r : UnitRef) : State := s.l1Invalidate (s.cacheOf r)

/-- The acquire of a class of engine operations, or of a handle's operation, at the widest scope of those it orders (R131). -/
def State.acquireIf (s : State) (r : UnitRef) (wide : Bool) : State := if wide then s.acquireL1 r else s

end Sys2Proof.Machine
end

