-- ==== Sys2Proof/Machine/Phys.lean ====
section
/-! DEFINITION. Physical memory as the units share it: what stands behind an address, its home slice, access counters, watchpoints, check values, streams of packets, and raises of trigger counters. -/

namespace Sys2Proof.Machine

open Sys2Proof

/-! ### Bytes at locations -/

/-- The byte at a location: a trigger counter's COUNT is taken byte by byte through `k`. -/
def State.rdLoc (s : State) (l : Loc) (k : Nat) : Byte :=
  match l with
  | .mem pa => tget 0 s.mem pa
  | .sp i g w off => match s.wg? i g w with
    | some x => tget 0 x.sp off
    | none => 0
  | .acc i g w off => match s.wg? i g w with
    | some x => tget 0 x.acc off
    | none => 0
  | .ctr idx => if k < 4 then (tget 0 s.ctrs idx).extractLsb' (8 * k) 8 else 0

/-- The bytes at a list of locations. -/
def State.rdLocs (s : State) (ls : List Loc) : List Byte := ls.zipIdx.map fun x => s.rdLoc x.1 x.2

/-- A byte stored at a location of memory, scratchpad or accumulator storage. -/
def State.wrLoc (s : State) (l : Loc) (b : Byte) : State :=
  match l with
  | .mem pa => s.l2Write pa [b]
  | .sp i g w off => s.modWg i g w fun x => x.putSp off [b]
  | .acc i g w off => s.modWg i g w fun x => x.putAcc off [b]
  | .ctr _ => s

/-- Bytes stored at a list of locations, in order. -/
def State.wrLocs (s : State) (ls : List Loc) (bs : List Byte) : State :=
  (ls.zip bs).foldl (fun s x => s.wrLoc x.1 x.2) s

/-- The line of a location of memory. -/
def Loc.line : Loc → Option Nat
  | .mem pa => some (pa / 64)
  | _ => none

/-- The first line among locations that fails its check where it lies: its address, none for a line of a pool, which has no physical
one, and WHERE (R413, R414). -/
def State.badLine (s : State) (ls : List Loc) : Option (Option Nat × Nat) :=
  ls.findSome? fun l => match l with
    | .mem pa => if s.lineBad pa then some (some (64 * (pa / 64)), s.whereOf pa) else none
    | .sp i g w off => match s.wg? i g w with
      | some x => if tget 0 x.spBad (off / 64) != 0 then some (none, 2) else none
      | none => none
    | .acc i g w off => match s.wg? i g w with
      | some x => if tget 0 x.accBad (off / 64) != 0 then some (none, 2) else none
      | none => none
    | .ctr _ => none

/-- The locations of `n` bytes of a workgroup's scratchpad from an offset on. -/
def spLocs (r : UnitRef) (wg off n : Nat) : List Loc := (List.range n).map fun j => .sp r.ident r.gang wg (off + j)

/-- An instruction that reads the `n` bytes of the record that its first source names: an address fault of a check (R323, R325), a
machine check for a line that fails its own (R414), else what the record comes to. -/
def Ctx.record (c : Ctx) (s : State) (align n : Nat) (body : Nat → Nat → Eff) : Eff :=
  let at_ := (c.s32 0).toNat
  match c.spRecord at_ align n with
  | .error k => c.recFault s k 0 at_
  | .ok (wg, off) => match s.badLine (spLocs c.iss.unit wg off n) with
    | some x => .done (s.integrityCheck c.iss.unit x)
    | none => body wg off

/-! ### Watchpoints (R425) -/

/-- The first byte that a watchpoint of a global range, none of those to skip, matches among virtual addresses: its number and the
address. -/
def State.watchVa (s : State) (asid : Nat) (vas : List Nat) (skip : List Nat) : Option (Nat × Nat) :=
  let hit (w : Watch) : Option Nat :=
    if w.w0.getLsbD 63 && !(w.w0.getLsbD 62) && bits w.w0.toNat 56 6 == asid then
      vas.find? fun a => decide (bits w.w0.toNat 0 56 ≤ a) && decide (a ≤ bits w.w1.toNat 0 56)
    else none
  ((s.dbg.watches.zipIdx.filter fun x => !(skip.contains x.2)).filterMap fun x => (hit x.1).map fun a => (x.2, a)).head?

/-- The same for bytes of a workgroup's scratchpad. -/
def State.watchSp (s : State) (ident : Word) (gang wg : Nat) (offs : List Nat) (skip : List Nat) : Option (Nat × Nat) :=
  let hit (w : Watch) : Option Nat :=
    if w.w0.getLsbD 63 && w.w0.getLsbD 62 && bits w.w1.toNat 62 2 == wg && bits w.w2.toNat 32 32 == ident.toNat &&
        bits w.w2.toNat 0 32 == gang then
      offs.find? fun a => decide (bits w.w0.toNat 0 24 ≤ a) && decide (a ≤ bits w.w1.toNat 0 56)
    else none
  ((s.dbg.watches.zipIdx.filter fun x => !(skip.contains x.2)).filterMap fun x => (hit x.1).map fun a => (x.2, a)).head?

/-! ### Trigger counters (R330, R333) -/

/-- A slot fires, at the count its counter has come to: once, and for REARM once more for each threshold that the count has
already passed. -/
def Post.fired (p : Post) (count : Word) : Post :=
  let busy := if p.state == .armed then PostState.transferring else p.state
  if p.rearm then
    let h := p.h + p.period
    let x := count - p.base
    let late := if (h - x).toNat = 0 || 2 ^ 31 < (h - x).toNat then (x - h).toNat / p.period.toNat + 1 else 0
    { p with
      h := h + BitVec.ofNat 32 (late * p.period.toNat), firings := p.firings + BitVec.ofNat 16 (late + 1)
      waiting := p.waiting + late + 1, state := busy }
  else { p with firings := p.firings + 1, waiting := p.waiting + 1, spent := true, state := busy }

/-- A slot is tested when it is posted (R330). -/
def Post.test (p : Post) (count : Word) : Post :=
  let d := (p.h - (count - p.base)).toNat
  if d = 0 || 2 ^ 31 < d then p.fired count else p

/-- A raise of the slot's counter by `v` from `before` (R330). -/
def Post.raised (p : Post) (before v : Word) : Post :=
  let d := (p.h - (before - p.base)).toNat
  if p.spent || p.closing || p.state == .failed || d = 0 || v.toNat < d then p else p.fired (before + v)

/-- A raise takes its place in a counter's modification order (R134): COUNT rises, and the slots it brings to their thresholds
fire. -/
def State.raiseCtr (s : State) (idx : Nat) (v : Word) : State :=
  let before := tget 0 s.ctrs idx
  { s with
    ctrs := tset 0 s.ctrs idx (before + v)
    eng := { s.eng with posts := s.eng.posts.map fun p => if p.ctr == idx then p.raised before v else p } }

/-- A raise made by an engine (R105, R331): of a counter of this package, still on its way; or of another's, as a remote
increment of the stream given. `asid` is the address space whose translation named the counter, if one did. -/
def State.engineRaise (s : State) (key : StreamKey) (c : Nat × Nat × Word) (origin : Origin) (asid : Option Nat := none) : State :=
  let (p, idx, v) := c
  if p = s.pkg then
    let (n, s) := s.newId
    { s with eng := { s.eng with raises := s.eng.raises ++ [⟨n, idx, v, true, asid⟩] } }
  else s.sendPacket key p 48 (.increment idx v true) origin

end Sys2Proof.Machine
end

