-- ==== Sys2Proof/Machine/Control.lean ====
section
/-! DEFINITION. Control flow, divergence, barriers, rounds, drawn work, engine waits, future handles and traps (R156 to R168, R234 to R253). -/

namespace Sys2Proof.Machine

/-! ### Slots -/

/-- The issuing slot changed, in the state in which the instruction has issued. -/
def State.modSlot (s : State) (c : Ctx) (f : Slot → Slot) : State :=
  s.modUnit c.iss.unit fun u => u.setSlot c.iss.slot (f (u.slot c.iss.slot))

/-- The issuing slot continues at an address. -/
def State.jump (s : State) (c : Ctx) (pc : DWord) : State := s.modSlot c fun x => { x with pc := pc }

/-- A control-state trap (R386). -/
def ctlTrap (sub : Nat) : TrapInfo := TrapInfo.of 5 sub

/-- The other slot of the issuing crew. -/
def Ctx.other (c : Ctx) : Slot := c.crew.slot (1 - c.iss.slot)

/-- The threads of each limb segment of a bound crew, as lanes (R168, R300). -/
def segLanes (single : Bool) (n k : Nat) : Mask := threadLanes single ((List.range n).map fun i => k * n + i)

/-- Segments of `n` threads of a crew. -/
def segCount (single : Bool) (n : Nat) : Nat := (if single then 96 else 32) / max n 1

/-- A set of lanes holds some but not all lanes of a segment (R158, R168, R301). -/
def splitsSegment (single : Bool) (n : Nat) (m : Mask) : Bool :=
  n != 0 && (List.range (segCount single n)).any fun k =>
    let sg := segLanes single n k
    m &&& sg != 0 && m &&& sg != sg

/-- The signed offset that a branch's literal gives (R207, R234). -/
def Ctx.target (c : Ctx) : DWord := c.pc + (c.op.lit.getD 0).signExtend 64

/-- A register-held or literal target of BRX and CALLX (R207, R234): none when it is no multiple of 4. -/
def Ctx.absTarget (c : Ctx) : Option DWord :=
  if (c.s32 0).toNat % 4 = 0 then some (c.lr.codeBase + (c.s32 0).zeroExtend 64) else none

/-! ### 32-bit control -/

/-- R243: the slot sits out the next cycle in which another is ready; NOP on a cox core. -/
def execYield (s : State) : Out := s.issue .yield fun c s => .done (if c.u.isCox then s else s.modSlot c fun x => { x with yielded := true })

/-- The lanes that leave a slot for good (R160). -/
def Slot.without (x : Slot) (m : Mask) : Slot :=
  if x.mask &&& ~~~m == 0 then Slot.none else { x with mask := x.mask &&& ~~~m }

/-- A crew's lanes execute EXIT: they leave both slots and the saved bracket mask (R160, R165). -/
def Crew.exitLanes (x : Crew) (m : Mask) : Crew :=
  { x with
    slot0 := x.slot0.without m, slot1 := x.slot1.without m, exited := x.exited ||| m
    bracket := match x.bracket with
      | some b => if b &&& ~~~m == 0 then Option.none else some (b &&& ~~~m)
      | .none => Option.none }

/-- R242, R160, R389: an EXIT that empties the handler's slot ends the handler. -/
def execExit (s : State) : Out :=
  s.issue .exit fun c s =>
    let r := c.iss.unit
    match c.u with
    | .crew _ =>
      let s := s.modUnit r fun u =>
        let k := u.scal.trap.slotNo
        let before := (u.slot k).st
        let u := match u with
          | .crew x => .crew (x.exitLanes c.mask)
          | v => v
        if u.scal.trap.inh && before != .empty && (u.slot k).st == .empty then u.endHandler else u
      .done (s.settleCrew r)
    | .cox _ =>
      let s := s.modUnit r fun u => match u with
        | .cox x => .cox { x with slot := Slot.none, ended := true }
        | v => v
      .done ((s.settleGbar r.ident r.gang).reapGang r.ident r.gang)

/-- R159, R237, R241. -/
def execJoin (s : State) : Out :=
  s.issue .join fun c s =>
    let o := c.other
    if c.crew.bracket.isSome || o.st == .empty then .done s
    else if o.st == .joinWait && !o.frozen then
      if o.pc == c.pc then
        .done (s.modCrew c.iss.unit fun x =>
          { x with slot0 := { x.slot0 with pc := c.nextPc, st := .ready, mask := x.slot0.mask ||| x.slot1.mask }
                   slot1 := Slot.none })
      else .trap (ctlTrap 3)
    else .done (s.modSlot c fun x => { x with pc := c.pc, st := .joinWait })

/-- R164, R165, R241. -/
def execBktOpen (s : State) : Out :=
  s.issue .bktOpen fun c s =>
    if c.crew.bracket.isSome then .trap (ctlTrap 7)
    else .done (s.modCrew c.iss.unit fun x =>
      let k := c.iss.slot
      let o := x.slot (1 - k)
      let x := if o.st == .empty then x else x.setSlot (1 - k) { o with frozenBkt := true }
      let x := x.setSlot k { x.slot k with mask := fullMask x.lanes &&& ~~~x.exited }
      { x with bracket := some c.mask })

/-- R164, R165, R241. -/
def execBktClose (s : State) : Out :=
  s.issue .bktClose fun c s =>
    match c.crew.bracket with
    | none => .trap (ctlTrap 7)
    | some b => .done (s.modCrew c.iss.unit fun x =>
      let k := c.iss.slot
      let x := x.setSlot (1 - k) { x.slot (1 - k) with frozenBkt := false }
      let x := x.setSlot k { x.slot k with mask := b }
      { x with bracket := none })

/-- R235. -/
def execRet (s : State) : Out :=
  s.issue .ret fun c s =>
    let link := c.slot.link
    if link.toNat % 4 = 0 then .done (s.jump c (c.lr.codeBase + link.zeroExtend 64))
    else .trap (illegalTrap 3 (firstWord c.i))

/-- R252, R355, R387, R389: traps for non-finite logits that an instruction has ordered follow one by one. -/
def execTret (s : State) : Out :=
  s.issue .tret fun c s =>
    let t := c.u.scal.trap
    if !t.inh then .trap (ctlTrap 8)
    else if t.resume.toNat % 4 ≠ 0 then .trap (illegalTrap 3 (firstWord c.i))
    else
      let r := c.iss.unit
      let s := s.returnTrap r
      match (s.unit? r).bind fun u => firstTrap (u.traps.filter LogitTrap.ordered) with
      | none => .done s
      | some x =>
        let s := s.modUnit r fun u => u.mapTraps fun ts => ts.filter fun y => y != x
        .done (s.takeTrap r t.slotNo x.info (s.codeAddr r t.trapPc) (s.codeAddr r t.resume))

/-- R253, R424. -/
def execBkpt (tag : BitVec 6) (s : State) : Out :=
  s.issue (.bkpt tag) fun c s =>
    if (s.part (s.pid c.iss.unit)).claim then .done (s.stopUnit c.iss.unit c.iss.slot 2 0 tag.toNat c.pc 0 127)
    else .after s { kind := 10, sub := 0, code := tag.zeroExtend 32, addr := 0, lanes := none }

/-- R166, R244: the crew arrives and the slot is blocked until the generation advances; the barriers lie in the workgroup control block,
which must pass its check (R84, R414). -/
def execBar (n : BitVec 6) (s : State) : Out :=
  s.issue (.bar n) fun c s =>
    let r := c.iss.unit
    if c.divergent then .trap { kind := 3, sub := 0, code := n.zeroExtend 32, addr := 0, lanes := none }
    else if ((s.wg? r.ident r.gang (wgOf r)).map Workgroup.ctlBad).getD false then .done (s.integrityCheck r (none, 2))
    else
      let k := n.toNat
      let b := ((s.wg? r.ident r.gang (wgOf r)).bind fun w => w.bars[k]?).getD ⟨0, []⟩
      let (b, g) := b.arrive c.crew.crew
      let s := s.modWg r.ident r.gang (wgOf r) fun w => { w with bars := w.bars.set k b }
      let s := s.modSlot c fun x => { x with st := .blocked (.barrier k g) }
      .done (s.settleBars r.ident r.gang (wgOf r))

/-- The party a unit is at the gang barrier. -/
def gbarParty (u : UnitSt) : Nat :=
  match u with
  | .crew c => 64 * c.wg + c.crew
  | .cox _ => 256

/-- R245. -/
def execGbar (s : State) : Out :=
  s.issue .gbar fun c s =>
    let r := c.iss.unit
    if c.divergent then .trap { kind := 3, sub := 1, code := 0, addr := 0, lanes := none }
    else
      let b := ((s.wg? r.ident r.gang 0).map Workgroup.gbar).getD ⟨0, []⟩
      let (b, g) := b.arrive (gbarParty c.u)
      let s := s.modWg r.ident r.gang 0 fun w => { w with gbar := b }
      let s := s.modSlot c fun x => { x with st := .blocked (.gangBarrier g) }
      .done (s.settleGbar r.ident r.gang)

/-- R138, R246. -/
def execOrnd (s : State) : Out :=
  s.issue .ornd fun c s =>
    let n := c.u.scal.round + 1
    .done ((s.modUnit c.iss.unit fun u => u.setScal { u.scal with round := n }).modLaunch c.iss.unit.ident fun l =>
      { l with top := max l.top n.toNat })

/-- The words of a parked record (R162): a mask and a code offset. -/
def recordWords (single : Bool) (m : Mask) (off : Word) : List Word :=
  if single then [m.extractLsb' 0 32, off, m.extractLsb' 32 32, m.extractLsb' 64 32]
  else [BitVec.ofNat 32 (threads3 m), off]

/-- The mask of a parked record (R162). -/
def recordMask (single : Bool) (ws : List Word) : Mask :=
  let w (k : Nat) : Word := (ws[k]?).getD 0
  if single then w 3 ++ w 2 ++ w 0 else spread3 (w 0).toNat

/-- The record's registers from `n` on. -/
def Ctx.recordAt (c : Ctx) (n : Nat) : List Word := (List.range (if c.single then 4 else 2)).map fun k => c.u.scal.sget (n + k)

/-- Scalar registers written from `n` on. -/
def scalarWrites (n : Nat) (ws : List Word) : List RegWrite := ws.zipIdx.map fun x => ⟨.s, n + x.2, 0, x.1⟩

/-- R161, R238. -/
def execDpark (d : BitVec 8) (s : State) : Out :=
  s.issue (.dpark d) fun c s =>
    if c.other.st == .empty || c.crew.bracket.isSome then .trap (ctlTrap 6)
    else
      let off := (c.nextPc - c.lr.codeBase).extractLsb' 0 32
      let s := s.writeRegs c (scalarWrites d.toNat (recordWords c.single c.mask off))
      let s := s.modSlot c fun _ => Slot.none
      .done (s.settleCrew c.iss.unit)

/-- R161, R162, R239; what the record's lanes are besides is not asked (log entry 116). -/
def execDresume (a : BitVec 8) (s : State) : Out :=
  s.issue (.dresume a) fun c s =>
    let ws := c.recordAt a.toNat
    let m := recordMask c.single ws
    let off : Word := (ws[1]?).getD 0
    if c.other.st != .empty then .trap (ctlTrap 4)
    else if off.toNat % 4 ≠ 0 || m &&& ~~~(fullMask c.crew.lanes) != 0 then .trap (ctlTrap 5)
    else if m == 0 then .done s
    else .done (s.modCrew c.iss.unit fun x => x.setSlot (1 - c.iss.slot)
      { Slot.start (c.lr.codeBase + off.zeroExtend 64) m with link := c.slot.link })

/-- R161, R240. -/
def execDprune (d a : BitVec 8) (s : State) : Out :=
  s.issue (.dprune d a) fun c s =>
    let ws := c.recordAt a.toNat
    let m := recordMask c.single ws &&& ~~~c.mask
    let s := s.writeRegs c (scalarWrites a.toNat (recordWords c.single m ((ws[1]?).getD 0)))
    .done (s.writeRegs c [⟨.q, d.toNat, 0, b2w (m == 0)⟩])

/-! ### Branches -/

/-- R234. -/
def execBra (o : Op) (s : State) : Out := s.issue (.bra o) fun c s => .done (s.jump c c.target)

/-- R234. -/
def execBrc (o : Op) (s : State) : Out :=
  s.issue (.brc o) fun c s =>
    let taken := match c.u with
      | .cox x => if c.fn % 4 = 2 then !(x.scal.qget o.sa.toNat) else x.scal.qget o.sa.toNat
      | .crew x =>
        let t := x.pget o.sa.toNat &&& c.mask
        match c.fn % 4 with
        | 0 => t != 0
        | 1 => t == c.mask
        | _ => t == 0
    .done (if taken then s.jump c c.target else s)

/-- R158, R236. -/
def execBrd (o : Op) (s : State) : Out :=
  s.issue (.brd o) fun c s =>
    let p := c.crew.pget o.sa.toNat
    let m := c.mask
    let t := p &&& m
    match (({ c with act := m }).mismatch fun l => (b2w (p.getLsbD l)).zeroExtend 64) with
    | some (l, x) => .mismatch l x
    | none =>
      if splitsSegment c.single c.crew.limbN t then .trap (TrapInfo.of 4 1)
      else if t == 0 then .done s
      else if t == m then .done (s.jump c c.target)
      else if c.crew.bracket.isSome then .trap (ctlTrap 2)
      else if c.other.st != .empty then .trap (ctlTrap 1)
      else .done (s.modCrew c.iss.unit fun x =>
        let k := c.iss.slot
        let x := x.setSlot (1 - k) { Slot.start c.target t with link := c.slot.link }
        x.setSlot k { x.slot k with mask := m &&& ~~~t })

/-- LINK set to the offset of the next instruction (R235). -/
def State.setLink (s : State) (c : Ctx) : State :=
  s.modSlot c fun x => { x with link := (c.nextPc - c.lr.codeBase).extractLsb' 0 32 }

/-- R235. -/
def execCall (o : Op) (s : State) : Out := s.issue (.call o) fun c s => .done ((s.setLink c).jump c c.target)

/-- R207, R234. -/
def execBrx (o : Op) (s : State) : Out :=
  s.issue (.brx o) fun c s =>
    match c.absTarget with
    | some pc => .done (s.jump c pc)
    | none => .trap (illegalTrap 3 (firstWord c.i))

/-- R207, R235. -/
def execCallx (o : Op) (s : State) : Out :=
  s.issue (.callx o) fun c s =>
    match c.absTarget with
    | some pc => .done ((s.setLink c).jump c pc)
    | none => .trap (illegalTrap 3 (firstWord c.i))

/-! ### Drawn work, engine waits, handles -/

/-- R247: READY is cleared and the request sent. -/
def execDraw (o : Op) (s : State) : Out :=
  s.issue (.draw o) fun c s =>
    let r := c.iss.unit
    let mbox := (c.s32 0).toNat
    let b := (c.s32 1).toNat
    if bits b 20 12 ≠ 0 then .trap (ctlTrap 9)
    else match c.spRecord mbox 32 32 with
      | .error k => c.recFault s k 1 mbox
      | .ok (wg, off) =>
        match s.watchSp r.ident r.gang wg ((List.range 8).map fun j => off + 24 + j) c.slot.skipWatch with
        | some (n, addr) => .watch n addr 127
        | none =>
          let s := s.spWrite r wg (off + 24) (List.replicate 8 0)
          let s := s.modWg r.ident r.gang (wgOf r) fun w => { w with draws := w.draws + 1 }
          .done { s with dealer := { s.dealer with draws := s.dealer.draws ++ [⟨r, wgOf r, mbox, bits b 0 20, c.lr.asid⟩] } }

/-- An instruction orders the completion of vocabulary operations: the first of them that met a non-finite logit traps, the
others follow its handler (R355). -/
def Ctx.orders (c : Ctx) (s : State) (sel : LogitTrap → Bool) : Eff :=
  let r := c.iss.unit
  let now := ((s.unit? r).map UnitSt.traps).getD []
  match firstTrap (now.filter fun t => !t.ordered && sel t) with
  | none => .done s
  | some x =>
    .after (s.modUnit r fun u => u.mapTraps fun ts => (ts.filter fun y => y != x).map fun y =>
      if sel y then { y with ordered := true } else y) x.info

/-- R131, R248, R355. -/
def execWaitEng (o : Op) (s : State) : Out :=
  s.issue (.waitEng o) fun c s =>
    let k := c.fn % 4
    let s := s.writeRegs c [⟨.s, c.d, 0, BitVec.ofNat 32 (c.u.scal.counter k)⟩]
    c.orders (s.acquireIf c.iss.unit (c.u.scal.wide.getLsbD k)) fun _ => k = 3

/-- R131, R249, R355. -/
def execHwait (o : Op) (s : State) : Out :=
  s.issue (.hwait o) fun c s =>
    let s := s.produce c false [⟨.s, c.d, 0, c.u.scal.hget o.sa.toNat⟩]
    c.orders (s.acquireIf c.iss.unit (c.u.scal.hWide.getLsbD o.sa.toNat)) fun t => t.handle == some o.sa.toNat

/-- R131, R249, R355. -/
def execHtest (o : Op) (s : State) : Out :=
  s.issue (.htest o) fun c s =>
    let h := o.sa.toNat
    let full := c.u.isFull .h h (BitVec.allOnes 96)
    let s := s.produce c false [⟨.q, c.d, 0, b2w full⟩]
    c.orders (s.acquireIf c.iss.unit (full && c.u.scal.hWide.getLsbD h)) fun t => full && t.handle == some h

/-- R249: the handle's operation is asked to stop; only a copy can. -/
def execHcancel (o : Op) (s : State) : Out :=
  s.issue (.hcancel o) fun c s =>
    let x := (c.iss.unit, o.sa.toNat)
    let stop (q : CopyReq) : CopyReq := if q.handles.contains x then { q with cancel := true } else q
    .done { s with eng := { s.eng with copies := s.eng.copies.map stop } }

/-- A handle linked to the operation of another (R250). -/
def State.linkHandle (s : State) (src dst : UnitRef × Nat) : State :=
  let add (hs : List (UnitRef × Nat)) : List (UnitRef × Nat) := if hs.contains src then hs ++ [dst] else hs
  { s with eng := { s.eng with
    copies := s.eng.copies.map fun q => { q with handles := add q.handles }
    mats := s.eng.mats.map fun m => m.mapOps fun p => { p with handles := add p.handles } } }

/-- R250. -/
def execHpass (o : Op) (s : State) : Out :=
  s.issue (.hpass o) fun c s =>
    let r := c.iss.unit
    let b := (c.s32 1).toNat
    let t : UnitRef := .crew r.ident r.gang (wgOf r) (bits b 0 5)
    let ht := bits b 8 4
    let ha := o.sa.toNat
    match s.unit? t with
    | none => .done s
    | some _ =>
      if c.u.isFull .h ha (BitVec.allOnes 96) then
        .done (s.modUnit t fun u =>
          let u := u.fill ⟨.h, ht, 0, c.u.scal.hget ha⟩
          u.setScal { u.scal with hWide := setBit u.scal.hWide ht (c.u.scal.hWide.getLsbD ha) })
      else
        .done ((s.modUnit t fun u => u.markEmpty .h ht (BitVec.allOnes 96)).linkHandle (r, ha) (t, ht))

/-- R251. -/
def execTrap (o : Op) (s : State) : Out :=
  s.issue (.trap o) fun c s => .after s { kind := 11, sub := 0, code := c.s32 0, addr := 0, lanes := none }

end Sys2Proof.Machine
end

