-- ==== Sys2Proof/Machine/Walk.lean ====
section
/-! DEFINITION. Translation: the page-table walk (R43 to R46), the TLBs (R51), what an invalidation covers (R54), and the walks that units wait for (R52). -/

namespace Sys2Proof.Machine

open Sys2Proof

/-- The lowest virtual address bit that a level indexes, and the bits it indexes (R43). -/
def levelShift (level : Nat) : Nat :=
  match level with
  | 0 => 16
  | 1 => 21
  | 2 => 30
  | 3 => 39
  | _ => 48
def levelBits (level : Nat) : Nat :=
  match level with
  | 0 => 5
  | 4 => 8
  | _ => 9

/-- The byte offset of a level's entry in its table. -/
def entryOffset (level va : Nat) : Nat := bits va (levelShift level) (levelBits level) * 8

/-- Who asks for a walk: what an integrity record names (R55, R414). -/
structure Asker where
  ident : Word
  source : Nat
  deriving DecidableEq, Repr

/-- A table line that fails its check is recorded, and dropped wherever it is cached (R55, R414). -/
def State.badTable (s : State) (k : Asker) (line wher : Nat) : State :=
  (s.integrityRecord k.ident k.source (some (64 * line), wher)).dropTableLine line

/-- A table entry read at its physical address, or the cause of R55: a line that fails its check value is dropped from the walk
caches and recorded. -/
def State.readEntry (s : State) (k : Asker) (pa : Nat) : Except Nat DWord × State :=
  if !(s.backed pa) || targetOf (paLocal pa) == .trigger then (.error 6, s)
  else
    let s := (s.l2Take pa Rank.plain).askLine pa
    if s.lineBad pa then (.error 7, (s.badTable k (pa / 64) (s.whereOf pa)))
    else (.ok (BitVec.ofNat 64 (leNat (s.rdMem pa 8))), s)

/-- What a walk step makes of an entry (R44). -/
inductive WalkStep where
  | next (table : Nat)
  | done (r : WalkResult)
  deriving DecidableEq, Repr

/-- A leaf entry of a level for a virtual address: MIGRATING is tested once it is well formed (R44, R46, R55). -/
def leafResult (level va : Nat) (e : Nat) : WalkResult :=
  let size := pageBytes level
  let frame := bits e 16 36 * 2 ^ 16
  if 3 ≤ level || frame % size ≠ 0 || bits e 52 8 ≠ 0 || bits e 12 4 ≠ 0 || nbit e 7 || bits e 2 2 ≠ 0 || bits e 8 2 = 3 ||
      (bits e 8 2 = 2 && (level ≠ 0 || nbit e 5)) then .fault 5
  else if nbit e 11 then .fault 4
  else .ok (frame + va % size / 2 ^ 16 * 2 ^ 16) (bits e 8 2) (nbit e 6) (nbit e 4) (nbit e 5) level

/-- One entry of a walk (R44, R45). -/
def walkStep (level va : Nat) (e : Nat) : WalkStep :=
  if !(nbit e 0) then .done (.fault 1)
  else if nbit e 1 then .done (leafResult level va e)
  else if level = 0 || bits e 52 12 ≠ 0 || bits e 2 6 ≠ 0 then .done (.fault 5)
  else
    let table := bits e 8 44 * 2 ^ 8
    if 2 ≤ level && table % 4096 ≠ 0 then .done (.fault 5) else .next table

/-- The walk from a level down (R44); non-leaf entries come from and go into the die's walk cache (R51). `n` is the level plus one. -/
def walkFrom (k : Asker) (die asid va : Nat) : Nat → Nat → State → WalkResult × State
  | 0, _, s => (.fault 5, s)
  | level + 1, table, s =>
    let key := va / 2 ^ levelShift level
    match s.caches.walkCache.find? fun w => w.die == die && w.asid == asid && w.level == level && w.key == key with
    | some w =>
      if w.bad then (.fault 7, s.badTable k (w.pa / 64) 1)
      else match walkStep level va w.entry.toNat with
      | .next t => walkFrom k die asid va level t s
      | .done r => (r, s)
    | none =>
      match s.readEntry k (table + entryOffset level va) with
      | (.error c, s) => (.fault c, s)
      | (.ok e, s) =>
        match walkStep level va e.toNat with
        | .next t => walkFrom k die asid va level t (s.walkFill ⟨die, asid, level, key, e, table + entryOffset level va, false⟩)
        | .done r => (r, s)

/-- The ROOT that walks of an address space use (R50). -/
def State.rootOf (s : State) (asid : Nat) : Nat := ((s.xlat.roots.find? fun x => x.1 == asid).map Prod.snd).getD 0

/-- The walk of an address space for a virtual address (R44). -/
def State.walk (s : State) (k : Asker) (die asid va : Nat) : WalkResult × State :=
  let ctx := (tget 0 s.xlat.asctx (4 * asid)).toNat
  if !(nbit ctx 0) then (.fault 5, s)
  else walkFrom k die asid va 5 (s.rootOf asid) s

/-- The translation that a TLB entry gives for an address. -/
def TlbEntry.result (e : TlbEntry) (va : Nat) : WalkResult :=
  .ok (e.frame + va % pageBytes e.level / 2 ^ 16 * 2 ^ 16) e.mt e.sf e.w e.x e.level

/-- A walk's translation as the entry of a TLB. -/
def tlbEntryOf (tlb asid va : Nat) : WalkResult → Option TlbEntry
  | .ok frame mt sf w x level =>
    some ⟨tlb, asid, level, va / pageBytes level, frame - va % pageBytes level / 2 ^ 16 * 2 ^ 16, mt, sf, w, x⟩
  | .fault _ => none

/-- A walk's translation entered into TLBs (R53: no fault is). -/
def State.tlbFills (s : State) (tlbs : List Nat) (asid va : Nat) (r : WalkResult) : State :=
  tlbs.foldl (fun s t => match tlbEntryOf t asid va r with
    | some e => s.tlbFill e
    | none => s) s

/-- The first TLB of a list that holds an address. -/
def State.tlbLookup (s : State) (tlbs : List Nat) (asid va : Nat) : Option WalkResult :=
  (tlbs.findSome? fun t => s.tlbFind t asid va).map fun e => e.result va

/-- An address translated by the TLBs of a unit, else by a walk made at once (R51). -/
def State.translate (s : State) (k : Asker) (tlbs : List Nat) (die asid va : Nat) : WalkResult × State :=
  match s.tlbLookup tlbs asid va with
  | some r => (r, s.tlbFills tlbs asid va r)
  | none =>
    let (r, s) := s.walk k die asid va
    (r, s.tlbFills tlbs asid va r)

/-- The TLBs of a unit, nearest first: a core's and its cluster's, or a cluster's for a cox core (R51). -/
def State.tlbsOf (s : State) (r : UnitRef) : List Nat :=
  let cl := s.clusterOf r
  match r with
  | .crew i g w _ => [4 * cl + s.coreOf i g w, 192 + cl]
  | .cox .. => [192 + cl]

/-- Whom a unit's walks name. -/
def State.asker (s : State) (r : UnitRef) : Asker := ⟨r.ident, s.source r⟩

/-! ### Walks that units wait for (R52) -/

/-- A walk asked for by a unit: it joins one of the same die, address space and page. -/
def State.askWalk (s : State) (r : UnitRef) (asid page : Nat) : State :=
  let cl := s.clusterOf r
  if s.caches.walks.any fun w => w.cluster / 12 == cl / 12 && w.asid == asid && w.page == page then s
  else
    let (n, s) := s.newId
    let core := match r with
      | .crew i g w _ => s.coreOf i g w
      | .cox .. => 0
    let cox := match r with
      | .crew .. => false
      | .cox .. => true
    { s with caches := { s.caches with walks := s.caches.walks ++ [⟨n, cl, core, asid, page, cox⟩] } }

/-- The result of a walk given to the slots of a unit that wait for it. -/
def UnitSt.walkDone (u : UnitSt) (asid : Nat) (results : List (Nat × WalkResult)) : UnitSt :=
  u.slots.foldl (fun u k =>
    let sl := u.slot k
    match sl.st with
    | .blocked (.walk _ a pages) =>
      if a == asid then
        let mine := results.filter fun x => pages.contains x.1 && !(sl.walked.any fun y => y.1 == x.1)
        u.setSlot k { sl with walked := sl.walked ++ mine }
      else u
    | _ => u) u

/-- The 64 KiB pages that the slots of a unit wait for in an address space. -/
def UnitSt.waitsPages (u : UnitSt) (asid : Nat) : List Nat :=
  u.slots.flatMap fun k => match (u.slot k).st with
    | .blocked (.walk _ a pages) => if a == asid then pages else []
    | _ => []

/-- Every unit of a die. -/
def State.unitsOfDie (s : State) (die : Nat) : List UnitRef :=
  (s.crews.map Crew.ref ++ s.coxes.map Cox.ref).filter fun r => s.clusterOf r / 12 == die

/-- PAGE_WALK_COMPLETE: a walk ends (R44, R51 to R53). Every unit of the die that waits for its page has its outcome; when it ends
at a larger leaf, so has every other request inside that page. -/
def execPageWalkComplete (id : Nat) (s : State) : Out :=
  match s.caches.walks.find? fun w => w.id == id with
  | none => .refused .noSuchEvent
  | some w =>
    let die := w.cluster / 12
    let va := w.page * 2 ^ 16
    let r : UnitRef := (((s.unitsOfDie die).find? fun r => match s.unit? r with
      | some u => (u.waitsPages w.asid).contains w.page
      | none => false)).getD (.cox 0 0)
    let (res, s) := s.walk (s.asker r) die w.asid va
    let span := match res with
      | .ok _ _ _ _ _ level => pageBytes level
      | .fault _ => 2 ^ 16
    let inside (p : Nat) : Bool := p * 2 ^ 16 / span == va / span
    let value (p : Nat) : Option (Nat × WalkResult) :=
      match tlbEntryOf 0 w.asid va res with
      | some e => if inside p then some (p, e.result (p * 2 ^ 16)) else none
      | none => if p == w.page then some (p, res) else none
    let walks := s.caches.walks.filter fun x => !(x.cluster / 12 == die && x.asid == w.asid && inside x.page)
    let s : State := { s with caches := { s.caches with walks := walks } }
    .next ((s.unitsOfDie die).foldl (fun s r => match s.unit? r with
      | none => s
      | some u =>
        let got := (u.waitsPages w.asid).filterMap value
        if got.isEmpty || (s.lrec r.ident).asid ≠ w.asid then s
        else (s.setUnit (u.walkDone w.asid got)).tlbFills (s.tlbsOf r) w.asid va res) s)

end Sys2Proof.Machine
end

