-- ==== Sys2Proof/Machine/Access.lean ====
section
/-! DEFINITION. Accesses to the generic address space: forming and checking addresses (R14 to R22), sibling forms (R29 to R32), private backing (R25), translation of each access, and how an instruction parks on what fails (R18, R19, R55 to R60). -/

namespace Sys2Proof.Machine

open Sys2Proof

/-! ### Values and forms -/

/-- The float format of an SZF code (R210). -/
def szfFmt (z : Nat) : Fmt :=
  match z % 4 with
  | 0 => f16
  | 1 => bf16
  | 2 => f32
  | _ => f64

/-- An element's bytes as the value of a register lane or pair: 8- and 16-bit integers are extended as their type says (R210),
and a 16-bit float has zeros above it (R312). -/
def szfExtend (z v : Nat) : DWord :=
  match z with
  | 1 => BitVec.ofInt 64 (signed 8 v % 2 ^ 32)
  | 3 => BitVec.ofInt 64 (signed 16 v % 2 ^ 32)
  | _ => BitVec.ofNat 64 v

/-- The value of an access's `k`-th lane, `lane`, from its bytes (R29 to R32). -/
def Form.load (f : Form) (z : Nat) (bs : List Byte) (k lane : Nat) : DWord :=
  let e := szfSize z
  match f with
  | .one | .collapsed => szfExtend z (leNat (bs.take e))
  | .each => szfExtend z (leNat ((bs.drop (k * e)).take e))
  | .meanDigits => BitVec.ofNat 64 (mdLoad (leNat (bs.take 4)) (lane % 3))
  | .eachDigits => BitVec.ofNat 64 (mdLoad (leNat ((bs.drop (4 * k)).take 4)) (lane % 3))

/-- The bytes that the values of an access's lanes store (R29 to R31). -/
def Form.store (f : Form) (z : Nat) (vs : List DWord) : List Byte :=
  let e := szfSize z
  let v (k : Nat) : Nat := ((vs[k]?).getD 0).toNat % 2 ^ (8 * e)
  match f with
  | .one => leBytes e (v 0)
  | .each => vs.flatMap fun x => leBytes e (x.toNat % 2 ^ (8 * e))
  | .meanDigits | .eachDigits => leBytes 4 (mdWord (v 0) (v 1) (v 2))
  | .collapsed => leBytes e (((szfFmt z).median (v 0) (v 1) (v 2)).getD (szfFmt z).qnan)

/-- The form of a float access by a triple-mode crew (R29): `md` says that the place is of the mean-digits form. -/
def tripleForm (z : Nat) (md : Bool) : Form :=
  if !md then .each else if szfSize z == 4 then .meanDigits else .collapsed

/-- The bytes of an access of a form. -/
def Form.size (f : Form) (z : Nat) : Nat :=
  match f with
  | .each => 3 * szfSize z
  | .meanDigits | .eachDigits => 4
  | _ => szfSize z

/-! ### Requests -/

/-- What the accesses of one instruction ask for. -/
structure Req where
  kind : MemKind
  szf : Nat
  aop : Nat
  /-- It carries an ordering qualifier (R120). -/
  qual : Bool
  vdata : Bool
  deriving DecidableEq, Repr

/-- One access: the lanes it serves (a thread's three in triple mode, one in single-lane mode, none for scalar data), and the sum
of base and offset (R16). -/
structure Acc where
  lanes : List Nat
  sum : Int
  deriving DecidableEq, Repr

/-- The lanes of an access as a mask: a thread's three in triple mode, none for scalar data (log entry 19). -/
def Acc.mask (a : Acc) : Mask := if a.lanes.isEmpty then noLanes else maskOf a.lanes

/-- The address of an access that does not wrap. -/
def Acc.addr (a : Acc) : Nat := a.sum.toNat

/-- The lane in which an access's operands are read. -/
def Acc.lane (a : Acc) : Nat := (a.lanes.head?).getD 0

/-- The ACCESS code of a kind (R60). -/
def Req.code (q : Req) : Nat :=
  match q.kind with
  | .ld | .prf => 0
  | .st => 1
  | .atom | .atomr | .cas => 2
  | .oatom => 3

/-- A float access by a triple-mode crew, whose bytes depend on the form (R29, R310). -/
def Ctx.tripleFloat (c : Ctx) (q : Req) : Bool := !c.single && !c.u.isCox && q.vdata && szfFloat q.szf

/-- A read-modify-write. -/
def Req.rmw (q : Req) : Bool := 2 ≤ q.code

/-- The apertures (R14). -/
inductive Aperture where
  | scratchpad | priv | global | none
  deriving DecidableEq, Repr

/-- The aperture of an address (R14). -/
def aperture (a : Nat) : Aperture :=
  if a / 2 ^ 48 = 0xFFFF then .scratchpad
  else if a / 2 ^ 48 = 0xFFFE then .priv
  else if a / 2 ^ 56 = 0 then .global
  else .none

/-- The form of an access in the scratchpad: as the instruction names it (R210). -/
def Ctx.spForm (c : Ctx) (q : Req) : Form := if c.tripleFloat q then tripleForm q.szf (szfMD q.szf) else .one

/-! ### Checks of order 1 to 5 (R18) -/

/-- What a check of order 1 to 5 finds: an address fault of a kind, or the stack limit at an aperture offset. -/
inductive Fail where
  | kind (k : Nat)
  | stack (off : Nat)
  deriving DecidableEq, Repr

/-- The earliest check of order 1 to 5 that an access fails (R18, R20 to R22, R25, R29, R310, R317). -/
def Ctx.precheck (c : Ctx) (q : Req) (a : Acc) : Option (Nat × Fail) :=
  let e := szfSize q.szf
  let x := a.addr
  let ap := aperture x
  let off := x % 2 ^ 48
  if a.sum < 0 || 2 ^ 64 ≤ a.sum then some (1, .kind 2)
  else if ap == .none then some (2, .kind 1)
  else if x % (if q.qual then 8 else e) ≠ 0 then some (3, .kind 3)
  else
    let use : Bool := match ap with
      | .scratchpad => q.kind == .oatom || (q.rmw && c.tripleFloat q && szfMD q.szf)
      | .priv => !q.vdata || q.qual || q.rmw || c.u.isCox
      | _ => false
    if use then some (4, .kind 6)
    else match ap with
      | .scratchpad => if (spTarget c.iss.unit c.lr off ((c.spForm q).size q.szf)).isNone then some (5, .kind 4) else none
      | .priv => if c.lr.privSize < off + e then some (5, .stack off) else none
      | _ =>
        let n := if c.tripleFloat q then 3 * e else e
        if 2 ^ 56 < x + n then some (5, .kind 5) else none

/-- The outcome of the earliest check that any access fails: the first access that fails it, and every access that fails it. -/
def Ctx.prechecks (c : Ctx) (xs : List (Req × Acc)) : Option (Req × Acc × Fail × Mask) :=
  let fails := xs.filterMap fun x => (c.precheck x.1 x.2).map fun f => (f.1, x, f.2)
  let least := fails.foldl (fun m f => min m f.1) 9
  let now := fails.filter fun f => f.1 == least
  match now with
  | [] => none
  | (_, x, f) :: _ =>
    let same (g : Fail) : Bool := match f, g with
      | .stack _, .stack _ => true
      | .kind _, .kind _ => true
      | _, _ => false
    some (x.1, x.2, f, ((now.filter fun y => same y.2.2).foldl (fun m y => m ||| y.2.1.2.mask) 0))

/-- What an instruction that fails a check of order 1 to 5 comes to: no lane is accessed (R19, R20, R28). -/
def Ctx.precheckEff (c : Ctx) (s : State) (x : Req × Acc × Fail × Mask) : Eff :=
  let (q, a, f, m) := x
  match f with
  | .kind k => c.addrFault s k q.code q.code (a.sum % 2 ^ 64).toNat a.mask
  | .stack off => .trap { kind := 7, sub := 0, code := 0, addr := BitVec.ofNat 64 off, lanes := some m }

/-! ### Bytes and pages of an access -/

/-- The private backing addresses of a lane's `e` bytes at an aperture offset (R23, R25). -/
def Ctx.privBytes (c : Ctx) (s : State) (l off e : Nat) : List Nat :=
  let t := threadOf c.single l
  let th := (c.crew.threads[t]?).getD ⟨0, 0, 0, 0⟩
  let frame := ((s.wg? c.crew.ident c.crew.gang c.crew.wg).map Workgroup.frame).getD 0
  let p := c.lr.privSize
  let seg := c.lr.privBase.toNat + frame * c.lr.nCrews * 96 * p + th.homeCrew * 96 * p
  (List.range e).map fun j =>
    let i := (off + j) / 4
    let b := (off + j) % 4
    if c.single then seg + (i * 96 + th.homeLane) * 4 + b else seg + ((i * 32 + th.homeLane) * 3 + l % 3) * 4 + b

/-- A looked-up page: walk results that the slot has been given, then the unit's TLBs. -/
def Ctx.pageOf (c : Ctx) (s : State) (va : Nat) : Option WalkResult :=
  match c.slot.walked.find? fun x => x.1 == va / 2 ^ 16 with
  | some x => some x.2
  | none => s.tlbLookup (s.tlbsOf c.iss.unit) c.lr.asid va

/-- The form of an access to global memory, when the page of its first byte is known (R15, R29). -/
def Ctx.globalForm (c : Ctx) (s : State) (q : Req) (va : Nat) : Form :=
  if !(c.tripleFloat q) then .one
  else match c.pageOf s va with
    | some (.ok _ _ sf _ _ _) => tripleForm q.szf sf
    | _ => .each

/-- The form of an access (R29). -/
def Ctx.formOf (c : Ctx) (s : State) (q : Req) (a : Acc) : Form :=
  match aperture a.addr with
  | .scratchpad => c.spForm q
  | .priv => if a.lanes.length = 1 then .one else .each
  | _ => c.globalForm s q a.addr

/-- The virtual addresses of an access's bytes, in the order of its form; none in the scratchpad. -/
def Ctx.vaBytes (c : Ctx) (s : State) (q : Req) (a : Acc) : List Nat :=
  match aperture a.addr with
  | .global => (List.range ((c.formOf s q a).size q.szf)).map fun j => a.addr + j
  | .priv => a.lanes.flatMap fun l => c.privBytes s l (a.addr % 2 ^ 48) (szfSize q.szf)
  | _ => []

/-- The 64 KiB pages of an access. -/
def Ctx.pages (c : Ctx) (s : State) (q : Req) (a : Acc) : List Nat := ((c.vaBytes s q a).map fun v => v / 2 ^ 16).eraseDups

/-- The pages of all accesses that neither the slot nor a TLB holds (R52). -/
def Ctx.missing (c : Ctx) (s : State) (xs : List (Req × Acc)) : List Nat :=
  ((xs.flatMap fun x => c.pages s x.1 x.2).eraseDups).filter fun p => (c.pageOf s (p * 2 ^ 16)).isNone

/-! ### Checks of order 6 to 9 (R18) -/

/-- How an access stands after translation: its bytes' locations and the memory types of their pages, or the page fault's address and
cause, or the order and kind of an address fault. -/
inductive Reach where
  | ok (locs : List Loc) (mts : List Nat)
  | page (va cause : Nat)
  | fault (order kind : Nat)
  deriving DecidableEq, Repr

/-- The physical address of a virtual one on a page. -/
def onPage (frame va : Nat) : Nat := frame + va % 2 ^ 16

/-- The first byte of an access that does not translate with the permission it needs (R55). -/
def Ctx.pageFail (c : Ctx) (s : State) (q : Req) (vas : List Nat) : Option (Nat × Nat) :=
  vas.findSome? fun va => match c.pageOf s va with
    | some (.fault cause) => some (va, cause)
    | some (.ok _ _ _ w _ _) => if q.code ≠ 0 && !w then some (va, 2) else none
    | none => some (va, 1)

/-- An access that a trigger-counter slot accepts (R36). -/
def Req.triggerOk (q : Req) (pa : Nat) : Bool :=
  decide (pa % 2 ^ 16 < 0x1000) && pa % 16 == 0 && decide (4 ≤ q.szf) && decide (q.szf ≤ 7) &&
  (q.kind == .ld || q.kind == .st || ((q.kind == .atom || q.kind == .atomr) && q.aop == 0))

/-- The index of a trigger counter in this package by its slot's address (R35). -/
def ctrIndex (pa : Nat) : Nat := bits pa 16 4 * 256 + bits pa 4 8

/-- An access after translation: the checks of order 6 to 9 (R18, R36 to R39, R317). -/
def Ctx.reach (c : Ctx) (s : State) (q : Req) (a : Acc) : Reach :=
  match aperture a.addr with
  | .scratchpad =>
    match spTarget c.iss.unit c.lr (a.addr % 2 ^ 48) 1 with
    | some (w, off) => .ok ((List.range ((c.spForm q).size q.szf)).map fun j => .sp c.iss.unit.ident c.iss.unit.gang w (off + j)) []
    | none => .fault 5 4
  | _ =>
    let vas := c.vaBytes s q a
    match c.pageFail s q vas with
    | some (va, cause) => .page va cause
    | none =>
      let phys (va : Nat) : Nat × Nat × Bool := match c.pageOf s va with
        | some (.ok f mt sf _ _ _) => (onPage f va, mt, sf)
        | _ => (0, 0, false)
      let ps := vas.map phys
      let (pa0, mt0, sf0) := (ps.head?).getD (0, 0, false)
      let trig (pa : Nat) : Bool := targetOf (paLocal pa) == .trigger
      let increment (pa : Nat) : Bool :=
        trig pa && s.inDomain (paPkg pa) && aperture a.addr == .global && q.triggerOk pa && (q.kind == .st || q.kind == .atom)
      let good (p : Nat × Nat × Bool) : Bool :=
        (if paPkg p.1 == s.pkg then s.backed p.1 else s.backed p.1 || increment p.1) && ((p.2.1 == 2) == trig p.1)
      if !(ps.all good) then .fault 7 7
      else if aperture a.addr == .global && sf0 && q.rmw && c.tripleFloat q then .fault 8 6
      else if ps.any fun p => p.2.1 == 2 then
        (if aperture a.addr == .global && mt0 == 2 && q.triggerOk pa0 then .ok [.ctr (ctrIndex pa0)] [2] else .fault 9 8)
      else .ok (ps.map fun p => .mem p.1) (ps.map fun p => p.2.1)

/-- The physical address of an access's first byte. -/
def Ctx.firstPa (c : Ctx) (s : State) (q : Req) (a : Acc) : Nat :=
  match (c.vaBytes s q a).head? with
  | some va => match c.pageOf s va with
    | some (.ok f ..) => onPage f va
    | _ => 0
  | none => 0

/-! ### Parking (R55 to R60) -/

/-- The records of page faults: one for each distinct page in ascending order of its lowest failing lane, at most four (R59). -/
def Ctx.pageFaults (c : Ctx) (s : State) (fs : List (Req × Acc × Nat × Nat)) : State :=
  let pages := (fs.map fun f => f.2.2.1 / 2 ^ 16).eraseDups
  (pages.take 4).zipIdx.foldl (fun s p =>
    let mine := fs.filter fun f => f.2.2.1 / 2 ^ 16 == p.1
    match mine with
    | [] => s
    | (q, a, va, cause) :: _ =>
      let m := mine.foldl (fun m f => m ||| f.2.1.mask) 0
      s.postUnitFault c (s.unitFault c 0 cause q.code va m (p.2 == 3 && decide (4 < pages.length))
        (aperture a.addr == .priv) false)) s

/-- The address-fault record of an instruction some of whose accesses failed at order 7 or later: the earliest check, its lowest
lane (R18, R59). -/
def Ctx.lateFault (c : Ctx) (s : State) (fs : List (Req × Acc × Nat × Nat)) : State :=
  let least := fs.foldl (fun m f => min m f.2.2.1) 99
  match fs.filter fun f => f.2.2.1 == least with
  | [] => s
  | (q, a, _, kind) :: _ =>
    s.postUnitFault c (s.unitFault c 2 kind q.code a.addr a.mask false (aperture a.addr == .priv) true)

/-- What an instruction comes to whose accesses have been made as far as they could: complete, or parked for the lanes that
failed, on an address fault when any lane took one (R19, R57, R59, R66). -/
def Ctx.parkOn (c : Ctx) (s : State) (fs : List (Req × Acc × Reach)) (done : State → Eff) : Eff :=
  let pf := fs.filterMap fun f => match f.2.2 with
    | .page va cause => some (f.1, f.2.1, va, cause)
    | _ => none
  let af := fs.filterMap fun f => match f.2.2 with
    | .fault o k => some (f.1, f.2.1, o, k)
    | _ => none
  if pf.isEmpty && af.isEmpty then done s
  else
    let m := fs.foldl (fun m f => m ||| (if f.2.1.lanes.isEmpty then c.act else f.2.1.mask)) 0
    let s := c.lateFault (c.pageFaults s pf) af
    let code := ((fs.head?).map fun f => f.1.code).getD 0
    let pages := (pf.map fun f => f.2.2.1 / 2 ^ 16).eraseDups
    .stay s (.parked (!af.isEmpty) code pages) (some m)

/-- The slot waits for the walks of pages that no TLB holds (R52). -/
def Ctx.walkFor (c : Ctx) (s : State) (code : Nat) (pages : List Nat) : Eff :=
  let s := pages.foldl (fun s p => s.askWalk c.iss.unit c.lr.asid p) s
  .stay s (.blocked (.walk code c.lr.asid pages)) (some c.act)

/-- What the private bytes at a virtual address back (R25). -/
def Ctx.backing (c : Ctx) (va : Nat) : Backing := ⟨c.iss.unit.ident, c.lr.asid, va / 64⟩

/-- Translations that only the cluster's TLB holds enter the core's as well (R51). -/
def Ctx.promote (c : Ctx) (s : State) (pages : List Nat) : State :=
  let ts := s.tlbsOf c.iss.unit
  pages.foldl (fun s p => match s.tlbLookup ts c.lr.asid (p * 2 ^ 16) with
    | some r => s.tlbFills ts c.lr.asid (p * 2 ^ 16) r
    | none => s) s

/-- The first watched byte that writes would touch (R425): the watchpoint, the address, the lane. -/
def Ctx.watched (c : Ctx) (s : State) (xs : List (Req × Acc)) : Option (Nat × Nat × Nat) :=
  if s.dbg.watches.all (fun w => !(w.w0.getLsbD 63)) then none
  else (xs.filter fun x => x.1.code ≠ 0).findSome? fun (q, a) =>
    let lane := (a.lanes.head?).getD 127
    match aperture a.addr with
    | .scratchpad =>
      match spTarget c.iss.unit c.lr (a.addr % 2 ^ 48) 1 with
      | some (w, off) =>
        (s.watchSp c.iss.unit.ident c.iss.unit.gang w ((List.range ((c.spForm q).size q.szf)).map fun j => off + j)
          c.slot.skipWatch).map fun h => (h.1, h.2, lane)
      | none => none
    | _ => (s.watchVa c.lr.asid (c.vaBytes s q a) c.slot.skipWatch).map fun h => (h.1, h.2, lane)

end Sys2Proof.Machine
end

