-- ==== Sys2Proof/Machine/Mem.lean ====
section
/-! DEFINITION. Memory instructions: loads, stores, prefetches, atomics, compare-and-swap and ordered atomics (R308 to R321). -/

namespace Sys2Proof.Machine

open Sys2Proof

/-! ### Operands -/

/-- The operand fields of a memory instruction. -/
def memZero : MemOp := ⟨0, 0, 0, true, 0, 0, 0, false, false, none⟩
def Ctx.mo (c : Ctx) : MemOp := c.i.mem?.getD memZero
def Ctx.mrow (c : Ctx) : MemRow := c.i.memRow.getD ⟨0, .ld, true, true⟩
def Ctx.mext (c : Ctx) : MemExt := c.mo.ext.getD ⟨0, 0, 0, 0, 0, false, false, 0⟩

/-- What the instruction's accesses ask for. -/
def Ctx.memReq (c : Ctx) : Req :=
  { kind := c.mrow.kind, szf := c.mo.szf.toNat, aop := c.mext.aop.toNat, qual := c.mext.ord != 0, vdata := c.mrow.vdata }

/-- Registers of one element of data. -/
def Ctx.dataWidth (c : Ctx) : Nat := if szfSize c.mo.szf.toNat == 8 then 2 else 1

/-- The value of a data register in a lane. -/
def Ctx.dataVal (c : Ctx) (n l : Nat) : DWord :=
  c.u.runVal ⟨if c.mrow.vdata then .v else .s, n, c.dataWidth, c.dataWidth⟩ l

/-- The base pair in a lane (R16). -/
def Ctx.baseVal (c : Ctx) (l : Nat) : DWord :=
  c.u.runVal ⟨if c.mrow.vbase then .v else .s, 2 * c.mo.base.toNat, 2, 2⟩ l

/-- The sum of base and offset in a lane (R16). -/
def Ctx.memSum (c : Ctx) (l : Nat) : Int := (c.baseVal l).toNat + c.mo.off.toInt

/-- The lanes that each access of an instruction with vector data or a vector base serves (R111, R309). -/
def Ctx.laneSets (c : Ctx) : List (List Nat) := c.threads.map (laneSet c.single)

/-- The accesses of the instruction (R309, R310): one per acting thread, or one for scalar data. -/
def Ctx.accs (c : Ctx) : List Acc :=
  if c.mrow.vdata || c.mrow.vbase then c.laneSets.map fun ls => ⟨ls, c.memSum ((ls.head?).getD 0)⟩
  else [⟨[], c.memSum 0⟩]

/-- Siblings that hold different bases, or, for an integer or bit type, different operands (R32, R309, R317, R318). -/
def Ctx.memMismatch (c : Ctx) (q : Req) : Option (Nat × (Word × Word × Word)) :=
  let base := if c.mrow.vbase then c.mismatch c.baseVal else none
  let int (b : Bool) (n : BitVec 8) : Option (Nat × (Word × Word × Word)) :=
    if b && q.vdata && !(szfFloat q.szf) then c.mismatch (c.dataVal n.toNat) else none
  (base.or (int (q.kind == .st || q.kind == .atom || q.kind == .oatom) c.mo.data)).or
    ((int (q.kind == .atomr || q.kind == .cas) c.mext.xa).or (int (q.kind == .cas) c.mext.xb))

/-- The ordered-atomic misuse trap of a deterministic launch (R143, R311), by the scope as written (log entry 71). -/
def Ctx.misuse (c : Ctx) (q : Req) (xs : List Acc) : Bool :=
  c.lr.determ && (q.kind == .atom || q.kind == .atomr || q.kind == .cas) &&
  ((xs.any fun a => aperture a.addr == .global) || (q.qual && decide (2 ≤ c.mext.scope.toNat)))

/-- The subcode of that trap (R385). -/
def Req.misuseSub (q : Req) : Nat :=
  match q.kind with
  | .atomr => 1
  | .cas => 2
  | _ => 0

/-- An acquire (R122). -/
def Ctx.acquires (c : Ctx) : Bool := c.mext.ord.getLsbD 0

/-- An acquire at gang scope or wider (R122). -/
def Ctx.wideAcquire (c : Ctx) : Bool := c.acquires && decide (2 ≤ scopeOf c.u.isCox c.mext.scope.toNat)

/-- A release (R134). -/
def Ctx.releases (c : Ctx) : Bool := c.mext.ord.getLsbD 1

/-- The registers of the instruction's destination made empty in the lanes of its accesses (R170). -/
def State.emptyData (s : State) (c : Ctx) (xs : List Acc) : State :=
  let cls : RegClass := if c.mrow.vdata then .v else .s
  let m := xs.foldl (fun m a => m ||| (if a.lanes.isEmpty then BitVec.allOnes 96 else a.mask)) 0
  s.modUnit c.iss.unit fun u => (List.range c.dataWidth).foldl (fun u k => u.markEmpty cls (c.mo.data.toNat + k) m) u

/-- The register writes of values by lane; `v` gives the value of the `k`-th lane, `lane`. -/
def dataWrites (vdata : Bool) (reg szf : Nat) (lanes : List Nat) (v : Nat → Nat → DWord) : List RegWrite :=
  let cls : RegClass := if vdata then .v else .s
  (if lanes.isEmpty then [0] else lanes).zipIdx.flatMap fun x =>
    ⟨cls, reg, x.1, (v x.2 x.1).extractLsb' 0 32⟩ ::
      (if szfSize szf == 8 then [⟨cls, reg + 1, x.1, (v x.2 x.1).extractLsb' 32 32⟩] else [])

/-! ### The course of a memory instruction (R18, R19, R52, R57) -/

/-- An access whose bytes have been found: what it asks for, its lanes and address, its locations, and the memory types of their pages
(none in the scratchpad). -/
structure Found where
  q : Req
  a : Acc
  locs : List Loc
  mts : List Nat
  deriving DecidableEq, Repr

/-- The accesses that pass every check are made by `perform`; the others leave the slot parked. -/
def Ctx.perform (c : Ctx) (s : State) (xs : List (Req × Acc)) (perform : State → List Found → State) (done : State → Eff) : Eff :=
  let s := c.promote s ((xs.flatMap fun x => c.pages s x.1 x.2).eraseDups)
  let rs := xs.map fun x => (x.1, x.2, c.reach s x.1 x.2)
  let s := perform s (rs.filterMap fun x => match x.2.2 with
    | .ok locs mts => some ⟨x.1, x.2.1, locs, mts⟩
    | _ => none)
  c.parkOn s (rs.filter fun x => match x.2.2 with
    | .ok .. => false
    | _ => true) done

/-- A memory instruction other than a prefetch: sibling comparison, the checks of order 1 to 5, misuse, watchpoints, translation,
then its accesses. -/
def memOp (i : Instr) (perform : Ctx → State → List Found → State) (s : State) : Out :=
  s.issue i fun c s =>
    let q := c.memReq
    let xs := c.accs.map fun a => (q, a)
    match c.memMismatch q with
    | some (l, x) => .mismatch l x
    | none =>
      match c.prechecks xs with
      | some f => c.precheckEff s f
      | none =>
        if c.misuse q c.accs then .trap (TrapInfo.of 9 q.misuseSub)
        else match c.watched s xs with
        | some (n, addr, lane) => .watch n addr lane
        | none =>
          let s := match q.kind with
            | .ld | .atomr | .cas => s.emptyData c c.accs
            | _ => s
          match c.missing s xs with
          | p :: ps => c.walkFor s q.code (p :: ps)
          | [] => c.perform s xs (perform c) .done

/-! ### Scratchpad passes (R86 to R88) -/

/-- What one lane of an instruction does in the scratchpad: the lane, the bytes it touches, the bytes it stores. -/
structure Piece where
  lane : Nat
  locs : List Loc
  bytes : List Byte
  deriving DecidableEq, Repr

/-- The word of the scratchpad that a piece begins in, and its bank (R86). -/
def Piece.word (p : Piece) : Nat :=
  match p.locs.head? with
  | some (.sp _ _ _ off) => off / 4
  | _ => 0
def Piece.bank (p : Piece) : Nat := p.word % 32

/-- The pass of its base pass that serves a piece: the place of its word among the distinct words of its bank, in the order of the
lanes (R87, log entry 102). -/
def Piece.turn (ps : List Piece) (p : Piece) : Nat :=
  ((ps.filter fun x => x.bank == p.bank).map Piece.word).eraseDups.findIdx fun w => w == p.word

/-- The passes of an instruction with elements of `e` bytes: base passes over 32 lanes, 16 for elements of 8 bytes, each as often as
a bank has distinct words (R87). -/
def spPasses (e : Nat) (ps : List Piece) : List (List Piece) :=
  let per := if e = 8 then 16 else 32
  ((List.range 6).flatMap fun b =>
    let mine := ps.filter fun p => p.lane / per == b
    (List.range mine.length).map fun k => mine.filter fun p => p.turn mine == k).filter fun g => !g.isEmpty

/-- The port through which a unit's accesses of a workgroup's scratchpad pass (R88): its partition, or the cox core, at the core of
the workgroup. -/
def Ctx.spPort (c : Ctx) (s : State) (ls : List Loc) : Nat :=
  let r := c.iss.unit
  let core := match ls.head? with
    | some (.sp i g w _) => 4 * s.clusterOf r + s.coreOf i g w
    | _ => 0
  6 * core + match c.u with
    | .crew x => (x.place.map Place.part).getD 0
    | .cox _ => 5

/-- A requester of a scratchpad has been served. -/
def State.passTaken (s : State) (port : Option Nat) : State :=
  match port with
  | some p => { s with caches := { s.caches with turns := tset 0 s.caches.turns (p / 6) (p % 6) } }
  | none => s

/-- The lanes of an access, 0 for scalar data. -/
def Acc.lanesOr (a : Acc) : List Nat := if a.lanes.isEmpty then [0] else a.lanes

/-- What each lane of an access does in the scratchpad: in the triple form its own element, else the one element of the access, which is
stored once, with the first lane (R87). -/
def Form.pieces (f : Form) (e : Nat) (a : Acc) (locs : List Loc) (bs : List Byte) : List Piece :=
  a.lanesOr.zipIdx.map fun x => match f with
    | .each => ⟨x.1, (locs.drop (x.2 * e)).take e, (bs.drop (x.2 * e)).take e⟩
    | _ => ⟨x.1, locs, if x.2 = 0 then bs else []⟩

/-! ### Loads (R89, R90, R312) -/

/-- Private bytes read through the cache, in order, with the virtual address of each (R27), and whether a line failed its check. -/
def State.privReads (s : State) (cache : Nat) : List (Loc × Backing) → (List Byte × Option Nat) × State
  | [] => (([], none), s)
  | (.mem pa, o) :: r =>
    let ((b, bad), s) := s.privRead cache pa o
    let ((bs, f), s) := s.privReads cache r
    ((b :: bs, if bad then some (64 * (pa / 64)) else f), s)
  | _ :: r =>
    let ((bs, f), s) := s.privReads cache r
    ((0 :: bs, f), s)

/-- The byte at a location as a cache's own line gives it; none where it holds no line. -/
def State.l1Byte (s : State) (cache : Nat) (l : Loc) : Option Byte :=
  match l with
  | .mem pa => (s.l1Find cache (pa / 64)).map fun x => x.data.getD (pa % 64) 0
  | _ => none

/-- The first line of a cache among locations that fails its check. -/
def State.l1Bad (s : State) (cache : Nat) (ls : List Loc) : Option Nat :=
  ls.findSome? fun l => match l with
    | .mem pa => if ((s.l1Find cache (pa / 64)).map L1Line.bad).getD false then some (64 * (pa / 64)) else none
    | _ => none

/-- The lines of locations of memory. -/
def locLines (ls : List Loc) : List Nat := (ls.filterMap Loc.line).eraseDups

/-- The lines of an access on Normal pages, which the L1 may hold (R47, R89). -/
def Found.normalLines (x : Found) : List Nat :=
  locLines ((x.locs.zip x.mts).filterMap fun y => if y.2 = 0 then some y.1 else none)

/-- A location lies in one of a list of lines. -/
def Loc.within (l : Loc) (ns : List Nat) : Bool := (l.line.map fun n => ns.contains n).getD false

/-- Counter bytes as wide as the access (R36). -/
def ctrLocs (ls : List Loc) (e : Nat) : List Loc :=
  match ls with
  | [.ctr i] => List.replicate e (.ctr i)
  | _ => ls

/-- The load that an instruction's access makes, with no byte read yet. -/
def Ctx.loadOp (c : Ctx) (s : State) (n : Nat) (q : Req) (lanes : List Nat) (form : Form) (locs : List Loc) : LoadOp :=
  { id := n, unit := c.iss.unit, cache := s.cacheOf c.iss.unit, vdata := q.vdata, reg := c.mo.data.toNat, lanes := lanes, szf := q.szf
    form := form, locs := locs, got := locs.map fun _ => none, alloc := [], acquire := c.acquires, wide := c.wideAcquire
    fail := none, port := none, tied := false }

/-- A load in flight. -/
def State.addLoad (s : State) (o : LoadOp) : State := { s with flight := { s.flight with loads := s.flight.loads ++ [o] } }

/-- Lines of other packages are asked of them (R37, R403). -/
def State.askLines (s : State) (ls : List Loc) : State :=
  let far := (locLines ls).filter fun n => paPkg (64 * n) != s.pkg
  { s with outputs := s.outputs ++ far.map fun n => .remoteRequest (paPkg (64 * n)) (paLocal (64 * n)) 64 }

/-- The global bytes of an access: their virtual and physical addresses. -/
def Ctx.vaPas (c : Ctx) (s : State) (x : Found) : List (Nat × Nat) :=
  ((c.vaBytes s x.q x.a).zip x.locs).filterMap fun y => match y.2 with
    | .mem pa => some (y.1, pa)
    | _ => none

/-- The load of one access outside the scratchpad. -/
def Ctx.loadOne (c : Ctx) (s : State) (x : Found) : State :=
  let r := c.iss.unit
  let cache := s.cacheOf r
  let cp := c.mo.cp.toNat
  let locs := ctrLocs x.locs (szfSize x.q.szf)
  let form := c.formOf s x.q x.a
  let (n, s) := s.newId
  let op := c.loadOp s n x.q x.a.lanes form locs
  match aperture x.a.addr with
  | .priv =>
    let ((bs, bad), s) := s.privReads cache (locs.zip ((c.vaBytes s x.q x.a).map c.backing))
    s.addLoad { op with got := bs.map some, fail := bad.map fun pa => (some pa, 0) }
  | _ =>
    let near := if x.q.qual || cp == 2 then [] else x.normalLines
    let s := if cp == 2 then (locLines locs).foldl (fun s n => s.l1Drop cache n) s else s
    let got := locs.map fun l => if l.within near then s.l1Byte cache l else none
    let bad := s.l1Bad cache (locs.filter fun l => l.within near)
    let s := near.foldl (fun s n => s.l1Touch cache n) s
    let missing := ((c.vaPas s x).zip got).filterMap fun y => if y.2.isNone then some y.1 else none
    let s := s.reachLines c.lr.asid (s.clusterOf r) missing (rankOf cp false)
    let s := s.askLines (missing.map fun y => .mem y.2)
    s.addLoad { op with got := got, alloc := if cp == 0 || cp == 3 then near else [], fail := bad.map fun pa => (some pa, 0) }

/-- The three lanes of a thread share one value of an access in the scratchpad: an integer type, or a form other than the triple one
(R32, R33, R87). -/
def Ctx.tiesLanes (c : Ctx) (q : Req) : Bool := !c.single && !c.u.isCox && q.vdata && c.spForm q != .each

/-- The passes of a scratchpad load. -/
def Ctx.loadPasses (c : Ctx) (s : State) (xs : List Found) : State :=
  let e := xs.head?.map fun x => szfSize x.q.szf
  let ps := xs.flatMap fun x => (c.spForm x.q).pieces (szfSize x.q.szf) x.a x.locs []
  match xs.head? with
  | none => s
  | some x =>
    let form := if c.spForm x.q == .meanDigits then Form.eachDigits else .each
    (spPasses (e.getD 4) ps).foldl (fun s g =>
      let (n, s) := s.newId
      let locs := g.flatMap Piece.locs
      s.addLoad { c.loadOp s n x.q (if x.a.lanes.isEmpty then [] else g.map Piece.lane) form locs with
        port := some (c.spPort s locs), tied := c.tiesLanes x.q }) s

/-- The accesses of an instruction in the scratchpad, and the others. -/
def inScratchpad (xs : List Found) : List Found := xs.filter fun x => aperture x.a.addr == .scratchpad
def outsideScratchpad (xs : List Found) : List Found := xs.filter fun x => aperture x.a.addr != .scratchpad

/-- The loads of an instruction's accesses. -/
def loadAll (c : Ctx) (s : State) (xs : List Found) : State :=
  (outsideScratchpad xs).foldl c.loadOne (c.loadPasses s (inScratchpad xs))

/-- R312. -/
def execLdVV (o : MemOp) (s : State) : Out := memOp (.ldVV o) loadAll s
/-- R312. -/
def execLdVS (o : MemOp) (s : State) : Out := memOp (.ldVS o) loadAll s
/-- R312. -/
def execLdSS (o : MemOp) (s : State) : Out := memOp (.ldSS o) loadAll s

/-! ### Stores (R89, R92, R313) -/

/-- A store in flight. -/
def State.addStore (s : State) (o : StoreOp) : State := { s with flight := { s.flight with stores := s.flight.stores ++ [o] } }

/-- Bytes split where they pass from one line to the next. -/
def splitLines : List (Nat × Byte) → List (List (Nat × Byte))
  | [] => []
  | b :: r =>
    match splitLines r with
    | [] => [[b]]
    | g :: gs => match g.head? with
      | some x => if x.1 / 64 = b.1 / 64 && x.1 = b.1 + 1 then (b :: g) :: gs else [b] :: g :: gs
      | none => [b] :: gs

/-- The bytes of a store to one line sent to its home slice (R92): of this package, or across the fabric in the unit's run of remote
stores (R406). -/
def Ctx.sendPiece (c : Ctx) (s : State) (g : List (Nat × Byte)) : State :=
  match g.head? with
  | none => s
  | some b =>
    let r := c.iss.unit
    let (n, s) := s.newId
    let remote := paPkg b.1 != s.pkg
    let s := s.addStore ⟨n, r, s.cacheOf r, g.map fun b => .mem b.1, g, none, remote, none, [], rankOf c.mo.cp.toNat true⟩
    if remote then
      let (key, s) := s.runStream r
      s.sendPacket key (paPkg b.1) (s.homeSlice b.1) (.write (paLocal b.1) (g.map Prod.snd)) (.store n)
    else s

/-- The bytes of a store sent to their home slices, one piece for each line (R33). -/
def Ctx.sendStore (c : Ctx) (s : State) (bytes : List (Nat × Byte)) : State := (splitLines bytes).foldl c.sendPiece s

/-- A store, or raises, with no bytes of its own in this package's memory. -/
def Ctx.bareStore (c : Ctx) (s : State) (n : Nat) (locs : List Loc) (raise : Option (Nat × List Word × Bool)) (remote : Bool) : StoreOp :=
  ⟨n, c.iss.unit, s.cacheOf c.iss.unit, locs, [], raise, remote, none, [], Rank.plain⟩

/-- Raises of a trigger counter by a unit (R36, R316, R334), those of its lanes together: unacknowledged until its trigger unit has accepted
them; of another package's, each a packet. -/
def Ctx.sendRaise (c : Ctx) (s : State) (pkg idx : Nat) (vs : List Word) (release : Bool) : State :=
  if pkg = s.pkg then
    let (n, s) := s.newId
    s.addStore (c.bareStore s n [.ctr idx] (some (idx, vs, release)) false)
  else
    vs.foldl (fun (s : State) v =>
      let (n, s) := s.newId
      let s := s.addStore (c.bareStore s n [] none true)
      let (key, s) := s.runStream c.iss.unit
      s.sendPacket key pkg 48 (.increment idx v release) (.store n)) s

/-- The values of an access's lanes. -/
def Acc.vals (a : Acc) (f : Nat → DWord) : List DWord := a.lanesOr.map f

/-- The bytes that an access stores, in the order of its locations. -/
def Ctx.bytesOf (c : Ctx) (s : State) (x : Found) : List Byte :=
  (c.formOf s x.q x.a).store x.q.szf (x.a.vals fun l => c.dataVal c.mo.data.toNat l)

/-- The store of an access's bytes outside the scratchpad. -/
def Ctx.storeOne (c : Ctx) (s : State) (x : Found) (bs : List Byte) : State :=
  let r := c.iss.unit
  let cache := s.cacheOf r
  match aperture x.a.addr, x.locs with
  | .priv, locs =>
    ((locs.zip bs).zip (c.vaBytes s x.q x.a)).foldl (fun s y => match y.1.1 with
      | .mem pa => s.privWrite cache pa y.1.2 (c.backing y.2)
      | _ => s) s
  | _, [.ctr idx] => c.sendRaise s (paPkg (c.firstPa s x.q x.a)) idx [BitVec.ofNat 32 (leNat (bs.take 4))] c.releases
  | _, locs =>
    let bytes := (locs.zip bs).filterMap fun y => match y.1 with
      | .mem pa => some (pa, y.2)
      | _ => none
    let s := s.reachLines c.lr.asid (s.clusterOf r) (c.vaPas s x) (rankOf c.mo.cp.toNat true)
    let near := x.normalLines
    c.sendStore (s.l1Update cache (bytes.filter fun b => near.contains (b.1 / 64))) bytes

/-- The passes of a scratchpad store of accesses with their bytes. -/
def Ctx.storePasses (c : Ctx) (s : State) (xs : List (Found × List Byte)) : State :=
  let e := xs.head?.map fun x => szfSize x.1.q.szf
  let ps := xs.flatMap fun x => (c.spForm x.1.q).pieces (szfSize x.1.q.szf) x.1.a x.1.locs x.2
  (spPasses (e.getD 4) ps).foldl (fun s g =>
    let (n, s) := s.newId
    let r := c.iss.unit
    let locs := g.flatMap Piece.locs
    s.addStore ⟨n, r, s.cacheOf r, locs, [], none, false, some (c.spPort s locs), g.flatMap fun p => p.locs.zip p.bytes, Rank.plain⟩) s

/-- The stores of accesses with their bytes. -/
def Ctx.storeEach (c : Ctx) (s : State) (xs : List (Found × List Byte)) : State :=
  let sp (x : Found × List Byte) : Bool := aperture x.1.a.addr == .scratchpad
  (xs.filter fun x => !(sp x)).foldl (fun s x => c.storeOne s x.1 x.2) (c.storePasses s (xs.filter sp))

/-- The stores of an instruction's accesses. -/
def storeAll (c : Ctx) (s : State) (xs : List Found) : State := c.storeEach s (xs.map fun x => (x, c.bytesOf s x))

/-- R313. -/
def execStVV (o : MemOp) (s : State) : Out := memOp (.stVV o) storeAll s
/-- R313. -/
def execStVS (o : MemOp) (s : State) : Out := memOp (.stVS o) storeAll s
/-- R313. -/
def execStSS (o : MemOp) (s : State) : Out := memOp (.stSS o) storeAll s

/-! ### Prefetches (R315) -/

/-- A line that a core's cache may take in: it does not hold it, and nothing of the core that bypasses the cache is on its way to it
(R89, R126). -/
def State.mayFill (s : State) (cache line : Nat) : Bool :=
  let here (ls : List Loc) : Bool := ls.any fun l => l.line == some line
  (s.l1Find cache line).isNone &&
  !(s.flight.atomics.any fun o => o.cache == cache && here (o.lanes.map AtomLane.loc)) &&
  !(s.flight.stores.any fun o => o.cache == cache && o.bytes.isEmpty && here o.locs)

/-- The walk queue of a die is full (R51, R52). -/
def State.walksFull (s : State) (die : Nat) : Bool :=
  decide (1024 + 64 ≤ (s.caches.walks.filter fun w => w.cluster / 12 == die).length)

/-- The prefetch of one access: dropped unless it names a Normal page that translates, and while the walk queue of the die is full. -/
def prefetchOne (c : Ctx) (s : State) (q : Req) (a : Acc) : State :=
  let r := c.iss.unit
  let cl := s.clusterOf r
  let cache := s.cacheOf r
  if (c.precheck q a).isSome || aperture a.addr != .global then s
  else
    let ts := s.tlbsOf r
    if (s.tlbLookup ts c.lr.asid a.addr).isNone && s.walksFull (cl / 12) then s
    else
      match s.translate (s.asker r) ts (cl / 12) c.lr.asid a.addr with
      | (.ok frame mt _ _ _ _, s) =>
        let pa := onPage frame a.addr
        let line := pa / 64
        if mt ≠ 0 || !(s.backed pa) || targetOf (paLocal pa) == .trigger then s
        else
          let s := (s.reachL2 c.lr.asid cl a.addr pa (rankOf c.mo.cp.toNat false)).askLines [.mem pa]
          if (c.mo.cp == 0 || c.mo.cp == 3) && s.mayFill cache line then
            s.fillLine cache line
          else s
      | (.fault _, s) => s

/-- A prefetch. -/
def prfOp (i : Instr) (s : State) : Out :=
  s.issue i fun c s =>
    let q := c.memReq
    match c.memMismatch q with
    | some (l, x) => .mismatch l x
    | none => .done (c.accs.foldl (fun s a => prefetchOne c s q a) s)

/-- R315. -/
def execPrfV (o : MemOp) (s : State) : Out := prfOp (.prfV o) s
/-- R315. -/
def execPrfS (o : MemOp) (s : State) : Out := prfOp (.prfS o) s

/-! ### Atomics and compare-and-swap (R116, R316 to R319) -/

/-- A rounding direction by its code. -/
def dirOf (d : Nat) : Dir :=
  match d with
  | 0 => .down
  | 1 => .up
  | 2 => .near
  | _ => .zero

/-- The new value of a location (R316, R318): AOP 7 is compare-and-swap. -/
def atomNew (a : RemoteAtomic) (old : Nat) : Nat :=
  let n := 8 * szfSize a.szf
  let v := a.operand.toNat % 2 ^ n
  let sgn := a.szf == 5 || a.szf == 7
  let le (x y : Nat) : Bool := if sgn then decide (signed n x ≤ signed n y) else decide (x ≤ y)
  if szfFloat a.szf then
    let f := szfFmt a.szf
    match a.aop with
    | 0 => (f.add (dirOf a.dir) old v).1
    | 1 => (f.minMax false old v).1
    | _ => (f.minMax true old v).1
  else match a.aop with
    | 0 => (old + v) % 2 ^ n
    | 1 => if le old v then old else v
    | 2 => if le old v then v else old
    | 3 => old &&& v
    | 4 => old ||| v
    | 5 => old ^^^ v
    | 6 => v
    | _ => if old == a.compare.toNat % 2 ^ n then v else old

/-- The `e` locations from one on. -/
def locRun (l : Loc) (e : Nat) : List Loc :=
  (List.range e).map fun j => match l with
    | .mem pa => .mem (pa + j)
    | .sp i g w off => .sp i g w (off + j)
    | .acc i g w off => .acc i g w (off + j)
    | .ctr i => .ctr i

/-- A read-modify-write of one location at its point of coherence: the old value (R116, R117). A counter is raised (R36). -/
def State.atomAt (s : State) (l : Loc) (a : RemoteAtomic) : Nat × State :=
  let e := szfSize a.szf
  let ls := locRun l e
  let old := leNat (s.rdLocs ls)
  match l with
  | .ctr i => (old, s.raiseCtr i (a.operand.extractLsb' 0 32))
  | _ => (old, if a.aop = 7 && old != a.compare.toNat % 2 ^ (8 * e) then s else s.wrLocs ls (leBytes e (atomNew a old)))

/-- What an atomic does at each of its locations: one, or one for each sibling of a float element (R317); a float addition with
scalar data rounds to nearest even. -/
def Ctx.atomLanes (c : Ctx) (q : Req) (a : Acc) (locs : List Loc) : List (List Nat × Loc × RemoteAtomic) :=
  let e := szfSize q.szf
  let lanes := if a.lanes.isEmpty then [0] else a.lanes
  let opnd (l : Nat) : DWord := match q.kind with
    | .atomr => c.dataVal c.mext.xa.toNat l
    | .cas => c.dataVal c.mext.xb.toNat l
    | _ => c.dataVal c.mo.data.toNat l
  let one (l : Nat) : RemoteAtomic :=
    { aop := if q.kind == .cas then 7 else q.aop, szf := q.szf, operand := opnd l
      compare := if q.kind == .cas then c.dataVal c.mext.xa.toNat l else 0
      dir := if szfFloat q.szf && q.vdata then (match c.dir l 0 with
        | .down => 0
        | .up => 1
        | .near => 2
        | .zero => 3) else 2 }
  if c.tripleFloat q then lanes.zipIdx.filterMap fun x => (locs[x.2 * e]?).map fun l => ([x.1], l, one x.1)
  else match locs with
    | l :: _ => [(lanes, l, one (lanes.head?.getD 0))]
    | [] => []

/-- Steps of an instruction's atomics at one location, in ascending lane order (R116, R316): the location and, for each step, the
lanes that receive the old value. -/
abbrev AtomSteps := Loc × List (List Nat × RemoteAtomic)

/-- A step joins the steps at its location. -/
def joinStep (gs : List AtomSteps) (x : List Nat × Loc × RemoteAtomic) : List AtomSteps :=
  if gs.any fun g => g.1 == x.2.1 then gs.map fun g => if g.1 == x.2.1 then (g.1, g.2 ++ [(x.1, x.2.2)]) else g
  else gs ++ [(x.2.1, [(x.1, x.2.2)])]

/-- What an instruction does at each distinct location that its accesses name. -/
def Ctx.atomSteps (c : Ctx) (xs : List Found) : List AtomSteps :=
  (xs.flatMap fun x => c.atomLanes x.q x.a x.locs).foldl joinStep []

/-- A step as an atomic in flight keeps it. -/
def atomLane (loc : Loc) (st : List Nat × RemoteAtomic) : AtomLane := ⟨st.1, loc, st.2.operand, st.2.compare, st.2.dir, none⟩

/-- An atomic in flight, of lanes at one location or of one pass: performed at the scratchpad, at this package's home slice, or, when a
value comes back, at another package's (R37, R117). `batch` is the serial of the instruction's first pass. -/
def Ctx.addAtom (c : Ctx) (s : State) (q : Req) (port batch : Option Nat) (ls : List AtomLane) : State :=
  let (n, s) := s.newId
  let op : AtomOp :=
    { id := n, unit := c.iss.unit, cache := s.cacheOf c.iss.unit, aop := if q.kind == .cas then 7 else q.aop, szf := q.szf
      ret := q.kind != .atom, vdata := q.vdata, reg := c.mo.data.toNat, acquire := c.acquires, wide := c.wideAcquire, port := port
      lanes := ls, batch := batch.getD n, held := [], rank := rankOf c.mo.cp.toNat true }
  { s with flight := { s.flight with atomics := s.flight.atomics ++ [op] } }

/-- The atomic of one location outside the scratchpad: packets to another package when no value comes back, else an atomic in flight. -/
def Ctx.atomOne (c : Ctx) (q : Req) (s : State) (g : AtomSteps) : State :=
  let here (s : State) : State := c.addAtom s q none none (g.2.map fun st => atomLane g.1 st)
  match g.1, q.kind == .atom with
  | .mem pa, true =>
    if paPkg pa = s.pkg then here s
    else
      let (n, s) := s.newId
      let s := s.addStore (c.bareStore s n (locRun g.1 (szfSize q.szf)) none true)
      let (key, s) := s.runStream c.iss.unit
      g.2.foldl (fun s st => s.sendPacket key (paPkg pa) (s.homeSlice pa) (.atomic (paLocal pa) st.2) (.store n)) s
  | _, _ => here s

/-- The lane, word and bank of an atomic's step in the scratchpad. -/
def AtomLane.lane (x : AtomLane) : Nat := (x.dests.head?).getD 0
def AtomLane.word (x : AtomLane) : Nat :=
  match x.loc with
  | .sp _ _ _ off => off / 4
  | _ => 0

/-- The steps of a base pass at a step's location in lower lanes, each of which takes a pass of its own (R87). -/
def AtomLane.before (ps : List AtomLane) (x : AtomLane) : Nat := (ps.filter fun y => y.loc == x.loc && decide (y.lane < x.lane)).length

/-- The passes that a word of a base pass takes: as many as the steps at the location that most of them name. -/
def wordPasses (ps : List AtomLane) (w : Nat) : Nat :=
  (ps.filter fun x => x.word == w).foldl (fun m x => max m (x.before ps + 1)) 0

/-- The pass of its base pass that serves a step: those of the words of its bank that the lanes name first come before (log entry 102). -/
def AtomLane.turn (ps : List AtomLane) (x : AtomLane) : Nat :=
  let words := ((ps.filter fun y => y.word % 32 == x.word % 32).map AtomLane.word).eraseDups
  ((words.takeWhile fun w => w != x.word).foldl (fun n w => n + wordPasses ps w) 0) + x.before ps

/-- The passes of a scratchpad atomic with elements of `e` bytes (R87). -/
def atomPasses (e : Nat) (ls : List AtomLane) : List (List AtomLane) :=
  let per := if e = 8 then 16 else 32
  ((List.range 6).flatMap fun b =>
    let mine := ls.filter fun x => x.lane / per == b
    (List.range mine.length).map fun k => mine.filter fun x => x.turn mine == k).filter fun g => !g.isEmpty

/-- The atomics of an instruction's accesses in the scratchpad, a pass at a time. -/
def Ctx.atomSp (c : Ctx) (s : State) (q : Req) (xs : List Found) : State :=
  let ls := xs.flatMap fun x => (c.atomLanes x.q x.a x.locs).map fun y => atomLane y.2.1 (y.1, y.2.2)
  let first := s.nextId
  (atomPasses (szfSize q.szf) ls).foldl (fun s g => c.addAtom s q (some (c.spPort s (g.map AtomLane.loc))) (some first) g) s

/-- The counter that a no-return atomic raises. -/
def Found.raises (x : Found) : Option Nat :=
  match x.locs, x.q.kind == .atom with
  | [.ctr idx], true => some idx
  | _, _ => none

/-- The atomics of an instruction's accesses (R36, R89, R316): the core's copies of their lines are dropped, counters are raised, and
the rest go to their points of coherence. -/
def atomAll (c : Ctx) (s : State) (xs : List Found) : State :=
  let cache := s.cacheOf c.iss.unit
  let cl := s.clusterOf c.iss.unit
  let s := (locLines (xs.flatMap Found.locs)).foldl (fun s n => s.l1Drop cache n) s
  let s := xs.foldl (fun s x => s.reachLines c.lr.asid cl (c.vaPas s x) (rankOf c.mo.cp.toNat true)) s
  let rs := xs.filterMap fun x => x.raises.map fun idx =>
    ((paPkg (c.firstPa s x.q x.a), idx), (c.dataVal c.mo.data.toNat x.a.lane).extractLsb' 0 32)
  let s := (rs.map Prod.fst).eraseDups.foldl (fun (s : State) k =>
    c.sendRaise s k.1 k.2 ((rs.filter fun r => r.1 == k).map Prod.snd) c.releases) s
  let s := c.atomSp s c.memReq (inScratchpad xs)
  (c.atomSteps ((outsideScratchpad xs).filter fun x => x.raises.isNone)).foldl (c.atomOne c.memReq) s

/-- R316. -/
def execAtomVV (o : MemOp) (s : State) : Out := memOp (.atomVV o) atomAll s
/-- R316. -/
def execAtomVS (o : MemOp) (s : State) : Out := memOp (.atomVS o) atomAll s
/-- R316. -/
def execAtomSS (o : MemOp) (s : State) : Out := memOp (.atomSS o) atomAll s
/-- R316. -/
def execAtomrVV (o : MemOp) (s : State) : Out := memOp (.atomrVV o) atomAll s
/-- R316. -/
def execAtomrVS (o : MemOp) (s : State) : Out := memOp (.atomrVS o) atomAll s
/-- R316. -/
def execAtomrSS (o : MemOp) (s : State) : Out := memOp (.atomrSS o) atomAll s
/-- R318. -/
def execCasVV (o : MemOp) (s : State) : Out := memOp (.casVV o) atomAll s
/-- R318. -/
def execCasVS (o : MemOp) (s : State) : Out := memOp (.casVS o) atomAll s
/-- R318. -/
def execCasSS (o : MemOp) (s : State) : Out := memOp (.casSS o) atomAll s

/-! ### Ordered atomics (R137, R320, R321) -/

/-- One ordered update sent to its home slice (R137, R139). -/
def Ctx.oatomStep (c : Ctx) (q : Req) (t : Nat) (s : State) (st : List Nat × Loc × RemoteAtomic) : State :=
  match st.2.1 with
  | .mem x =>
    let r := c.iss.unit
    let (n, s) := s.newId
    let remote := paPkg x != s.pkg
    let dir := if c.tripleFloat q then st.2.2.dir else 2
    let round := c.u.scal.round.toNat
    let up : OUpdate :=
      { id := n, unit := r, pa := x, aop := q.aop, szf := q.szf, operand := st.2.2.operand, dir := dir, kclass := 0
        issuer := (c.tid t).toNat, icount := c.icount t, elempos := 0, round := round, slice := s.homeSlice x
        place := .sent, remote := remote, copy := none }
    let s : State := { s with flight := { s.flight with updates := s.flight.updates ++ [up] } }
    if remote then
      let (key, s) := s.runStream r
      s.sendPacket key (paPkg x) (s.homeSlice x)
        (.ordered (paLocal x) { st.2.2 with dir := dir } 0 (c.tid t).toNat (c.icount t) 0 round) (.store n)
    else s
  | _ => s

/-- The updates of one access: one for an integer type, one for each sibling of a float element (R137). -/
def Ctx.oatomOne (c : Ctx) (s : State) (x : Found) : State :=
  let s := (locLines x.locs).foldl (fun s n => s.l1Drop (s.cacheOf c.iss.unit) n) s
  let s := s.reachLines c.lr.asid (s.clusterOf c.iss.unit) (c.vaPas s x) (rankOf c.mo.cp.toNat true)
  (c.atomLanes x.q x.a x.locs).foldl (c.oatomStep x.q (threadOf c.single x.a.lane)) s

/-- The ordered updates of an instruction's accesses. -/
def oatomAll (c : Ctx) (s : State) (xs : List Found) : State := xs.foldl c.oatomOne s

/-- R320. -/
def execOatomVV (o : MemOp) (s : State) : Out := memOp (.oatomVV o) oatomAll s
/-- R320. -/
def execOatomVS (o : MemOp) (s : State) : Out := memOp (.oatomVS o) oatomAll s

end Sys2Proof.Machine
end

