-- ==== Sys2Proof/Machine/Flight.lean ====
section
/-! DEFINITION. Operations in flight as they reach their points of coherence: loads return, stores are accepted, atomics are performed, raises take their places, and fetch blocks arrive (R69 to R71, R92, R114 to R117, R134, R312). -/

namespace Sys2Proof.Machine

open Sys2Proof

/-! ### Order of one cache's requests (R122) -/

/-- Two lists of locations share one. -/
def overlaps (a b : List Loc) : Bool := a.any fun x => b.contains x

/-- The locations of an atomic in flight. -/
def AtomOp.locs (o : AtomOp) : List Loc := o.lanes.flatMap fun x => locRun x.loc (szfSize o.szf)

/-- The locations whose bytes a load has still to read. -/
def LoadOp.missing (o : LoadOp) : List Loc := (o.locs.zip o.got).filterMap fun x => if x.2.isNone then some x.1 else none

/-- An earlier request of the same core or cox core that writes one of the locations has not been performed. -/
def State.writePending (s : State) (cache id : Nat) (ls : List Loc) : Bool :=
  (s.flight.stores.any fun o => o.cache == cache && decide (o.id < id) && overlaps o.locs ls) ||
  (s.flight.atomics.any fun o => o.cache == cache && decide (o.id < id) && overlaps o.locs ls)

/-- An earlier load of the same core or cox core has still to read one of the locations. -/
def State.readPending (s : State) (cache id : Nat) (ls : List Loc) : Bool :=
  s.flight.loads.any fun o => o.cache == cache && decide (o.id < id) && overlaps o.missing ls

/-- A scratchpad pass to be served (R88): its serial, its port, the locations it touches, whether it writes, and whether it is one of an
atomic with other passes at one of its locations (R316). -/
structure Pass where
  id : Nat
  port : Nat
  locs : List Loc
  writes : Bool
  holds : Bool
  deriving DecidableEq, Repr

/-- The passes of a copy's step that have still to be served. -/
def CopyReq.passes (q : CopyReq) : List CopyPass :=
  match q.job with
  | some j => j.reads ++ j.writes
  | none => []

/-- A pass of a copy's step that writes. -/
def CopyPass.writes (p : CopyPass) : Bool := !p.bytes.isEmpty

/-- Another pass of the same instruction has a step at a location of an atomic's pass. -/
def State.sharesPass (s : State) (o : AtomOp) : Bool :=
  s.flight.atomics.any fun x => x.batch == o.batch && x.id != o.id && x.port.isSome && overlaps x.locs o.locs

/-- The scratchpad passes to be served: of crews and cox cores, and of the copy engine. -/
def State.spQueue (s : State) : List Pass :=
  (s.flight.loads.filterMap fun o => o.port.map fun p => ⟨o.id, p, o.locs, false, false⟩) ++
  (s.flight.stores.filterMap fun o => o.port.map fun p => ⟨o.id, p, o.locs, true, false⟩) ++
  (s.flight.atomics.filterMap fun o => o.port.map fun p => ⟨o.id, p, o.locs, true, s.sharesPass o⟩) ++
  s.eng.copies.flatMap fun q => q.passes.map fun p => ⟨p.id, p.port, p.locs, p.writes, false⟩

/-- How many requesters come before requester `q` in the rotation after `last` (R88). -/
def rotation (last q : Nat) : Nat := (q + 5 - last) % 6

/-- An atomic of another port has made some of its steps at a location and has others to make there: no write of that location falls
between, and no other atomic of several passes begins (R316, log entry 102). -/
def State.inAtomic (s : State) (x : Pass) : Bool :=
  x.writes && s.flight.atomics.any fun o => match o.port with
    | some p => p != x.port && p / 6 == x.port / 6 && !o.held.isEmpty && (x.holds || overlaps o.held x.locs)
    | none => false

/-- A pass may be served: it is the oldest of its port, and it does not write between the steps of an atomic (R88, R316). -/
def State.passFree (s : State) (q : List Pass) (x : Pass) : Bool :=
  (q.all fun y => decide (x.id ≤ y.id) || y.port != x.port) && !(s.inAtomic x)

/-- A pass is served next: it may be, and no port of its core that has one that may be comes earlier in the rotation (R88). -/
def State.passNext (s : State) (id port : Nat) : Bool :=
  let q := s.spQueue
  let last := tget 0 s.caches.turns (port / 6)
  q.any fun x => x.id == id && x.port == port && s.passFree q x &&
    q.all fun y => !(s.passFree q y) || y.port / 6 != port / 6 || y.id == id ||
      decide (rotation last (port % 6) < rotation last (y.port % 6))

/-- A load may return. -/
def State.loadReady (s : State) (o : LoadOp) : Bool :=
  match o.port with
  | some p => s.passNext o.id p
  | none => !(s.writePending o.cache o.id o.missing) && !(s.readPending o.cache o.id o.missing)

/-- A write of a core reaches its point of coherence after the core's earlier requests for the same bytes; a pass when it is served. -/
def State.writeReady (s : State) (cache id : Nat) (port : Option Nat) (ls : List Loc) : Bool :=
  match port with
  | some p => s.passNext id p
  | none => !(s.writePending cache id ls) && !(s.readPending cache id ls)

/-- A store or raise that this package's own slices, trigger unit or scratchpad accept. -/
def State.storeReady (s : State) (o : StoreOp) : Bool := !o.remote && s.writeReady o.cache o.id o.port o.locs

/-- The store has left the counts of its unit. -/
def State.dropStore (s : State) (id : Nat) : State :=
  { s with flight := { s.flight with stores := s.flight.stores.filter fun o => o.id != id } }

/-! ### Loads -/

/-- The bytes of a load, those not read before read now. -/
def State.loadBytes (s : State) (o : LoadOp) : List Byte :=
  ((o.locs.zip o.got).zip (s.rdLocs o.locs)).map fun x => x.1.2.getD x.2

/-- An acquire of a unit has lanes that have not made their accesses: they wait for walks or are parked (R123). -/
def State.acquiring (s : State) (r : UnitRef) : Bool :=
  match s.unit? r with
  | some u => u.acquiring
  | none => false

/-- An acquire has made the last of its accesses: at gang scope or wider, the L1 gives up its global lines (R91, R123). -/
def State.acquireDone (s : State) (r : UnitRef) (cache : Nat) (wide : Bool) : State :=
  if wide && !(s.flight.loads.any fun o => o.unit == r && o.wide) && !(s.flight.atomics.any fun o => o.unit == r && o.wide) &&
      !(s.acquiring r) then
    s.l1Invalidate cache
  else s

/-- The bytes that a pass has read for a thread go to a later pass of the same load in which a lane of the thread names the same word: it
is read once (R32, R33, R87). -/
def LoadOp.latch (o : LoadOp) (bs : List Byte) (x : LoadOp) : LoadOp :=
  let n := x.locs.length / max 1 x.lanes.length
  let m := o.locs.length / max 1 o.lanes.length
  let of (l : Nat) : Option Nat := o.lanes.findIdx? fun k => k / 3 == l / 3
  if x.tied && x.port.isSome && x.unit == o.unit && x.reg == o.reg then
    { x with got := x.got.zipIdx.map fun g => match g.1, (x.lanes[g.2 / max 1 n]?).bind of with
      | none, some j => bs[j * m + g.2 % max 1 n]?
      | g, _ => g }
  else x

/-- LOAD_RETURN (R89 to R91, R114, R170, R312, R414): `lane` names the access by its first lane, 0 for scalar data. -/
def execLoadReturn (id lane : Nat) (s : State) : Out :=
  match s.flight.loads.find? fun o => o.id == id && (o.lanes.head?).getD 0 == lane with
  | none => .refused .noSuchEvent
  | some o =>
    if !(s.loadReady o) then .refused .noSuchEvent
    else
      let s : State := { s.passTaken o.port with flight := { s.flight with loads := s.flight.loads.filter fun x => x.id != id } }
      match o.fail.or (s.badLine o.missing) with
      | some x => .next (s.integrityCheck o.unit x)
      | none =>
        let bs := s.loadBytes o
        let fill (s : State) (n : Nat) : State :=
          if s.mayFill o.cache n then s.fillLine o.cache n else s
        let s := o.alloc.foldl fill s
        let s := if o.tied then { s with flight := { s.flight with loads := s.flight.loads.map (o.latch bs) } } else s
        let s := s.modUnit o.unit fun u => u.fills (dataWrites o.vdata o.reg o.szf o.lanes fun k l => o.form.load o.szf bs k l)
        .next (s.acquireDone o.unit o.cache o.wide)

/-! ### Stores and raises -/

/-- STORE_ACK (R92, R115): a store is accepted at its home slice, or one of its passes at the scratchpad (R88). -/
def execStoreAck (id : Nat) (s : State) : Out :=
  match s.flight.stores.find? fun o => o.id == id && o.raise.isNone with
  | none => .refused .noSuchEvent
  | some o =>
    if !(s.storeReady o) then .refused .noSuchEvent
    else
      let s := (s.dropStore id).passTaken o.port
      let s := o.bytes.foldl (fun (s : State) b => s.l2Write b.1 [b.2] o.rank) s
      .next (o.spBytes.foldl (fun (s : State) b => s.wrLoc b.1 b.2) s)

/-- TRIGGER_RAISE (R36, R134, R316, R330): a raise by a store, an atomic or TRIG.ADD, its lanes in turn with no other between them; or by
an engine, in the order in which they were made. -/
def execTriggerRaise (id : Nat) (s : State) : Out :=
  match s.flight.stores.find? fun o => o.id == id with
  | some o =>
    match o.raise with
    | none => .refused .noSuchEvent
    | some (idx, vs, _) =>
      if !(s.storeReady o) then .refused .noSuchEvent else .next (vs.foldl (fun (s : State) v => s.raiseCtr idx v) (s.dropStore id))
  | none =>
    match s.eng.raises.head? with
    | none => .refused .noSuchEvent
    | some r => if r.id ≠ id then .refused .noSuchEvent else .next ({ s with eng := { s.eng with raises := s.eng.raises.filter fun x => x.id != id } }.raiseCtr r.idx r.v)

/-! ### Atomics -/

/-- What a lane of an atomic does at its location. -/
def AtomOp.act (o : AtomOp) (a : AtomLane) : RemoteAtomic := ⟨o.aop, o.szf, a.operand, a.compare, a.dir⟩

/-- The registers that take the old value of a lane. -/
def AtomOp.writes (o : AtomOp) (a : AtomLane) (old : Nat) : List RegWrite :=
  dataWrites o.vdata o.reg o.szf (if o.vdata then a.dests else []) fun _ _ => BitVec.ofNat 64 old

/-- The address of an atomic's location on another package. -/
def State.atomFar (s : State) (o : AtomOp) : Option Nat :=
  match (o.lanes.head?).map AtomLane.loc with
  | some (.mem pa) => if paPkg pa = s.pkg then none else some pa
  | _ => none

/-- A packet of the operation is still on its way. -/
def State.atomSent (s : State) (id : Nat) : Bool :=
  s.fab.out.any fun p => match p.origin with
    | .atomic i _ => i == id
    | _ => false

/-- The lanes of an atomic whose value comes back sent to the package that holds its location, in the unit's run of remote stores (R37,
R117, R406). -/
def State.sendAtom (s : State) (o : AtomOp) (pa : Nat) : State :=
  let (key, s) := s.runStream o.unit
  o.lanes.zipIdx.foldl (fun (s : State) x =>
    s.sendPacket key (paPkg pa) (s.homeSlice pa) (.atomic (paLocal pa) (o.act x.1)) (.atomic o.id x.2)) s

/-- An operation is no longer in flight. -/
def State.dropAtom (s : State) (id : Nat) : State :=
  { s with flight := { s.flight with atomics := s.flight.atomics.filter fun x => x.id != id } }

/-- The passes of a unit's scratchpad atomic still to come know the locations at which it has written (R316). -/
def State.holdAtoms (s : State) (o : AtomOp) : State :=
  let more (x : AtomOp) : AtomOp :=
    if x.batch == o.batch then
      { x with held := x.held ++ o.locs.filter fun l => x.locs.contains l && !(x.held.contains l) }
    else x
  if o.port.isSome then { s with flight := { s.flight with atomics := s.flight.atomics.map more } } else s

/-- The line of an atomic's location takes its place in its slice as the instruction's policy says (R90). -/
def State.atomRank (s : State) (o : AtomOp) : State :=
  match (o.lanes.head?).map AtomLane.loc with
  | some (.mem pa) => s.l2Take pa o.rank
  | _ => s

/-- ATOMIC_PERFORM (R116, R117, R122, R316 to R319): at the scratchpad or this package's home slice; or the packets to another package
leave. -/
def execAtomicPerform (id : Nat) (s : State) : Out :=
  match s.flight.atomics.find? fun o => o.id == id with
  | none => .refused .noSuchEvent
  | some o =>
    if !(s.writeReady o.cache o.id o.port o.locs) || s.atomSent id then .refused .noSuchEvent
    else match s.atomFar o with
    | some pa => .next (s.sendAtom o pa)
    | none =>
      let s := (s.passTaken o.port).dropAtom id
      match s.badLine o.locs with
      | some x => .next (s.integrityCheck o.unit x)
      | none =>
        let (ws, s) := o.lanes.foldl (fun (x : List RegWrite × State) a =>
          let (old, s) := x.2.atomAt a.loc (o.act a)
          (x.1 ++ o.writes a old, s)) ([], (s.atomRank o).holdAtoms o)
        let s := if o.ret then s.modUnit o.unit fun u => u.fills ws else s
        .next (s.acquireDone o.unit o.cache o.wide)

/-! ### Fetch blocks (R69 to R71, R94) -/

/-- The base of the fetch block of an address. -/
def blockBase (pc : DWord) : DWord := pc &&& ~~~(31#64)

/-- The slot would issue: READY, or what it waited for has come about, and not FROZEN (R156). -/
def State.live (s : State) (u : UnitSt) (k : Nat) : Bool := s.slotReady u k && !(u.slot k).frozen

/-- The slot does not hold the block of its address. -/
def Slot.lacks (x : Slot) : Bool := (x.block? x.pc).isNone

/-- The slot parks on a fault of its fetch (R20, R71). -/
def State.fetchFault (s : State) (u : UnitSt) (k kind cause : Nat) : State :=
  let r := u.ref
  let sl := u.slot k
  let pc := sl.pc.toNat
  let f : FaultInfo :=
    { kind := kind, cause := cause, access := 4, more := false, priv := false, nonReplay := kind == 2, asid := (s.lrec r.ident).asid
      addr := pc, lanes := if u.isCox then 0 else sl.mask, source := s.source r, pc := pc, ident := r.ident, gang := r.gang
      die := s.dieOf r }
  let s := (s.faultPost f).modCrew r fun x => { x with faultRec := s.faultBytes f }
  s.modUnit r fun u => u.setSlot k { u.slot k with st := .parked (kind == 2) 4 (if kind == 2 then [] else [pc / 2 ^ 16]) }

/-- The slot holds a block beside the one it issues from. -/
def State.holdBlock (s : State) (r : UnitRef) (k : Nat) (b : FetchBlock) : State :=
  s.modUnit r fun u =>
    let sl := u.slot k
    u.setSlot k { sl with blocks := b :: (sl.block? sl.pc).toList.filter fun x => x.base != b.base }

/-- FETCH_BLOCK_ARRIVE: a block that the slot needs, or the one after, fetched ahead, whose failure is discarded. -/
def execFetchBlockArrive (r : UnitRef) (k : Nat) (block : BitVec 64) (s : State) : Out :=
  match s.unit? r with
  | none => .refused .noSuchEvent
  | some u =>
    let sl := u.slot k
    let live := s.live u k && s.placed u
    let needed := live && sl.lacks && block == blockBase sl.pc
    let ahead := live && !(sl.lacks) && block == blockBase sl.pc + 32 && !(sl.blocks.any fun b => b.base == block)
    let va := block.toNat
    let lr := s.lrec r.ident
    let fail (s : State) (kind cause : Nat) : Out := .next (if needed then s.fetchFault u k kind cause else s)
    if !(needed || ahead) || !(u.slots.contains k) then .refused .noSuchEvent
    else if aperture va == .none then fail s 2 1
    else if aperture va != .global then fail s 2 6
    else
      match s.translate (s.asker r) (s.tlbsOf r) (s.clusterOf r / 12) lr.asid va with
      | (.fault cause, s) => fail s 1 cause
      | (.ok frame mt _ _ x _, s) =>
        let pa := onPage frame va
        let cache := s.cacheOf r
        if !x then fail s 1 3
        else if mt = 2 || targetOf (paLocal pa) == .trigger || !(s.backed pa) then fail s 2 7
        else
          let take (s : State) (line : List Byte) : Out := .next (s.holdBlock r k ⟨block, (line.drop (va % 64)).take 32, false⟩)
          match s.ilFind cache lr.asid (va / 64) with
          | some l => if l.bad then .next (if needed then s.integrityCheck r (some (pa / 64 * 64), 0) else s) else take s l.data
          | none =>
            let s := (s.reachL2 lr.asid (s.clusterOf r) va pa Rank.plain).askLines [.mem pa]
            if s.lineBad pa then .next (if needed then s.integrityCheck r (some (pa / 64 * 64), s.whereOf pa) else s)
            else
              let line := s.rdMem (pa / 64 * 64) 64
              take (s.ilFill ⟨cache, lr.asid, va / 64, line, false⟩) line

end Sys2Proof.Machine
end

