-- ==== Sys2Proof/Machine/Engine.lean ====
section
/-! DEFINITION. The engine instructions: copy issue and progress, byte barriers, posted operations and trigger counters (R322 to R334). -/

namespace Sys2Proof.Machine

open Sys2Proof

/-- The engine counter of the issuer's class raised (R248). -/
def State.raiseEng (s : State) (c : Ctx) (cls : Nat) : State :=
  s.modUnit c.iss.unit fun u => u.setScal (u.scal.raise cls)

/-- A pair of scalars written from `d` on. -/
def State.writePair (s : State) (c : Ctx) (lo hi : Word) : State := s.writeRegs c [⟨.s, c.d, 0, lo⟩, ⟨.s, c.d + 1, 0, hi⟩]

/-! ### Copies (R323, R324, R411) -/

/-- The key of the ordered updates that a copy of the issuer sends: key class, issuer number, instruction count (R411). -/
def Ctx.copyKey (c : Ctx) : Nat × Nat × Nat :=
  match c.u with
  | .crew _ =>
    let t := threadOf c.single (lowLane c.mask)
    (0, (c.tid t).toNat, c.icount t)
  | .cox x => (1, x.gang, x.icount.toNat)

/-- The request that CPY hands to the engine, as its issue finds it: number formats and key are those of then (R102, R411). -/
def Ctx.copyReq (c : Ctx) (s : State) (id chan wg off : Nat) (hnd : Bool) (phase : CopyPhase) : CopyReq :=
  let r := c.iss.unit
  let (kclass, issuer, icount) := c.copyKey
  { id := id, cluster := s.clusterOf r, chan := chan, unit := r, record := some (wg, off)
    scope := copyScope c.u.isCox (s.spBytes r wg off 64), handles := if hnd then [(r, c.d)] else []
    nf := match c.u with
      | .crew x => x.nf
      | .cox _ => []
    kclass := kclass, issuer := issuer, icount := icount, round := c.u.scal.round.toNat, pid := s.pid r
    place := s.placeOf r, vocab := none, data := [], cancel := false
    skipWatch := [], streams := [], phase := phase, job := none, upset := false }

/-- The request that waits at its issue in a slot of the unit joins the queue of its channel (R99, R323). -/
def State.joinCopy (s : State) (r : UnitRef) (slot : Nat) : State :=
  let mine (q : CopyReq) : Bool := q.unit == r && q.phase == .waiting slot
  { s with eng := { s.eng with
    copies := s.eng.copies.filter (fun q => !(mine q)) ++ (s.eng.copies.filter mine).map fun q => { q with phase := .queued } } }

/-- The counter is raised and the handle emptied and linked; the request then joins the queue of its channel, or waits at issue while that
is full (R323). -/
def execCpy (o : Op) (s : State) : Out :=
  s.issue (.cpy o) fun c s =>
    let r := c.iss.unit
    if c.slot.pending then .done (s.joinCopy r c.iss.slot)
    else c.record s 64 64 fun wg off =>
      let hnd := c.fn % 2 == 1
      let chan := leNat (((s.spBytes r wg off 64).drop 27).take 1) % 32
      let s := s.raiseEng c 0
      let s := if hnd then s.modUnit r fun u => (u.markEmpty .h c.d (BitVec.allOnes 96)).mapTraps (unlinkTraps c.d) else s
      let room := decide (s.channelLoad (s.clusterOf r) chan < 16)
      let (n, s) := s.newId
      let q := c.copyReq s n chan wg off hnd (if room then .queued else .waiting c.iss.slot)
      let s : State := { s with eng := { s.eng with copies := s.eng.copies ++ [q] } }
      if room then .done s else .stay s (.blocked (.channel (s.clusterOf r) chan)) none

/-- R324: WP as it stands in the record. -/
def execCpywp (o : Op) (s : State) : Out :=
  s.issue (.cpywp o) fun c s =>
    c.record s 64 64 fun wg off => c.scalar2 s (BitVec.ofNat 64 (leNat (s.spBytes c.iss.unit wg (off + 40) 8)))

/-! ### Byte barriers (R104, R325, R326) -/

/-- R325. -/
def execBinit (o : Op) (s : State) : Out :=
  s.issue (.binit o) fun c s =>
    let r := c.iss.unit
    let at_ := (c.s32 0).toNat
    match c.spRecord at_ 16 16 with
    | .error k => c.recFault s k 1 at_
    | .ok (wg, off) =>
      match s.watchSp r.ident r.gang wg ((List.range 16).map fun j => off + j) c.slot.skipWatch with
      | some (n, addr) => .watch n addr 127
      | none => .done (s.spWrite r wg off (leBytes 8 (c.src 1 0).toNat ++ List.replicate 8 0))

/-- R326. -/
def execBwait (o : Op) (s : State) : Out :=
  s.issue (.bwait o) fun c s =>
    c.record s 16 16 fun wg off => c.scalar s (BitVec.ofNat 32 (leNat (s.spBytes c.iss.unit wg (off + 8) 4)))

/-! ### Posted operations (R328 to R333) -/

/-- A post record's field of `n` bytes at `k`. -/
def postFld (b : List Byte) (k n : Nat) : Nat := leNat ((b.drop k).take n)

/-- A field of a post record that the table gives as zero is not (R328). -/
def postReserved (b : List Byte) : Bool :=
  let kind := postFld b 0 1
  postFld b 1 1 / 8 ≠ 0 || postFld b 3 1 ≠ 0 || postFld b 4 2 / 4096 ≠ 0 || postFld b 6 2 ≠ 0 || postFld b 40 2 / 4096 ≠ 0 ||
  postFld b 43 1 ≠ 0 || postFld b 48 2 / 4096 ≠ 0 || postFld b 51 1 ≠ 0 || postFld b 56 8 ≠ 0 ||
  (kind ≠ 2 && postFld b 2 1 ≠ 0) || (3 ≤ kind && postFld b 24 8 ≠ 0) ||
  (kind = 4 && postFld b 32 8 ≠ 0)

/-- Bytes of one element of a posted reduction (R328). -/
def redopSize (redop : Nat) : Nat := if redop = 2 then 8 else if redop = 6 then 2 else 4

/-- The error code of a post record, the lowest that applies (R329). -/
def State.postCode (s : State) (b : List Byte) : Option Nat :=
  let kind := postFld b 0 1
  let flags := postFld b 1 1
  let redop := postFld b 2 1
  let period := postFld b 16 4
  let len := postFld b 20 4
  let src := postFld b 24 8
  let dst := postFld b 32 8
  let e := if kind = 2 then redopSize redop else 4
  if postReserved b then some 1
  else if 4 < kind || (kind = 2 && (redop = 0 || 6 < redop)) || (nbit flags 0 && (period = 0 || 2 ^ 31 < period)) ||
      (!(nbit flags 0) && period ≠ 0) then some 2
  else if (nbit flags 1 && !(s.inDomain (postFld b 42 1))) || (nbit flags 2 && !(s.inDomain (postFld b 50 1))) then some 3
  else if 16384 ≤ s.eng.posts.length then some 4
  else if (kind ≤ 2 && (!(isGlobal src) || !(isGlobal dst) || len < 4 || 2 ^ 30 < len || len % e ≠ 0)) ||
      (kind = 3 && !(isGlobal dst)) then some 5
  else if (kind ≤ 2 && (src % e ≠ 0 || dst % e ≠ 0)) || (kind = 3 && dst % 16 ≠ 0) then some 6
  else none

/-- The operation that a good record posts to a slot. -/
def postOf (slot : Nat) (ident : Word) (asid : Nat) (b : List Byte) : Post :=
  let flags := postFld b 1 1
  let ctr (k : Nat) : Nat × Nat × Word := (postFld b (k + 2) 1, postFld b k 2, BitVec.ofNat 32 (postFld b (k + 4) 4))
  { slot := slot, ident := ident, asid := asid, kind := postFld b 0 1, rearm := nbit flags 0
    c1 := if nbit flags 1 then some (ctr 40) else none
    c2 := if nbit flags 2 then some (ctr 48) else none
    redop := postFld b 2 1, ctr := postFld b 4 2, base := BitVec.ofNat 32 (postFld b 8 4)
    h := BitVec.ofNat 32 (postFld b 12 4), period := BitVec.ofNat 32 (postFld b 16 4), len := BitVec.ofNat 32 (postFld b 20 4)
    src := BitVec.ofNat 64 (postFld b 24 8), dst := BitVec.ofNat 64 (postFld b 32 8)
    state := .armed, firings := 0, waiting := 0, spent := false, closing := false, done := 0, told := false, upset := false }

/-- The free slots of the package. -/
def State.freePosts (s : State) : List Nat := (List.range 16384).filter fun n => !(s.eng.posts.any fun p => p.slot == n)

/-- What TRIG.POST does once its release has been made: the record's operation is posted to a free slot, which of them is left open (log
entry 9), or its error code is answered; the network counter falls with the write of `Sd` (R329). -/
def Ctx.trigPost (c : Ctx) (s : State) (wg off : Nat) : Eff :=
  let b := s.spBytes c.iss.unit wg off 64
  let answer (s : State) (v : Nat) : Eff := .done (s.produce c false [⟨.s, c.d, 0, BitVec.ofNat 32 v⟩] true)
  match s.postCode b with
  | some code => answer s (2 ^ 31 + code)
  | none =>
    let (n, s) := s.fresh
    let fs := s.freePosts
    let slot := (fs[Config.victim n % fs.length]?).getD 0
    let p := postOf slot c.iss.unit.ident c.lr.asid b
    let p := p.test (tget 0 s.ctrs p.ctr)
    answer { s with eng := { s.eng with posts := p :: s.eng.posts } } slot

/-- R329: the network counter rises at issue, and the instruction waits there for its release at domain scope. -/
def execTrigPost (o : Op) (s : State) : Out :=
  s.issue (.trigPost o) fun c s =>
    match c.slot.pendingOn with
    | some (.posting wg off) => match s.badLine (spLocs c.iss.unit wg off 64) with
      | some x => .done (s.integrityCheck c.iss.unit x)
      | none => c.trigPost s wg off
    | _ => c.record s 64 64 fun wg off =>
      let s := s.raiseEng c 1
      if s.released c.u then c.trigPost s wg off
      else .stay (s.modUnit c.iss.unit fun u => u.markEmpty .s c.d (BitVec.allOnes 96)) (.blocked (.posting wg off)) none

/-- The operation of a slot. -/
def State.post? (s : State) (slot : Nat) : Option Post := s.eng.posts.find? fun p => p.slot == slot

/-- A slot freed, or replaced. -/
def State.freePost (s : State) (slot : Nat) : State :=
  { s with eng := { s.eng with posts := s.eng.posts.filter fun p => p.slot != slot } }
def State.setPost (s : State) (p : Post) : State :=
  { s with eng := { s.eng with posts := s.eng.posts.map fun x => if x.slot == p.slot then p else x } }

/-- R332. -/
def execTrigCancel (o : Op) (s : State) : Out :=
  s.issue (.trigCancel o) fun c s =>
    let a := (c.s32 0).toNat
    if 16384 ≤ a then c.scalar s 3
    else match s.post? a with
    | none => c.scalar s 2
    | some p =>
      if p.asid ≠ c.lr.asid then c.scalar s 2
      else match p.state with
      | .armed => c.scalar (s.freePost a) 0
      | .failed => c.scalar (s.freePost a) 1
      | _ => c.scalar (s.setPost { p with closing := true }) 1

/-- The code of a slot's state (R333). -/
def PostState.code : PostState → Nat
  | .armed => 1
  | .transferring => 2
  | .paused _ => 3
  | .failed => 4

/-- R333: a counter is read at the trigger unit as a load that acquires; a slot at once. -/
def execTrigRead (o : Op) (s : State) : Out :=
  s.issue (.trigRead o) fun c s =>
    let r := c.iss.unit
    let a := (c.s32 0).toNat
    let bad : Word := 0xFFFFFFFF#32
    if c.fn % 2 = 1 then
      if 16384 ≤ a then .done (s.writePair c bad bad)
      else match s.post? a with
      | none => .done (s.writePair c 0 0)
      | some p =>
        if p.asid ≠ c.lr.asid then .done (s.writePair c bad 0)
        else .done (s.writePair c p.h (BitVec.ofNat 32 (p.state.code + 2 ^ 16 * p.firings.toNat)))
    else if 4096 ≤ a then .done (s.writePair c bad bad)
    else
      let (n, s) := s.newId
      let s := s.modUnit r fun u => (u.markEmpty .s c.d (BitVec.allOnes 96)).markEmpty .s (c.d + 1) (BitVec.allOnes 96)
      let op : LoadOp :=
        { id := n, unit := r, cache := s.cacheOf r, vdata := false, reg := c.d, lanes := [], szf := 6, form := .one
          locs := List.replicate 8 (.ctr a), got := List.replicate 8 none, alloc := [], acquire := true, wide := true, fail := none
          port := none, tied := false }
      .done (s.addLoad op)

/-- R334. -/
def execTrigAdd (o : Op) (s : State) : Out :=
  s.issue (.trigAdd o) fun c s =>
    let a := (c.s32 0).toNat
    if bits a 12 4 ≠ 0 || bits a 24 8 ≠ 0 then c.addrFault s 8 1 9 0 noLanes
    else if !(s.inDomain (bits a 16 8)) then c.addrFault s 7 1 9 0 noLanes
    else .done (c.sendRaise s (bits a 16 8) (bits a 0 12) [c.s32 1] (8 ≤ c.fn % 16))

end Sys2Proof.Machine
end

