-- ==== Sys2Proof/Machine/Trans.lean ====
section
/-! DEFINITION. The transcendental instructions' functions (R265, R266): an enclosure of the exact value by integer arithmetic, rounded once for the reproducible forms; for the fast forms a value within two units in the last place that the free choice names. -/

namespace Sys2Proof.Machine

/-- The fixed-point precision of the enclosures. -/
def trP : Nat := 480

/-- The magnitude of a result lies between `lo · 2^e` and `hi · 2^e`; exact, or rounded to odd, when they are equal. -/
structure Encl where
  neg : Bool
  lo : Nat
  hi : Nat
  e : Int
  deriving DecidableEq, Repr

/-- An enclosure of radius `r` units around a fixed-point value. -/
def Encl.around (neg : Bool) (v r : Nat) (e : Int) : Encl := ⟨neg, 2 * (v - r) + 1, 2 * (v + r) + 1, e - 1⟩

/-- A value that is exact. -/
def Encl.exact (neg : Bool) (m : Nat) (e : Int) : Encl := ⟨neg, m, m, e⟩

/-- The sum of `n` terms of the inverse tangent (`alt`) or inverse hyperbolic tangent series of `z / 2^P`. -/
def atanSeries (alt : Bool) (z : Nat) : Nat → Nat → Nat → Int
  | 0, _, _ => 0
  | n + 1, k, t =>
    (if alt && k % 2 == 1 then -((t / (2 * k + 1) : Nat) : Int) else ((t / (2 * k + 1) : Nat) : Int)) +
      atanSeries alt z n (k + 1) (t * z / 2 ^ trP * z / 2 ^ trP)

/-- atanh(z / 2^P) in fixed point. -/
def atanhFix (z : Nat) : Nat := (atanSeries false z 160 0 z).toNat

/-- The natural logarithm of 2 in fixed point. -/
def ln2Fix : Nat := 2 * atanhFix (2 ^ trP / 3)

/-- Pi in fixed point, by Machin's formula. -/
def piFix : Nat :=
  (16 * atanSeries true (2 ^ trP / 5) 110 0 (2 ^ trP / 5) - 4 * atanSeries true (2 ^ trP / 239) 40 0 (2 ^ trP / 239)).toNat

/-- `n` terms of the exponential series of `r / 2^P` from term `t` of index `k`; `sgn` flips every other term. -/
def expSeries (sgn : Bool) (r : Nat) : Nat → Nat → Nat → Int
  | 0, _, _ => 0
  | n + 1, k, t => (if sgn && k % 2 == 1 then -(t : Int) else t) + expSeries sgn r n (k + 1) (t * r / 2 ^ trP / (k + 1))

/-- `n` terms of the sine (k = 1) or cosine (k = 0) series of `r / 2^P`. -/
def trigSeries (r : Nat) : Nat → Nat → Nat → Bool → Int
  | 0, _, _, _ => 0
  | n + 1, k, t, neg =>
    (if neg then -(t : Int) else t) +
      trigSeries r n (k + 2) (t * r / 2 ^ trP * r / 2 ^ trP / ((k + 1) * (k + 2))) (!neg)

/-- The functions of R265. -/
inductive TrFn where
  | rcp | rsq | exp2 | log2 | sin | cos | tanh
  deriving DecidableEq, Repr

/-- The number by which a free choice knows a function. -/
def TrFn.num : TrFn → Nat
  | .rcp => 0
  | .rsq => 1
  | .exp2 => 2
  | .log2 => 3
  | .sin => 4
  | .cos => 5
  | .tanh => 6

/-- `m · 2^e` in fixed point, for `e` at or above -P. -/
def toFix (m : Nat) (e : Int) : Nat := m * 2 ^ (e + (trP : Int)).toNat

/-- 1/√(m · 2^e), rounded to odd. -/
def rsqEncl (m : Nat) (e : Int) : Encl :=
  let (m, e) := if e % 2 = 0 then (m, e) else (2 * m, e - 1)
  let k : Nat := 200
  let t := isqrt (2 ^ (2 * k) / m)
  Encl.exact false (2 * t + (if t * t * m = 2 ^ (2 * k) then 0 else 1)) (-(e / 2) - k - 1)

/-- 2^x for a finite x that is not an integer, or far out of range. -/
def exp2Encl (neg : Bool) (m : Nat) (e : Int) : Encl :=
  if (Nat.log2 m : Int) + e > 12 then Encl.exact false 3 (if neg then -5000 else 5000)
  else
    let v := toFix m e
    let n : Nat := v / 2 ^ trP
    let f : Nat := v % 2 ^ trP
    let i : Int := if neg then -(n : Int) - 1 else n
    let g : Nat := if neg then 2 ^ trP - f else f
    let r := g * ln2Fix / 2 ^ trP
    Encl.around false (expSeries false r 140 0 (2 ^ trP)).toNat (2 ^ 12) (i - trP)

/-- log2 of a positive finite value that is no power of two. -/
def log2Encl (m : Nat) (e : Int) : Encl :=
  let k := Nat.log2 m
  let z := (m - 2 ^ k) * 2 ^ trP / (m + 2 ^ k)
  let fr := 2 * atanhFix z * 2 ^ trP / ln2Fix
  let v : Int := ((k : Int) + e) * 2 ^ trP + fr
  Encl.around (decide (v < 0)) v.natAbs (2 ^ 14) (-trP)

/-- Slightly less than `m · 2^e`: the value of sine, cosine or tangent beside an argument too small for fixed point. -/
def justBelow (neg : Bool) (m : Nat) (e : Int) : Encl := Encl.exact neg (m * 2 ^ 200 - 1) (e - 200)

/-- Sine or cosine of a finite nonzero argument. -/
def trigEncl (isCos neg : Bool) (m : Nat) (e : Int) : Encl :=
  if (Nat.log2 m : Int) + e < -60 then (if isCos then justBelow false 1 0 else justBelow neg m e)
  else
    let v := toFix m e
    let half := piFix / 2
    let q := v / half
    let r := v - q * half
    let q := (q + b2nat isCos) % 4
    let s := if q % 2 = 0 then trigSeries r 80 1 r false else trigSeries r 80 0 (2 ^ trP) false
    let n := (if isCos then false else neg) != decide (2 ≤ q)
    let n := if decide (s < 0) then !n else n
    Encl.around n s.natAbs (2 ^ ((max ((Nat.log2 m : Int) + e) 0).toNat + 16)) (-trP)
where b2nat (b : Bool) : Nat := if b then 1 else 0

/-- Hyperbolic tangent of a finite nonzero argument: its magnitude stays below 1. -/
def tanhEncl (neg : Bool) (m : Nat) (e : Int) : Encl :=
  if (Nat.log2 m : Int) + e < -60 then justBelow neg m e
  else if (Nat.log2 m : Int) + e > 7 then justBelow neg 1 0
  else
    let v := 2 * toFix m e
    let n := v / ln2Fix
    let r := v - n * ln2Fix
    let ex := (expSeries true r 140 0 (2 ^ trP)).toNat / 2 ^ n
    let x := Encl.around neg ((2 ^ trP - ex) * 2 ^ trP / (2 ^ trP + ex)) (2 ^ 14) (-trP)
    { x with hi := min x.hi (2 ^ (trP + 1) - 1) }

/-- The result of a function on an operand: a special operand's exact result with its flags (R265), or an enclosure. -/
def trResult (fn : TrFn) (x : FV) : Sum (FV × Nat) Encl :=
  match fn, x with
  | _, .nan sig => .inl (.nan false, if sig then flNV else 0)
  | .rcp, .inf n => .inl (.fin n 0 0, 0)
  | .rcp, .fin n m e =>
    if m = 0 then .inl (.inf n, flDZ)
    else let k := Nat.log2 m + 60
         .inr (Encl.exact n (divOdd 1 m k) (-e - k - 1))
  | .rsq, .inf n => if n then .inl (.nan false, flNV) else .inl (.fin false 0 0, 0)
  | .rsq, .fin n m e =>
    if m = 0 then .inl (.inf n, flDZ) else if n then .inl (.nan false, flNV) else .inr (rsqEncl m e)
  | .exp2, .inf n => if n then .inl (.fin false 0 0, 0) else .inl (.inf false, 0)
  | .exp2, .fin n m e =>
    if m = 0 then .inl (.fin false 1 0, 0)
    else if (Nat.log2 m : Int) + e ≤ 12 && (0 ≤ e || m % 2 ^ (-e).toNat == 0) then
      let k : Int := if 0 ≤ e then (m * 2 ^ e.toNat : Nat) else (m / 2 ^ (-e).toNat : Nat)
      .inl (.fin false 1 (if n then -k else k), 0)
    else .inr (exp2Encl n m e)
  | .log2, .inf n => if n then .inl (.nan false, flNV) else .inl (.inf false, 0)
  | .log2, .fin n m e =>
    if m = 0 then .inl (.inf true, flDZ)
    else if n then .inl (.nan false, flNV)
    else if m == 2 ^ Nat.log2 m then
      let k : Int := (Nat.log2 m : Int) + e
      .inl (.fin (decide (k < 0)) k.natAbs 0, 0)
    else .inr (log2Encl m e)
  | .sin, .inf _ => .inl (.nan false, flNV)
  | .sin, .fin n m e => if m = 0 then .inl (.fin n 0 0, 0) else .inr (trigEncl false n m e)
  | .cos, .inf _ => .inl (.nan false, flNV)
  | .cos, .fin n m e => if m = 0 then .inl (.fin false 1 0, 0) else .inr (trigEncl true n m e)
  | .tanh, .inf n => .inl (.fin n 1 0, 0)
  | .tanh, .fin n m e => if m = 0 then .inl (.fin n 0 0, 0) else .inr (tanhEncl n m e)

/-- A direction's number in a free choice. -/
def Dir.num : Dir → Nat
  | .down => 0
  | .up => 1
  | .near => 2
  | .zero => 3

/-- The format's number in a free choice. -/
def Fmt.num (f : Fmt) : Nat := f.ew * 64 + f.fw

/-- An enclosure rounded once; when it holds two roundings, log entry 13 chooses. -/
def Encl.round (x : Encl) (f : Fmt) (d : Dir) (fn : TrFn) (operand : Nat) : Nat × Nat :=
  let a := f.round d x.neg x.lo x.e
  let b := f.round d x.neg x.hi x.e
  if a == b then a else if Config.tieUp fn.num f.num operand d.num then b else a

/-- The reproducible form (R266). -/
def trRepro (fn : TrFn) (f : Fmt) (d : Dir) (v : Nat) : Nat × Nat :=
  match trResult fn (f.decode v) with
  | .inl (r, fl) => f.finish d (r, fl)
  | .inr x => x.round f d fn v

/-- A place on the line of encodings, `i` steps away from zero for the sign given, as an encoding. -/
def Fmt.ofLine (f : Fmt) (neg : Bool) (i : Int) : Nat :=
  (if neg != decide (i < 0) then 2 ^ (f.ew + f.fw) else 0) + i.natAbs

/-- A finite encoding lies within two units in the last place of `m · 2^e` of a sign, units of its binade (R266). -/
def Fmt.within (f : Fmt) (v : Nat) (neg : Bool) (m : Nat) (e : Int) : Bool :=
  match f.decode v with
  | .fin n2 m2 e2 =>
    let u : Int := max ((Nat.log2 m : Int) + e) (1 - (f.bias : Int)) - f.fw + 1
    let q := min (min e e2) u
    let val (n : Bool) (m : Nat) (e : Int) : Int := let a : Int := (m * 2 ^ (e - q).toNat : Nat)
                                                   if n then -a else a
    decide ((val neg m e - val n2 m2 e2).natAbs ≤ 2 ^ (u - q).toNat)
  | _ => false

/-- The finite encodings within two units in the last place of an exact value. -/
def Fmt.nearby (f : Fmt) (x : Encl) : List Nat :=
  let z : Int := f.mag (f.round .zero false x.lo x.e).1
  ((List.range 9).map fun (k : Nat) => f.ofLine x.neg (z + k - 5)).filter fun v => f.within v x.neg x.lo x.e

/-- An encoding lies on the side of an exact value to which a direction rounds, with its sign: on underflow a fast result does (R266). -/
def Fmt.onSide (f : Fmt) (d : Dir) (x : Encl) (v : Nat) : Bool :=
  let z := f.mag (f.round .zero x.neg x.lo x.e).1
  let inward : Bool := match d with
    | .zero => true
    | .down => !x.neg
    | .up => x.neg
    | .near => false
  f.sign v == x.neg && (d == .near || decide (f.mag v ≤ z) == inward)

/-- The fast form (R266): one of the encodings within two units of the exact value, as log entry 11 chooses; beyond 2^15 a
sine or cosine is any value in [-1, 1]. The flags are those of the exact value's rounding. -/
def trFast (fn : TrFn) (f : Fmt) (d : Dir) (v : Nat) : Nat × Nat :=
  match trResult fn (f.decode v) with
  | .inl (r, fl) => f.finish d (r, fl)
  | .inr x =>
    let (r, fl) := x.round f d fn v
    let far := match f.decode v with
      | .fin _ m e => decide ((15 : Int) < (Nat.log2 m : Int) + e) || (decide ((15 : Int) = (Nat.log2 m : Int) + e) && m != 2 ^ Nat.log2 m)
      | _ => false
    if far && (fn == .sin || fn == .cos) then
      let one := f.bias * 2 ^ f.fw
      let k := Config.fastTrig fn.num f.num v d.num
      (k % (one + 1) + (if k / (one + 1) % 2 = 1 then 2 ^ (f.ew + f.fw) else 0), fl)
    else
      let near := (f.nearby x).filter fun v => fl &&& flUF == 0 || f.onSide d x v
      if fl &&& flOF != 0 then (r, fl) else ((near[Config.fastForm fn.num f.num v d.num % near.length]?).getD r, fl)

end Sys2Proof.Machine
end

