-- ==== Sys2Proof/Machine/Matrix.lean ====
section
/-! DEFINITION. The matrix engines: chunk accumulation (R186, R200, R201), the matrix queue and its errors (R336 to R340), and MLDB to MSTAT (R342 to R347). -/

namespace Sys2Proof.Machine

open Sys2Proof

/-! ### Chunk accumulation (R200, R201) -/

/-- The part of a product that the chunk keeps: a multiple of `2^q`. -/
def truncTo (q : Int) : FV → Int
  | .fin n m e =>
    let t : Nat := if q ≤ e then m * 2 ^ (e - q).toNat else m / 2 ^ (q - e).toNat
    if n then -(t : Int) else t
  | _ => 0

/-- The sum of a chunk's products of BF16 values; none when it leaves every plane as it is. -/
def chunkSum (ps : List (Nat × Nat)) : Option FV :=
  let xs := ps.map fun p => ((bf16.decode p.1).mul (bf16.decode p.2)).1
  let infs := xs.filter FV.isInf
  if xs.any FV.isNan then some (.nan false)
  else match infs with
    | x :: r => some (if r.any fun y => y.isNeg != x.isNeg then .nan false else x)
    | [] =>
      let tops : List Int := xs.filterMap fun x => match x with
        | .fin _ m e => if m = 0 then none else some ((Nat.log2 m : Int) + e)
        | _ => none
      match tops with
      | [] => none
      | t :: ts =>
        let q := ts.foldl max t - 47
        let s := (xs.map (truncTo q)).foldl (· + ·) 0
        if s = 0 then none else some (.fin (decide (s < 0)) s.natAbs q)

/-- The direction of plane `p` (R186). -/
def planeDir (lr : LaunchRec) (elem chunk tag p : Nat) : Dir :=
  if lr.single then .near else drawDir (chunkDraw lr.seed elem chunk tag) p

/-- A plane of an element after a chunk. -/
def addChunk (lr : LaunchRec) (elem chunk tag p : Nat) (old : Nat) (ps : List (Nat × Nat)) : Nat :=
  match chunkSum ps with
  | none => old
  | some x =>
    let d := planeDir lr elem chunk tag p
    (f32.finish d ((f32.decode old).add d x)).1

/-- The planes of the launch's mode. -/
def LaunchRec.planes (lr : LaunchRec) : List Nat := if lr.single then [0] else [0, 1, 2]

/-- Bytes of a C tile (R85). -/
def LaunchRec.tileBytes (lr : LaunchRec) : Nat := if lr.single then 65536 else 196608

/-- The accumulator offset of element (`i`, `j`) of plane `p` of a tile (R85). -/
def tileOff (t p i j : Nat) : Nat := t + p * 65536 + (i * 256 + j) * 4

/-- A word of accumulator storage. -/
def Workgroup.accWord (w : Workgroup) (off : Nat) : Nat := leNat (getBytes w.acc off 4)
def Workgroup.setAcc (w : Workgroup) (off v : Nat) : Workgroup := w.putAcc off (leBytes 4 v)

/-! ### Check values that an operation meets (R98, R339, R413, R414) -/

/-- A line of `b` units of a list meets a run of `n` units from `lo`. -/
def lineMeets (b lo n : Nat) (bad : List Nat) : Bool := bad.any fun l => decide (lo < b * (l + 1)) && decide (b * l < lo + n)

/-- Bytes of a workgroup's accumulator storage or scratchpad hold a line that fails its check: WHERE 2. -/
def State.poolCheck (s : State) (r : UnitRef) (wg : Nat) (acc : Bool) (off n : Nat) : Option (Option Nat × Nat) :=
  match s.wg? r.ident r.gang wg with
  | some w => if lineMeets 64 off n ((if acc then w.accBad else w.spBad).map Prod.fst) then some (none, 2) else none
  | none => none

/-- A B slot, or a row buffer, holds a line that fails its check: WHERE 3. -/
def Matrix.slotCheck (m : Matrix) (slot : Nat) : Option (Option Nat × Nat) :=
  if lineMeets 32 (65536 * slot) 65536 m.macBad then some (none, 3) else none
def Matrix.rowsCheck (m : Matrix) (buf : Nat) : Option (Option Nat × Nat) :=
  if lineMeets 32 (16384 * buf) 16384 m.rowBad then some (none, 3) else none

/-- The code of an operation some of whose sources fail their checks, with the record of the failure; 0 when none does. -/
def State.checkCode (s : State) (r : UnitRef) (x : Option (Option Nat × Nat)) : Nat × State :=
  match x with
  | some y => (7, s.integrityRecord r.ident (s.source r) y)
  | none => (0, s)

/-! ### Macros and row buffers (R98, R343) -/

/-- Element (`k`, `n`) of a B slot, and element (`i`, `k`) of a row buffer. -/
def Matrix.bAt (m : Matrix) (slot k n : Nat) : Nat := (tget 0 m.macros (65536 * slot + 256 * k + n)).toNat
def Matrix.aAt (m : Matrix) (buf i k : Nat) : Nat := (tget 0 m.rows (16384 * buf + 256 * i + k)).toNat

/-- A table with the entries from `lo` to `lo + n` replaced. -/
def tabRun (t : Tab (BitVec 16)) (lo n : Nat) (f : Nat → Nat) : Tab (BitVec 16) :=
  (t.filter fun x => x.1 < lo) ++
  ((List.range n).filterMap fun k => let v := BitVec.ofNat 16 (f k)
    if v = 0 then none else some (lo + k, v)) ++
  t.filter fun x => lo + n ≤ x.1

/-- A B slot loaded with good lines, and its reload descriptor (R342). -/
def Matrix.setSlot (m : Matrix) (slot : Nat) (f : Nat → Nat → Nat) (desc : Option Reload) : Matrix :=
  { m with
    macBad := m.macBad.filter fun l => l / 2048 != slot
    macros := tabRun m.macros (65536 * slot) 65536 fun x => f (x / 256) (x % 256)
    reload := (m.reload.filter fun x => x.slot != slot) ++ desc.toList }

/-- The significand width of a BF16 value (R343). -/
def sigWidth (v : Nat) : Nat :=
  let e := bits v 7 8
  let f := bits v 0 7
  let tz := ((List.range 7).find? fun k => nbit f k).getD 7
  if e = 255 then 8
  else if e = 0 then (if f = 0 then 0 else Nat.log2 f - tz + 1)
  else 8 - tz

/-- The slice count of values (R343). -/
def sliceCount (vs : List Nat) : Nat :=
  let w := vs.foldl (fun a v => max a (sigWidth v)) 0
  if w ≤ 2 then 2 else if w ≤ 4 then 4 else 8

/-! ### Completion of engine operations (R131, R249, R339) -/

/-- The class of a matrix-queue operation's counter (R338). -/
def MatKind.cls : MatKind → Nat
  | .meld .. | .vocab _ => 3
  | _ => 2

/-- Handles filled with a code at an operation's completion, and whether an acquire of the handle reaches gang scope. -/
def State.fillHandles (s : State) (hs : List (UnitRef × Nat)) (code : Nat) (wide : Bool) : State :=
  hs.foldl (fun s x => s.modUnit x.1 fun u =>
    let u := u.fill ⟨.h, x.2, 0, BitVec.ofNat 32 code⟩
    u.setScal { u.scal with hWide := setBit u.scal.hWide x.2 wide }) s

/-- The issuer's engine counter falls; an operation of gang scope or wider is marked for its class's acquires (R131). -/
def State.lowerEng (s : State) (r : UnitRef) (cls : Nat) (wide : Bool) : State :=
  s.modUnit r fun u =>
    let x := u.scal.lower cls
    u.setScal (if wide then { x with wide := setBit x.wide cls true } else x)

/-! ### Issue (R336 to R340) -/

/-- The instruction enters its core's matrix queue, with the code of a check that failed at issue. -/
def Ctx.enqueue (c : Ctx) (s : State) (code : Nat) (kind : MatKind) : State :=
  let r := c.iss.unit
  let hnd := nbit c.fn 2
  let s := s.raiseEng c kind.cls
  let s := if hnd then s.modUnit r fun u => (u.markEmpty .h c.d (BitVec.allOnes 96)).mapTraps (unlinkTraps c.d) else s
  let (n, s) := s.newId
  let m := s.matrix (s.clusterOf r) (s.coreOf r.ident r.gang c.matWg)
  let op : MatOp := ⟨n, r, c.matWg, if hnd then [(r, c.d)] else [], code, false, kind⟩
  s.setMatrix { m with queue := m.queue ++ [op] }

/-- The lowest of the codes that apply; 0 when none does (R339). -/
def lowestCode (cs : List (Bool × Nat)) : Nat :=
  ((cs.filter Prod.fst).map Prod.snd).foldl (fun a x => if a = 0 then x else min a x) 0

/-- Rows of bytes that a generic address and a stride name: the codes of their checks before translation. `al` is the alignment. -/
def Ctx.rowCodes (c : Ctx) (a stride rows bytes al : Nat) : List (Bool × Nat) :=
  let last := a + (rows - 1) * stride + bytes
  match aperture a with
  | .scratchpad => [((a % al ≠ 0 || stride % al ≠ 0), 3),
      ((spTarget c.iss.unit c.lr (a % 2 ^ 48) ((rows - 1) * stride + bytes)).isNone, 3)]
  | .global => [((a % al ≠ 0 || stride % al ≠ 0), 4), (2 ^ 56 < last, 9)]
  | _ => [(true, 3)]

/-- The pages that rows of bytes touch, each with its first address, in the order of the rows. -/
def rowPages (a stride rows bytes : Nat) : List (Nat × Nat) :=
  (List.range rows).foldl (fun ps i =>
    let lo := a + i * stride
    let hi := lo + bytes - 1
    let here := (List.range (hi / 2 ^ 16 - lo / 2 ^ 16 + 1)).map fun k =>
      (lo / 2 ^ 16 + k, if k = 0 then lo else (lo / 2 ^ 16 + k) * 2 ^ 16)
    ps ++ here.filter fun p => !(ps.any fun q => q.1 == p.1)) []

/-- The frames of the pages that translate. -/
def Ctx.pageFrames (c : Ctx) (s : State) (pages : List (Nat × Nat)) : List (Nat × Nat) :=
  pages.filterMap fun p => match c.pageOf s (p.1 * 2 ^ 16) with
    | some (.ok frame ..) => some (p.1, frame)
    | _ => none

/-- What stops an operation at a page: a page-fault cause, or none for code 9, when the page lies on trigger counters or has no
storage (R339, R340). -/
def Ctx.pageStop (c : Ctx) (s : State) (write : Bool) (p : Nat × Nat) : Option ((Nat × Nat) × Option Nat) :=
  match c.pageOf s (p.1 * 2 ^ 16) with
  | some (.fault cause) => some (p, some cause)
  | some (.ok frame mt _ w _ _) =>
    if write && !w then some (p, some 2)
    else if mt == 2 || targetOf (paLocal frame) == .trigger || !(s.backed frame) then some (p, none)
    else none
  | none => none

/-- An operation whose rows lie at a generic address: a failed check is reported without translating; otherwise every page is
translated at issue, and the first that stops the operation decides: a page fault parks the issuer, code 9 ends the operation
(R339, R340). -/
def Ctx.rowOp (c : Ctx) (s : State) (a stride rows bytes al : Nat) (write : Bool) (codes : List (Bool × Nat))
    (kind : List (Nat × Nat) → MatKind) : Eff :=
  let code := lowestCode (codes ++ c.rowCodes a stride rows bytes al)
  if code ≠ 0 || aperture a != .global then .done (c.enqueue s code (kind []))
  else
    let pages := rowPages a stride rows bytes
    match (pages.map Prod.fst).filter fun p => (c.pageOf s (p * 2 ^ 16)).isNone with
    | p :: ps => c.walkFor s 9 (p :: ps)
    | [] =>
      let s := c.promote s (pages.map Prod.fst)
      match pages.findSome? (c.pageStop s write) with
      | some (p, some cause) =>
        .stay (s.postUnitFault c (s.unitFault c 0 cause (b2n write) p.2 noLanes false false false)) (.parked false 9 [p.1])
          (some c.act)
      | some (_, none) => .done (c.enqueue s 9 (kind []))
      | none => .done (c.enqueue s 0 (kind (c.pageFrames s pages)))

/-- A C tile at a multiple of 64 KiB within accumulator storage (R85, R344). -/
def badTile (lr : LaunchRec) (t : Nat) : Bool := t % 65536 ≠ 0 || lr.accSize < t + lr.tileBytes

/-- R342. -/
def execMldb (o : Op) (s : State) : Out :=
  s.issue (.mldb o) fun c s =>
    let a := (c.src 0 0)
    let stride := (c.s32 1).toNat
    let sc := (c.s32 2).toNat
    c.rowOp s a.toNat stride 256 512 2 false [(8 ≤ sc, 17)] (.mldb (sc % 8) a stride (nbit c.fn 3))

/-- R343. -/
def execMlda (o : Op) (s : State) : Out :=
  s.issue (.mlda o) fun c s =>
    let off := (c.s32 0).toNat
    let stride := (c.s32 1).toNat
    let sc := (c.s32 2).toNat
    let code := lowestCode [((off % 2 ≠ 0 || stride % 2 ≠ 0 || c.lr.spSize < off + 63 * stride + 512), 3), (2 ≤ sc, 17)]
    .done (c.enqueue s code (.mlda (sc % 2) off stride))

/-- R344: the key block is read at issue. -/
def execMma (o : Op) (s : State) : Out :=
  s.issue (.mma o) fun c s =>
    let r (k : Nat) : Nat := (c.u.scal.sget (o.sa.toNat + k)).toNat
    let w := c.s32 1
    let code := lowestCode [(bits w.toNat 4 12 ≠ 0, 1), (badTile c.lr (r 0), 16)]
    .done (c.enqueue s code (.mma (r 0) (r 1) (r 2) (r 3) w))

/-- R345. -/
def execMzero (o : Op) (s : State) : Out :=
  s.issue (.mzero o) fun c s =>
    let t := (c.s32 0).toNat
    .done (c.enqueue s (if badTile c.lr t then 16 else 0) (.mzero t))

/-- Bytes of an element that MDRAIN writes (R346). -/
def drainSize (fmt : Nat) : Nat :=
  match fmt with
  | 0 => 12
  | 3 => 2
  | _ => 4

/-- R346. -/
def execMdrain (o : Op) (s : State) : Out :=
  s.issue (.mdrain o) fun c s =>
    let t := (c.s32 0).toNat
    let a := c.src 1 0
    let stride := (c.s32 2).toNat
    let fmt := bits c.fn 3 2
    c.rowOp s a.toNat stride 64 (256 * drainSize fmt) (if fmt = 3 then 2 else 4) true [(badTile c.lr t, 16)]
      (.mdrain t a stride fmt)

/-- R347. -/
def execMstat (o : Op) (s : State) : Out :=
  s.issue (.mstat o) fun c s =>
    let r := c.iss.unit
    let m := s.matrix (s.clusterOf r) (s.coreOf r.ident r.gang c.matWg)
    let brel := ((List.range 8).filter fun k => m.reload.any fun x => x.slot == k).foldl (fun a k => a + 2 ^ k) 0
    .done (s.produce c false [⟨.s, c.d, 0,
      BitVec.ofNat 32 (m.queue.length * 2 ^ 28 + brel * 2 ^ 16 + m.slices1 * 2 ^ 12 + m.slices0 * 2 ^ 8 + m.lastErr.toNat)⟩])

/-! ### What a queued operation does (R338 to R346) -/

/-- The location of a byte that a queued operation names by a generic address. -/
def State.opLoc (s : State) (op : MatOp) (xl : List (Nat × Nat)) (va : Nat) : Loc :=
  match aperture va with
  | .scratchpad =>
    match spTarget op.unit (s.lrec op.unit.ident) (va % 2 ^ 48) 1 with
    | some (w, off) => .sp op.unit.ident op.unit.gang w off
    | none => .sp op.unit.ident op.unit.gang op.wg 0
  | _ => .mem (((xl.find? fun x => x.1 == va / 2 ^ 16).map Prod.snd).getD 0 + va % 2 ^ 16)

/-- The global bytes that a queued operation's rows touch: their virtual and physical addresses. -/
def State.opBytes (s : State) (op : MatOp) (xl : List (Nat × Nat)) (vas : List Nat) : List (Nat × Nat) :=
  vas.filterMap fun va => match s.opLoc op xl va with
    | .mem pa => some (va, pa)
    | _ => none

/-- An operation's global bytes reach their home slices, in the cluster's requests (R77, R95). -/
def State.opReach (s : State) (op : MatOp) (xs : List (Nat × Nat)) : State :=
  (s.reachLines (s.lrec op.unit.ident).asid (s.clusterOf op.unit) xs Rank.plain)

/-- A B slot read from its source (R342); a line that fails its check value leaves the slot reading zero, with code 7. -/
def State.runMldb (s : State) (m : Matrix) (op : MatOp) (slot : Nat) (src : DWord) (stride : Nat) (reload : Bool)
    (xl : List (Nat × Nat)) : State × Nat :=
  let va (k j : Nat) : Nat := src.toNat + k * stride + j
  let loc (k j : Nat) : Loc := s.opLoc op xl (va k j)
  let at_ (k : Nat) : List Loc := (List.range 512).map (loc k)
  match s.checkCode op.unit ((List.range 256).findSome? fun k => s.badLine (at_ k)) with
  | (0, s') =>
    let v (k n : Nat) : Nat := leNat [s.rdLoc (loc k (2 * n)) 0, s.rdLoc (loc k (2 * n + 1)) 0]
    let reach (s : State) (k : Nat) : State := (s.opReach op (s.opBytes op xl ((List.range 512).map (va k)))).askLines (at_ k)
    (((List.range 256).foldl reach s').setMatrix (m.setSlot slot v (if reload then some ⟨slot, src, stride, none⟩ else none)), 0)
  | (code, s') => (s'.setMatrix (m.setSlot slot (fun _ _ => 0) none), code)

/-- A row buffer read from the scratchpad of the workgroup (R343). -/
def State.runMlda (s : State) (m : Matrix) (op : MatOp) (buf off stride : Nat) : State × Nat :=
  match s.checkCode op.unit ((List.range 64).findSome? fun i => s.poolCheck op.unit op.wg false (off + i * stride) 512) with
  | (0, s) =>
    let sp := ((s.wg? op.unit.ident op.unit.gang op.wg).map Workgroup.sp).getD []
    let v (i k : Nat) : Nat := leNat (getBytes sp (off + i * stride + 2 * k) 2)
    let n := sliceCount ((List.range 64).flatMap fun i => (List.range 256).map fun k => v i k)
    let m := { m with
      rows := tabRun m.rows (16384 * buf) 16384 fun x => v (x / 256) (x % 256)
      rowBad := m.rowBad.filter fun l => l / 512 != buf }
    (s.setMatrix (if buf = 0 then { m with slices0 := n } else { m with slices1 := n }), 0)
  | (code, s) => (s, code)

/-- The multiply-accumulate of a C tile (R200, R344). -/
def State.addMma (s : State) (m : Matrix) (op : MatOp) (acc elemBase estride chunkBase : Nat) (word : Word) : State :=
  let lr := s.lrec op.unit.ident
  let buf := bits word.toNat 3 1
  let slot := bits word.toNat 0 3
  let tag := bits word.toNat 16 16
  let elem (i j p : Nat) (old : Nat) : Nat :=
    (List.range 8).foldl (fun v c =>
      addChunk lr ((elemBase + i * estride + j) % 2 ^ 32) (chunkBase + c) tag p v
        ((List.range 32).map fun k => (m.aAt buf i (32 * c + k), m.bAt slot (32 * c + k) j))) old
  s.modWg op.unit.ident op.unit.gang op.wg fun w =>
    (List.range 64).foldl (fun w i => (List.range 256).foldl (fun w j => lr.planes.foldl (fun (w : Workgroup) p =>
      let off := tileOff acc p i j
      w.setAcc off (elem i j p (w.accWord off))) w) w) w

/-- The multiply-accumulate of sources that pass their checks. -/
def State.runMma (s : State) (m : Matrix) (op : MatOp) (acc elemBase estride chunkBase : Nat) (word : Word) : State × Nat :=
  let tile := s.poolCheck op.unit op.wg true acc (s.lrec op.unit.ident).tileBytes
  match s.checkCode op.unit (((m.slotCheck (bits word.toNat 0 3)).or (m.rowsCheck (bits word.toNat 3 1))).or tile) with
  | (0, s) => (s.addMma m op acc elemBase estride chunkBase word, 0)
  | (code, s) => (s, code)

/-- A run of bytes of accumulator storage set to zero, its lines good again (R345). -/
def Workgroup.zeroAcc (w : Workgroup) (off n : Nat) : Workgroup :=
  { w with
    acc := w.acc.filter fun x => x.1 < off || off + n ≤ x.1
    accBad := rewritten w.accBad off n }

/-- The bytes of a drained element from its planes (R346). -/
def drainBytes (single : Bool) (fmt : Nat) (x0 x1 x2 : Nat) : List Byte :=
  match fmt with
  | 0 => leBytes 4 x0 ++ leBytes 4 x1 ++ leBytes 4 x2
  | 1 => leBytes 4 (mdWord x0 x1 x2)
  | 2 => leBytes 4 x0
  | _ =>
    let v := if single then some x0 else f32.median x0 x1 x2
    leBytes 2 ((v.map fun x => (bf16.ofFV .near (f32.decode x)).1).getD bf16.qnan)

/-- The bytes that MDRAIN writes, with their generic addresses. -/
def State.drainOf (s : State) (op : MatOp) (acc : Nat) (dst : DWord) (stride fmt : Nat) : List (Nat × List Byte) :=
  match s.wg? op.unit.ident op.unit.gang op.wg with
  | none => []
  | some w =>
    (List.range 64).map fun i =>
      (dst.toNat + i * stride, (List.range 256).flatMap fun j =>
        drainBytes (s.lrec op.unit.ident).single fmt (w.accWord (tileOff acc 0 i j)) (w.accWord (tileOff acc 1 i j))
          (w.accWord (tileOff acc 2 i j)))

/-- MDRAIN writes its bytes: this package's at once, another's as packets (R346, R406). -/
def State.drainTo (s : State) (op : MatOp) (acc : Nat) (dst : DWord) (stride fmt : Nat) (xl : List (Nat × Nat)) : State :=
  (s.drainOf op acc dst stride fmt).foldl (fun s row =>
    let locs := row.2.zipIdx.map fun x => s.opLoc op xl (row.1 + x.2)
    let s := s.opReach op (s.opBytes op xl (row.2.zipIdx.map fun x => row.1 + x.2))
    let far := (locs.zip row.2).filterMap fun x => match x.1 with
      | .mem pa => if paPkg pa = s.pkg then none else some (pa, x.2)
      | _ => none
    if far.isEmpty then s.wrLocs locs row.2
    else
      let near := (locs.zip row.2).filter fun x => match x.1 with
        | .mem pa => paPkg pa == s.pkg
        | _ => true
      let s := s.wrLocs (near.map Prod.fst) (near.map Prod.snd)
      let (key, s) := s.runStream op.unit
      (splitLines far).foldl (fun s g => match g.head? with
        | some b => s.sendPacket key (paPkg b.1) (s.homeSlice b.1) (.write (paLocal b.1) (g.map Prod.snd)) (.matrix op.id)
        | none => s) s) s

/-- MDRAIN of a tile that passes its checks. -/
def State.runMdrain (s : State) (op : MatOp) (acc : Nat) (dst : DWord) (stride fmt : Nat) (xl : List (Nat × Nat)) : State × Nat :=
  match s.checkCode op.unit (s.poolCheck op.unit op.wg true acc (s.lrec op.unit.ident).tileBytes) with
  | (0, s) => (s.drainTo op acc dst stride fmt xl, 0)
  | (code, s) => (s, code)

end Sys2Proof.Machine
end

