-- ==== Sys2Proof/Machine/Vocab.lean ====
section
/-! DEFINITION. The vocabulary instructions: descriptors and row records (R348 to R351), the streaming projection (R352 to R356), melds (R357 to R361), gradients (R362 to R364), reading records (R365), and how a core's matrix queue moves on. -/

namespace Sys2Proof.Machine

open Sys2Proof

/-! ### The descriptor (R348, R362) -/

/-- A descriptor's field of `n` bytes at `k`. -/
def fldAt (b : List Byte) (k n : Nat) : Nat := leNat ((b.drop k).take n)

/-- The fields of a vocabulary descriptor. -/
structure VDesc where
  rows : Nat
  k : Nat
  chan : Nat
  wfmt : Nat
  dblk : Nat
  tag : Nat
  tokBase : Nat
  tokCnt : Nat
  shard : Nat
  rowKey : Nat
  wBase : Nat
  wStride : Nat
  hRows : Nat
  hStride : Nat
  labels : Nat
  record : Nat
  spill : Nat
  work : Nat
  ring : Nat
  ringN : Nat
  cont : Bool
  tile : Nat
  finRec : Nat
  gScale : Nat
  dhOff : Nat
  dloBlk : Nat
  dnBlk : Nat
  dwBase : Nat
  dwStride : Nat
  deriving DecidableEq, Repr

def VDesc.of (b : List Byte) : VDesc :=
  { rows := fldAt b 0 1, k := fldAt b 1 1, chan := fldAt b 2 1 % 32, wfmt := fldAt b 3 1, dblk := fldAt b 4 2, tag := fldAt b 6 2
    tokBase := fldAt b 8 4, tokCnt := fldAt b 12 4, shard := fldAt b 16 4 % 2 ^ 20, rowKey := fldAt b 20 4, wBase := fldAt b 24 8
    wStride := fldAt b 32 4, hRows := fldAt b 36 4, hStride := fldAt b 40 4, labels := fldAt b 44 4, record := fldAt b 48 4
    spill := fldAt b 52 4, work := fldAt b 56 4, ring := fldAt b 60 4, ringN := fldAt b 64 1, cont := nbit (fldAt b 65 1) 0
    tile := fldAt b 68 4, finRec := fldAt b 80 4, gScale := fldAt b 84 4, dhOff := fldAt b 88 4, dloBlk := fldAt b 92 2
    dnBlk := fldAt b 94 2, dwBase := fldAt b 96 8, dwStride := fldAt b 104 4 }

/-- Tiles of the shard, and the tokens present in one. -/
def VDesc.tiles (d : VDesc) : Nat := (d.tokCnt + 255) / 256
def VDesc.present (d : VDesc) (u : Nat) : Nat := min 256 (d.tokCnt - 256 * u)

/-- Columns that `rows` hidden rows take (R349). -/
def hiddenCols (rows : Nat) : Nat := if rows ≤ 16 then 16 else if rows ≤ 32 then 32 else 64

/-- The dimension block and row of column `n` of a slot of hidden rows (R349). -/
def hiddenAt (rows slot n : Nat) : Nat × Nat := (slot * (256 / hiddenCols rows) + n / hiddenCols rows, n % hiddenCols rows)

/-- Columns that the hidden rows take, the dimension blocks of a slot, the slots used (R349). -/
def VDesc.cols (d : VDesc) : Nat := hiddenCols d.rows
def VDesc.perSlot (d : VDesc) : Nat := 256 / d.cols
def VDesc.slots (d : VDesc) : Nat := (d.dblk * d.cols + 255) / 256

/-- The row key of row `r`, and E(`r`, `x`) (R353). -/
def VDesc.rkey (d : VDesc) (r : Nat) : Nat := (d.rowKey + r) % 2 ^ 32
def elemOf (rkey x : Nat) : Nat := rkey * 2 ^ 24 + x

/-- A nonzero reserved field, or a field that must be zero for the instruction (R348, R362). -/
def vocabReserved (regen : Bool) (b : List Byte) : Bool :=
  32 ≤ fldAt b 2 1 || 2 ^ 20 ≤ fldAt b 16 4 || 2 ≤ fldAt b 65 1 || fldAt b 66 2 ≠ 0 || fldAt b 72 8 ≠ 0 ||
  (b.drop 108).any (fun x => x != 0) ||
  (if regen then fldAt b 52 4 ≠ 0 || fldAt b 48 4 ≠ 0 || fldAt b 1 1 ≠ 0 || nbit (fldAt b 65 1) 0 || bits (fldAt b 80 4) 26 5 ≠ 0
   else ((b.drop 80).take 28).any fun x => x != 0)

/-- A count, size or field value out of its range (R339, R348, R349, R362). -/
def VDesc.outOfRange (d : VDesc) (regen : Bool) : Bool :=
  d.rows = 0 || 64 < d.rows || (!regen && (d.k = 0 || 64 < d.k)) || d.dblk = 0 || 64 < d.dblk || (d.wfmt ≠ 1 && d.wfmt ≠ 4) ||
  d.tokBase % 256 ≠ 0 || d.tokCnt = 0 || 2 ^ 24 - 2 < d.tokBase + d.tokCnt || d.ringN < 2 || 4 < d.ringN || 8 < d.slots ||
  (regen && d.dblk < d.dloBlk + d.dnBlk)

/-- Bytes of the dH planes (R362). -/
def VDesc.dhBytes (d : VDesc) (lr : LaunchRec) : Nat := lr.planes.length * d.rows * (256 * d.dnBlk) * 4

/-- Two runs of bytes share one. -/
def runsMeet (a n b m : Nat) : Bool := a < b + m && b < a + n && 0 < n && 0 < m

/-- Accumulator offsets misaligned, out of storage or overlapping (R348, R350, R362). -/
def VDesc.accBad (d : VDesc) (lr : LaunchRec) (regen : Bool) : Bool :=
  badTile lr d.work ||
  (if regen then d.dnBlk ≠ 0 && (d.dhOff % 64 ≠ 0 || lr.accSize < d.dhOff + d.dhBytes lr ||
      runsMeet d.dhOff (d.dhBytes lr) d.work lr.tileBytes)
   else d.record % 64 ≠ 0) ||
  (regen && nbit d.finRec 31 && d.finRec % 64 ≠ 0)

/-- Scratchpad ranges misaligned or beyond the scratchpad (R348, R362). -/
def VDesc.spBad (d : VDesc) (lr : LaunchRec) (regen : Bool) : Bool :=
  d.hRows % 2 ≠ 0 || d.hStride % 2 ≠ 0 || lr.spSize < d.hRows + (d.rows - 1) * d.hStride + 512 * d.dblk ||
  (d.labels ≠ 0xFFFFFFFF && lr.spSize < d.labels + 4 * d.rows) ||
  d.ring % 64 ≠ 0 || lr.spSize < d.ring + d.ringN * 131072 ||
  (regen && !(nbit d.finRec 31) && d.finRec % 64 ≠ 0)

/-! ### Row records (R350) -/

/-- Bytes of a record of capacity `k`. -/
def recSize (k : Nat) : Nat := 64 + 8 * k

/-- Where the rows' records lie: those that fit in accumulator storage clear of the work tile, then the spill area. -/
def recordPlaces (d : VDesc) (lr : LaunchRec) : List (Bool × Nat) :=
  let rs := recSize d.k
  let fits (r : Nat) : Bool :=
    d.record + (r + 1) * rs ≤ lr.accSize && !(runsMeet (d.record + r * rs) rs d.work lr.tileBytes)
  let f := ((List.range d.rows).find? fun r => !(fits r)).getD d.rows
  (List.range d.rows).map fun r => if r < f then (true, d.record + r * rs) else (false, d.spill + (r - f) * rs)

/-- Rows whose records fit in accumulator storage. -/
def fitCount (ps : List (Bool × Nat)) : Nat := (ps.filter Prod.fst).length

/-- Bytes of a record's storage. -/
def Workgroup.recGet (w : Workgroup) (p : Bool × Nat) (n : Nat) : List Byte := getBytes (if p.1 then w.acc else w.sp) p.2 n
def Workgroup.recPut (w : Workgroup) (p : Bool × Nat) (bs : List Byte) : Workgroup :=
  if p.1 then w.putAcc p.2 bs else w.putSp p.2 bs

/-- A row record's fields; entries are rank key and token. -/
structure RowRec where
  mx : List Nat
  sum : List Nat
  lbl : List Nat
  label : Nat
  rkey : Nat
  lo : Nat
  hi : Nat
  k : Nat
  lseen : Bool
  valid : Bool
  tag : Nat
  ents : List (Nat × Nat)
  deriving DecidableEq, Repr

def RowRec.of (b : List Byte) : RowRec :=
  { mx := [fldAt b 0 4, fldAt b 4 4, fldAt b 8 4], sum := [fldAt b 12 4, fldAt b 16 4, fldAt b 20 4]
    lbl := [fldAt b 24 4, fldAt b 28 4, fldAt b 32 4], label := fldAt b 36 4, rkey := fldAt b 40 4, lo := fldAt b 44 4
    hi := fldAt b 48 4, k := fldAt b 52 1, lseen := nbit (fldAt b 54 1) 0, valid := nbit (fldAt b 54 1) 1, tag := fldAt b 56 2
    ents := (List.range (min (fldAt b 53 1) (fldAt b 52 1))).map fun e => (fldAt b (64 + 8 * e) 4, fldAt b (68 + 8 * e) 4) }

/-- A nonzero reserved field of a record header. -/
def recReserved (b : List Byte) : Bool := 4 ≤ fldAt b 54 1 || fldAt b 55 1 ≠ 0 || fldAt b 58 6 ≠ 0

/-- The bytes of a record's header and filled entries. -/
def RowRec.bytes (x : RowRec) : List Byte :=
  (x.mx ++ x.sum ++ x.lbl).flatMap (leBytes 4) ++ leBytes 4 x.label ++ leBytes 4 x.rkey ++ leBytes 4 x.lo ++ leBytes 4 x.hi ++
  leBytes 1 x.k ++ leBytes 1 x.ents.length ++ leBytes 1 (b2n x.lseen + 2 * b2n x.valid) ++ leBytes 1 0 ++ leBytes 2 x.tag ++
  leBytes 6 0 ++ x.ents.flatMap fun e => leBytes 4 e.1 ++ leBytes 4 e.2

/-- The fields of planes 1 and 2 repeat plane 0 in single-lane mode (R350). -/
def repeatPlanes (single : Bool) (xs : List Nat) : List Nat := if single then List.replicate 3 (xs.headD 0) else xs

/-- One entry ranks before another: larger key, then smaller token id (R354). -/
def ranksBefore (a b : Nat × Nat) : Bool :=
  let x := f32.decode a.1
  let y := f32.decode b.1
  if y.lt x then true else if x.lt y then false else a.2 < b.2

/-- An entry put in its place, after those it does not rank before. -/
def insertRank (e : Nat × Nat) : List (Nat × Nat) → List (Nat × Nat)
  | [] => [e]
  | x :: r => if ranksBefore e x then e :: x :: r else x :: insertRank e r

/-- The best `k` of a list of entries. -/
def bestOf (k : Nat) (es : List (Nat × Nat)) : List (Nat × Nat) := (es.foldl (fun l e => insertRank e l) []).take k

/-- The rank key of three planes: their median, or plane 0; a zero of either sign is +0 (R354). -/
def rankKey (single : Bool) (x0 x1 x2 : Nat) : Nat :=
  let v := if single then x0 else (f32.median x0 x1 x2).getD f32.qnan
  if f32.mag v = 0 then 0 else v

/-! ### Exponentials (R353) -/

/-- log2 e in binary32. -/
def log2e : Nat := 0x3FB8AA3B

/-- EXPE(a - b): two roundings, the difference exact, keyed by an element and two chunks. -/
def expE (lr : LaunchRec) (elem chunk tag p a b : Nat) : Nat :=
  let y := ((f32.decode a).add .near (f32.decode b).negate).1
  let z := (f32.ofFV (planeDir lr elem chunk tag p) (y.mul (f32.decode log2e)).1).1
  (trRepro .exp2 f32 (planeDir lr elem (chunk + 1) tag p) z).1

/-- A sum of exact values rounded once. -/
def roundSum (d : Dir) (xs : List FV) : Nat := (f32.ofFV d ((xs.foldl (fun a x => (a.add .near x).1) (.fin false 0 0)))).1

/-- The scale of a sum when its maximum moves (R354, R360). -/
def rescale (lr : LaunchRec) (elem chunk tag p old new : Nat) : Nat :=
  if old = f32.infBits true then 0 else expE lr elem chunk tag p old new

/-! ### Issue (R337, R351) -/

/-- VOCAB.STREAM and VOCAB.REGEN at issue: the descriptor's checks, the heap-spill trap, and the queue. -/
def Ctx.vocabIssue (c : Ctx) (s : State) (regen : Bool) : Eff :=
  let r := c.iss.unit
  let off := (c.s32 0).toNat
  let job (b : List Byte) : MatKind := .vocab
    ⟨regen, b, off, (VDesc.of b).tile, 0, false, false, false, [], none, (match c.u with
      | .cox x => x.icount.toNat
      | .crew _ => 0), c.u.scal.round.toNat⟩
  if off % 64 ≠ 0 || c.lr.spSize < off + 128 then .done (c.enqueue s 3 (job []))
  else match s.checkCode r (s.poolCheck r c.matWg false off 128) with
  | (code + 1, s) => .done (c.enqueue s (code + 1) (job []))
  | (0, s) =>
    let b := s.spBytes r c.matWg off 128
    let d := VDesc.of b
    let first : List (Bool × Nat) := [(vocabReserved regen b, 1), (d.outOfRange regen, 17), (d.accBad c.lr regen, 16)]
    let rest : List (Bool × Nat) := [(d.spBad c.lr regen, 3), (regen && d.dwBase ≠ 0 && (d.dwBase % 4 ≠ 0 || d.dwStride % 4 ≠ 0), 4)]
    let ps := if regen then [] else recordPlaces d c.lr
    let f := fitCount ps
    let tooMany : Bool := f < ps.length
    if tooMany && d.spill = 0xFFFFFFFF && !(first.any Prod.fst) then
      .trap { kind := 8, sub := 0, code := BitVec.ofNat 32 f, addr := 0, lanes := none }
    else
      let spills : Bool := tooMany && d.spill ≠ 0xFFFFFFFF &&
        (d.spill % 64 ≠ 0 || c.lr.spSize < d.spill + (ps.length - f) * recSize d.k)
      .done (c.enqueue s (lowestCode (first ++ (spills, 3) :: rest)) (job b))

/-! ### Running (R349 to R356, R363) -/

/-- The label of a row as the descriptor gives it. -/
def VDesc.labelOf (d : VDesc) (w : Workgroup) (r : Nat) : Nat :=
  if d.labels = 0xFFFFFFFF then 0xFFFFFFFF else leNat (getBytes w.sp (d.labels + 4 * r) 4)

/-- A record address (R357): accumulator storage or scratchpad, workgroup and offset; the error code when it fails for a record of
`n` bytes. -/
def recAddr (cox : Bool) (own : Nat) (lr : LaunchRec) (a n : Nat) : Except Nat (Bool × Nat × Nat) :=
  let acc := nbit a 31
  let wg := if cox then bits a 24 2 else own
  let off := bits a 0 24
  if bits a 26 5 ≠ 0 || (!cox && bits a 24 2 ≠ 0) then .error 1
  else if off % 64 ≠ 0 || lr.wgs ≤ wg || (if acc then lr.accSize else lr.spSize) < off + n then .error (if acc then 16 else 3)
  else .ok (acc, wg, off)

/-- The bytes of a run of records at a record address that has passed its checks. -/
def State.recBytes (s : State) (r : UnitRef) (p : Bool × Nat × Nat) (i n : Nat) : List Byte :=
  match s.wg? r.ident r.gang p.2.1 with
  | some w => w.recGet (p.1, p.2.2 + i) n
  | none => List.replicate n 0

/-- The capacity of the first record at a record address, and where its run of `n` records lies. -/
def State.recRun (s : State) (r : UnitRef) (own : Nat) (a : Word) (n : Nat) : Except Nat (Nat × Bool × Nat × Nat) :=
  let cox := match r with
    | .crew .. => false
    | .cox .. => true
  let lr := s.lrec r.ident
  match recAddr cox own lr a.toNat 64 with
  | .error k => .error k
  | .ok p =>
    let k := fldAt (s.recBytes r p 0 64) 52 1
    match recAddr cox own lr a.toNat (n * recSize k) with
    | .error k => .error k
    | .ok p => .ok (k, p)

/-- The final records of a gradient lie in accumulator storage over the work tile or the dH planes of their own workgroup (R339, R362). -/
def VDesc.finOverlaps (d : VDesc) (lr : LaunchRec) (wg : Nat) (p : Bool × Nat × Nat) (n : Nat) : Bool :=
  p.1 && p.2.1 == wg && (runsMeet p.2.2 n d.work lr.tileBytes || runsMeet p.2.2 n d.dhOff (d.dhBytes lr))

/-- What a vocabulary operation's records must be when it starts (R339, R350, R362): the code of the failure. -/
def State.vocabStartCode (s : State) (op : MatOp) (j : VocabJob) : Nat :=
  let lr := s.lrec op.unit.ident
  let d := VDesc.of j.desc
  match s.wg? op.unit.ident op.unit.gang op.wg with
  | none => 0
  | some w =>
    let bad (keepK : Bool) (r : Nat) (b : List Byte) : List (Bool × Nat) :=
      let x := RowRec.of b
      [(recReserved b, 1),
       (!x.valid || (keepK && x.k ≠ d.k) || x.tag ≠ d.tag || x.rkey ≠ d.rkey r || x.label ≠ d.labelOf w r, 15)]
    if j.regen then
      match s.recRun op.unit op.wg (BitVec.ofNat 32 d.finRec) d.rows with
      | .error k => k
      | .ok (k, p) => lowestCode ((d.finOverlaps lr op.wg p (d.rows * recSize k), 16) ::
          (List.range d.rows).flatMap fun r => bad false r (s.recBytes op.unit p (r * recSize k) 64))
    else if d.cont then
      lowestCode (((recordPlaces d lr).zipIdx).flatMap fun x => bad true x.2 (w.recGet x.1 64))
    else 0

/-- The code of a vocabulary operation when it starts: the lowest of those of its issue and of its records (R339); one that has no
descriptor, or has been cancelled, keeps its own. -/
def State.vocabCode (s : State) (op : MatOp) (j : VocabJob) : Nat :=
  if op.code = 8 || j.desc.isEmpty then op.code
  else lowestCode [(op.code ≠ 0, op.code), (s.vocabStartCode op j ≠ 0, s.vocabStartCode op j)]

/-- What a vocabulary operation reads when it starts, and fails its check: hidden rows, labels, records (R349, R350, R362). -/
def State.vocabSources (s : State) (op : MatOp) (j : VocabJob) : Option (Option Nat × Nat) :=
  let lr := s.lrec op.unit.ident
  let d := VDesc.of j.desc
  let r := op.unit
  let rows := (List.range d.rows).findSome? fun i => s.poolCheck r op.wg false (d.hRows + i * d.hStride) (512 * d.dblk)
  let labels := if d.labels = 0xFFFFFFFF then none else s.poolCheck r op.wg false d.labels (4 * d.rows)
  let recs := if j.regen then match s.recRun r op.wg (BitVec.ofNat 32 d.finRec) d.rows with
      | .ok (k, p) => s.poolCheck r p.2.1 p.1 p.2.2 (d.rows * recSize k)
      | .error _ => none
    else if d.cont then (recordPlaces d lr).findSome? fun x => s.poolCheck r op.wg x.1 x.2 (recSize d.k)
    else none
  (rows.or labels).or recs

/-- What a tile of a vocabulary operation reads, and fails its check: the work tile, the dH planes of a gradient or the records of a
stream, and the hidden rows in the macros. -/
def State.tileSources (s : State) (m : Matrix) (op : MatOp) (j : VocabJob) : Option (Option Nat × Nat) :=
  let lr := s.lrec op.unit.ident
  let d := VDesc.of j.desc
  let r := op.unit
  let recs := if j.regen then s.poolCheck r op.wg true d.dhOff (d.dhBytes lr)
    else (recordPlaces d lr).findSome? fun x => s.poolCheck r op.wg x.1 x.2 (recSize d.k)
  ((s.poolCheck r op.wg true d.work lr.tileBytes).or recs).or ((List.range d.slots).findSome? m.slotCheck)

/-- A record as the operation first writes it (R350). -/
def VDesc.freshRec (d : VDesc) (w : Workgroup) (r : Nat) : RowRec :=
  { mx := List.replicate 3 (f32.infBits true), sum := [0, 0, 0], lbl := [0, 0, 0], label := d.labelOf w r, rkey := d.rkey r
    lo := d.shard, hi := d.shard, k := d.k, lseen := false, valid := true, tag := d.tag, ents := [] }

/-- The hidden rows loaded into the macros, each slot with HROWS as its reload descriptor (R349). -/
def Matrix.loadHidden (m : Matrix) (d : VDesc) (wg : Nat) (w : Workgroup) : Matrix :=
  (List.range d.slots).foldl (fun m slot =>
    m.setSlot slot (fun k n =>
      let (b, r) := hiddenAt d.rows slot n
      if b < d.dblk && r < d.rows then leNat (getBytes w.sp (d.hRows + r * d.hStride + 2 * (256 * b + k)) 2) else 0)
      (some ⟨slot, BitVec.ofNat 64 (0xFFFF000000000000 + wg * 2 ^ 24 + d.hRows), d.hStride, some (d.rows, d.dblk)⟩)) m

/-- Hidden row `r`, dimension `k`, as the macros hold it. -/
def Matrix.hidden (m : Matrix) (d : VDesc) (r k : Nat) : Nat :=
  let b := k / 256
  m.bAt (b / d.perSlot) (k % 256) (b % d.perSlot * d.cols + r)

/-- The head of a matrix queue replaced. -/
def Matrix.setHead (m : Matrix) (op : MatOp) : Matrix :=
  match m.queue with
  | [] => m
  | _ :: r => { m with queue := op :: r }

/-- The shape of a request of a vocabulary operation. -/
def vocabCopy (src dst : DWord) (sfmt dfmt redop ext0 ext1 : Nat) (sstr dstr : Int) : CopyJob :=
  { src := src, dst := dst, bbar := 0xFFFFFFFF#32, tctr := none, ndim := 2, sfmt := sfmt, dfmt := dfmt, perm := false, baxis := false
    redop := redop, pstride := 0, origin := 0, exts := [ext0, ext1, 1, 1], sstr := [sstr, 0, 0], dstr := [dstr, 0, 0], rmask := 0
    table := [], total := 0, wp := 0, stepBytes := 0, reads := [], got := [], writes := [] }

/-- A request that a vocabulary operation puts on its channel. -/
def State.vocabRequest (s : State) (op : MatOp) (j : VocabJob) (d : VDesc) (core : Nat) (dw : Bool) (elem : Nat) (job : CopyJob)
    (data : List Word) : State :=
  let (n, s) := s.newId
  let q : CopyReq :=
    { id := n, cluster := s.clusterOf op.unit, chan := d.chan, unit := op.unit, record := none, scope := if dw then 2 else 1
      handles := [], nf := [], kclass := 1, issuer := op.unit.gang, icount := j.icount, round := j.round
      pid := s.pid op.unit, place := 0, vocab := some (core, dw, elem), data := data, cancel := false, skipWatch := [], streams := []
      phase := .queued, job := some job, upset := false }
  { s with eng := { s.eng with copies := s.eng.copies ++ [q] } }

/-- The panel of dimension block `b` of a tile (R352). -/
def panelJob (op : MatOp) (d : VDesc) (u b : Nat) : CopyJob :=
  let at_ := d.ring + (u * d.dblk + b) % d.ringN * 131072
  vocabCopy (BitVec.ofNat 64 (d.wBase + 256 * u * d.wStride + (if d.wfmt = 1 then 512 else 144) * b))
    (BitVec.ofNat 64 (0xFFFF000000000000 + op.wg * 2 ^ 24 + at_)) d.wfmt 1 0 256 (d.present u) d.wStride 512

/-- The weight of token `x` of the tile in dimension `k` of a panel in the ring. -/
def panelWeight (w : Workgroup) (d : VDesc) (u b x k : Nat) : Nat :=
  leNat (getBytes w.sp (d.ring + (u * d.dblk + b) % d.ringN * 131072 + 512 * x + 2 * k) 2)

/-- A logit's plane in the work tile: row `r`, token `x` of the tile. -/
def Workgroup.logit (w : Workgroup) (d : VDesc) (p r x : Nat) : Nat := w.accWord (tileOff d.work p r x)

/-- The k-chunks of one panel accumulated into the work tile (R352, R353). -/
def accumulatePanel (lr : LaunchRec) (m : Matrix) (d : VDesc) (u b : Nat) (w : Workgroup) : Workgroup :=
  (List.range d.rows).foldl (fun w r => (List.range (d.present u)).foldl (fun w x => lr.planes.foldl (fun (w : Workgroup) p =>
    let v := (List.range 8).foldl (fun v c =>
      addChunk lr (elemOf (d.rkey r) (d.tokBase + 256 * u + x)) (8 * b + c) d.tag p v
        ((List.range 32).map fun k => (m.hidden d r (256 * b + 32 * c + k), panelWeight w d u b x (32 * c + k))))
      (w.logit d p r x)
    w.setAcc (tileOff d.work p r x) v) w) w) w

/-- The first logit of the tile that is not finite: lowest row, then lowest token (R355). -/
def badLogit (lr : LaunchRec) (d : VDesc) (u : Nat) (w : Workgroup) : Option (Nat × Nat) :=
  (List.range d.rows).findSome? fun r => ((List.range (d.present u)).find? fun x =>
    lr.planes.any fun p => 0x7F800000 ≤ f32.mag (w.logit d p r x)).map fun x => (r, d.tokBase + 256 * u + x)

/-- The gradient of a token in a plane (R363). -/
def gradient (lr : LaunchRec) (d : VDesc) (x : RowRec) (r token p l : Nat) : Nat :=
  let mx := (x.mx[p]?).getD 0
  let sum := f32.decode ((x.sum[p]?).getD 0)
  let e := elemOf (d.rkey r) token
  let q := f32.decode (expE lr e (2 ^ 40) d.tag p l mx)
  let dir := planeDir lr e (2 ^ 40 + 2) d.tag p
  let g := f32.decode d.gScale
  let hit := x.label = token
  let v := match sum with
    | .fin _ (_ + 1) _ =>
      let num := if hit then (q.add dir sum.negate).1 else q
      ((num.mul g).1.div sum).1
    | _ =>
      let t := (q.div sum).1
      let t := if hit then (t.add dir (.fin true 1 0)).1 else t
      (t.mul g).1
  (bf16.ofFV dir v).1

/-- The dH planes with a tile's contributions (R363). -/
def addDh (lr : LaunchRec) (d : VDesc) (u : Nat) (grad : Nat → Nat → Nat → Nat) (weight : Nat → Nat → Nat) (w : Workgroup) : Workgroup :=
  let dn := 256 * d.dnBlk
  lr.planes.foldl (fun w p => (List.range d.rows).foldl (fun w r => (List.range dn).foldl (fun (w : Workgroup) kk =>
    let k := 256 * d.dloBlk + kk
    let off := d.dhOff + ((p * d.rows + r) * dn + kk) * 4
    let v := (List.range 8).foldl (fun v c =>
      addChunk lr (2 ^ 63 + d.rkey r * 2 ^ 16 + k) (d.tokBase / 32 + 8 * u + c) d.tag p v
        (((List.range 32).filter fun t => 32 * c + t < d.present u).map fun t => (grad p r (32 * c + t), weight k (32 * c + t))))
      (w.accWord off)
    w.setAcc off v) w) w) w

/-- The dW elements of a tile in the order of tokens, then dimensions (R363). -/
def dwOf (lr : LaunchRec) (m : Matrix) (d : VDesc) (u : Nat) (grad : Nat → Nat → Nat → Nat) : List Word :=
  (List.range (d.present u)).flatMap fun x => (List.range (256 * d.dblk)).map fun k =>
    let plane (p : Nat) : Nat := (List.range 2).foldl (fun v c =>
      addChunk lr (2 ^ 62 + (d.tokBase + 256 * u + x) * 2 ^ 16 + k) c d.tag p v
        (((List.range 32).filter fun t => 32 * c + t < d.rows).map fun t => (grad p (32 * c + t) x, m.hidden d (32 * c + t) k))) 0
    BitVec.ofNat 32 (if lr.single then plane 0 else (f32.median (plane 0) (plane 1) (plane 2)).getD f32.qnan)

/-- A row's record after a tile (R354). -/
def tileRec (lr : LaunchRec) (d : VDesc) (u r : Nat) (w : Workgroup) (x : RowRec) : RowRec :=
  let toks := List.range (d.present u)
  let id (t : Nat) : Nat := d.tokBase + 256 * u + t
  let row := elemOf (d.rkey r) (2 ^ 24 - 1)
  let ck := 2 ^ 41 + 4 * (d.tokBase / 256 + u)
  let plane (p : Nat) : Nat × Nat :=
    let old := (x.mx[p]?).getD 0
    let new := toks.foldl (fun a t => (f32.minMax true a (w.logit d p r t)).1) old
    let f := rescale lr row ck d.tag p old new
    let terms := toks.map fun t => f32.decode (expE lr (elemOf (d.rkey r) (id t)) (2 ^ 40) d.tag p (w.logit d p r t) new)
    (new, roundSum (planeDir lr row (ck + 2) d.tag p) (((f32.decode ((x.sum[p]?).getD 0)).mul (f32.decode f)).1 :: terms))
  let ps := lr.planes.map plane
  let here := (toks.find? fun t => id t = x.label)
  let keys := toks.map fun t => (rankKey lr.single (w.logit d 0 r t) (w.logit d 1 r t) (w.logit d 2 r t), id t)
  { x with
    mx := repeatPlanes lr.single (ps.map Prod.fst), sum := repeatPlanes lr.single (ps.map Prod.snd)
    lbl := match here with
      | some t => repeatPlanes lr.single (lr.planes.map fun p => w.logit d p r t)
      | none => x.lbl
    lseen := x.lseen || (here.isSome && x.label != 0xFFFFFFFF), ents := bestOf x.k (x.ents ++ keys) }

/-- TILE as the engine writes it into the descriptor (R348). -/
def Workgroup.putTile (w : Workgroup) (off u : Nat) : Workgroup := w.putSp (off + 68) (leBytes 4 u)

/-- A tile's panels have all arrived: a logit that is not finite stops the operation (R355). -/
def State.tileArrived (s : State) (op : MatOp) (j : VocabJob) (d : VDesc) : VocabJob × Nat :=
  match s.wg? op.unit.ident op.unit.gang op.wg with
  | none => (j, 0)
  | some w => match badLogit (s.lrec op.unit.ident) d j.tile w with
    | some b => ({ j with bad := some b }, 14)
    | none => (j, 0)

/-- The gradients of a tile: dH, and the dW request (R363). -/
def State.gradeTile (s : State) (m : Matrix) (op : MatOp) (j : VocabJob) (d : VDesc) : State :=
  let lr := s.lrec op.unit.ident
  match s.wg? op.unit.ident op.unit.gang op.wg, s.recRun op.unit op.wg (BitVec.ofNat 32 d.finRec) d.rows with
  | some w, .ok (k, p) =>
    let recs := (List.range d.rows).map fun r => RowRec.of (s.recBytes op.unit p (r * recSize k) 64)
    let recOf (r : Nat) : RowRec := (recs[r]?).getD (RowRec.of [])
    let grad (pl r x : Nat) : Nat := gradient lr d (recOf r) r (d.tokBase + 256 * j.tile + x) pl (w.logit d pl r x)
    let weight (kk x : Nat) : Nat := (tget 0 j.window (256 * kk + x)).toNat
    let s := if d.dnBlk = 0 then s
      else s.modWg op.unit.ident op.unit.gang op.wg (addDh lr d j.tile grad weight)
    if d.dwBase = 0 then s
    else s.vocabRequest op j d m.core true (256 * j.tile)
      (vocabCopy 0 (BitVec.ofNat 64 (d.dwBase + 256 * j.tile * d.dwStride)) 3 3 3 (256 * d.dblk) (d.present j.tile) 0 d.dwStride)
      (dwOf lr m d j.tile grad)
  | _, _ => s

/-- The head of a core's matrix queue moves as far as it can by itself: a vocabulary operation starts, asks for its next panel,
forms its gradients (R349, R352, R363). -/
def State.kick (s : State) (cluster core : Nat) : State :=
  let m := s.matrix cluster core
  match m.queue with
  | [] => s
  | op :: _ =>
    match op.kind with
    | .vocab j =>
      if j.started && op.code ≠ 0 then s
      else
        let d := VDesc.of j.desc
        let lr := s.lrec op.unit.ident
        let i := op.unit.ident
        let g := op.unit.gang
        let (code, s) := if j.started then (0, s)
          else if s.vocabCode op j ≠ 0 then (s.vocabCode op j, s)
          else s.checkCode op.unit (s.vocabSources op j)
        if code ≠ 0 then s.setMatrix (m.setHead { op with code := code, kind := .vocab { j with started := true } })
        else
          let (m, s) := if j.started then (m, s)
            else match s.wg? i g op.wg with
            | none => (m, s)
            | some w =>
              let fresh (w : Workgroup) : Workgroup :=
                if j.regen || d.cont then w
                else ((recordPlaces d lr).zipIdx).foldl (fun v x => v.recPut x.1 (d.freshRec w x.2).bytes) w
              (m.loadHidden d op.wg w, s.modWg i g op.wg fresh)
          let j := { j with started := true }
          let room := s.panelRoom cluster d.chan
          if d.tiles ≤ j.tile || j.waiting then s.setMatrix (m.setHead { op with kind := .vocab j })
          else if j.block < d.dblk then
            if room then
              let s := if j.block = 0 then s.modWg i g op.wg fun w => w.zeroAcc d.work lr.tileBytes else s
              (s.setMatrix (m.setHead { op with kind := .vocab { j with waiting := true } })).vocabRequest op j d core false 0
                (panelJob op d j.tile j.block) []
            else s.setMatrix (m.setHead { op with kind := .vocab j })
          else if j.regen && !j.graded && (d.dwBase = 0 || room) then
            (s.setMatrix (m.setHead { op with kind := .vocab { j with graded := true } })).gradeTile m op j d
          else s.setMatrix (m.setHead { op with kind := .vocab j })
    | _ => s

/-- Every core of a cluster. -/
def State.kickAll (s : State) (cluster : Nat) : State := (List.range 4).foldl (fun s co => s.kick cluster co) s

/-- A request of a vocabulary operation has completed with a code (R352, R363). -/
def State.vocabDone (s : State) (q : CopyReq) (core : Nat) (dw : Bool) (code : Nat) : State :=
  let m := s.matrix q.cluster core
  match m.queue with
  | [] => s
  | op :: _ =>
    match op.kind with
    | .vocab j =>
      if op.unit != q.unit || op.code ≠ 0 then s
      else if code ≠ 0 then s.setMatrix (m.setHead { op with code := 18, kind := .vocab { j with waiting := false } })
      else if dw then s
      else
        let d := VDesc.of j.desc
        let lr := s.lrec op.unit.ident
        match s.wg? op.unit.ident op.unit.gang op.wg with
        | none => s
        | some w =>
          let win := if j.regen && d.dloBlk ≤ j.block && j.block < d.dloBlk + d.dnBlk then
              tabRun j.window (65536 * j.block) 65536 fun n =>
                if n % 256 < d.present j.tile then panelWeight w d j.tile j.block (n % 256) (n / 256) else 0
            else j.window
          let panel := s.poolCheck op.unit op.wg false (d.ring + (j.tile * d.dblk + j.block) % d.ringN * 131072) 131072
          match s.checkCode op.unit (panel.or (s.tileSources m op j)) with
          | (0, s) =>
            let s := s.modWg op.unit.ident op.unit.gang op.wg (accumulatePanel lr m d j.tile j.block)
            let j := { j with block := j.block + 1, waiting := false, window := win }
            let (j, code) := if j.block = d.dblk then s.tileArrived op j d else (j, 0)
            s.setMatrix (m.setHead { op with code := code, kind := .vocab j })
          | (code, s) => s.setMatrix (m.setHead { op with code := code, kind := .vocab { j with waiting := false } })
    | _ => s

/-- The dW requests of an operation that still run, and those not yet accepted. -/
def State.dwCopies (s : State) (op : MatOp) (core : Nat) : List CopyReq :=
  s.eng.copies.filter fun q => q.unit == op.unit && match q.vocab with
    | some (co, dw, _) => co == core && dw
    | none => false

/-- VOCAB_TILE_COMMIT may come: every panel has arrived, and a regeneration's dW requests have been accepted (R354, R363). -/
def State.tileReady (s : State) (m : Matrix) : Bool :=
  match m.queue with
  | op :: _ => match op.kind with
    | .vocab j =>
      let d := VDesc.of j.desc
      op.code = 0 && j.started && !j.waiting && j.tile < d.tiles && j.block = d.dblk && 0 < d.dblk &&
        (!j.regen || (j.graded && (s.dwCopies op m.core).all fun q => q.phase != .queued))
    | _ => false
  | [] => false

/-- VOCAB_TILE_COMMIT (R352, R354, R363). -/
def execVocabTileCommit (cluster core : Nat) (s : State) : Out :=
  let m := s.matrix cluster core
  if !(s.tileReady m) then .refused .noSuchEvent
  else match m.queue with
  | op :: _ => match op.kind with
    | .vocab j =>
      let d := VDesc.of j.desc
      let lr := s.lrec op.unit.ident
      let commit (w : Workgroup) : Workgroup :=
        let v := if j.regen then w
          else ((recordPlaces d lr).zipIdx).foldl (fun v x =>
            v.recPut x.1 (tileRec lr d j.tile x.2 w (RowRec.of (w.recGet x.1 (recSize d.k)))).bytes) w
        v.putTile j.off (j.tile + 1)
      let s := s.modWg op.unit.ident op.unit.gang op.wg commit
      let j := { j with tile := j.tile + 1, block := 0, graded := false, window := [] }
      .next ((s.setMatrix (m.setHead { op with kind := .vocab j })).kick cluster core)
    | _ => .refused .noSuchEvent
  | [] => .refused .noSuchEvent

/-! ### Melds (R358 to R360) -/

/-- The meld of two records (R360). -/
def meldRec (lr : LaunchRec) (l q : RowRec) : RowRec :=
  let e := elemOf l.rkey (2 ^ 24 - 1)
  let ck := 2 ^ 42 + 8 * (l.lo * 2 ^ 20 + q.hi)
  let plane (p : Nat) : Nat × Nat :=
    let ml := (l.mx[p]?).getD 0
    let mq := (q.mx[p]?).getD 0
    let new := (f32.minMax true ml mq).1
    let fl := rescale lr e ck l.tag p ml new
    let fq := rescale lr e (ck + 2) l.tag p mq new
    let t (x : RowRec) (f : Nat) : FV := ((f32.decode ((x.sum[p]?).getD 0)).mul (f32.decode f)).1
    (new, roundSum (planeDir lr e (ck + 4) l.tag p) [t l fl, t q fq])
  let ps := lr.planes.map plane
  { l with
    mx := repeatPlanes lr.single (ps.map Prod.fst), sum := repeatPlanes lr.single (ps.map Prod.snd)
    lbl := if l.lseen then l.lbl else q.lbl, lseen := l.lseen || q.lseen, hi := q.hi, ents := bestOf l.k (l.ents ++ q.ents) }

/-- Two records may be melded (R359). -/
def mayMeld (l q : RowRec) : Bool :=
  l.k == q.k && l.tag == q.tag && l.rkey == q.rkey && l.label == q.label && decide (l.hi < q.lo)

/-- VMELD: the records to write on the left, or the code of the first check that fails (R358, R359). -/
def State.meldOf (s : State) (op : MatOp) (left right : Word) (rows : Nat) (move : Bool) : Except Nat (List ((Bool × Nat × Nat) × List Byte)) :=
  let r := op.unit
  let n := if rows = 0 || 64 < rows then 0 else rows
  let lr := s.lrec r.ident
  let x := s.recRun r op.wg left n
  let y := s.recRun r op.wg right n
  let code (e : Except Nat (Nat × Bool × Nat × Nat)) : List (Bool × Nat) := match e with
    | .error k => [(true, k)]
    | .ok _ => []
  match x, y with
  | .ok (lk, lp), .ok (rk, rp) =>
    let pairs := (List.range n).map fun i =>
      ((lp.1, lp.2.1, lp.2.2 + i * recSize lk), s.recBytes r lp (i * recSize lk) (recSize lk), s.recBytes r rp (i * recSize rk) (recSize rk))
    let bad : List (Bool × Nat) := (decide (n = 0), 17) :: (pairs.flatMap fun p => [(recReserved p.2.1, 1), (recReserved p.2.2, 1)])
    if lowestCode bad ≠ 0 then .error (lowestCode bad)
    else if move then .ok (pairs.map fun p => (p.1, p.2.2))
    else
      let both (p : (Bool × Nat × Nat) × List Byte × List Byte) : Bool := (RowRec.of p.2.1).valid && (RowRec.of p.2.2).valid
      if pairs.any fun p => both p && !(mayMeld (RowRec.of p.2.1) (RowRec.of p.2.2)) then .error 15
      else .ok (pairs.filterMap fun p =>
        if both p then some (p.1, (meldRec lr (RowRec.of p.2.1) (RowRec.of p.2.2)).bytes)
        else if (RowRec.of p.2.1).valid then none
        else some (p.1, p.2.2))
  | _, _ => .error (lowestCode ((n = 0 || n ≠ rows, 17) :: code x ++ code y))

/-- The records that a meld reads and that fail their checks: the right ones, and without MOVE the left ones. -/
def State.meldSources (s : State) (op : MatOp) (left right : Word) (rows : Nat) (move : Bool) : Option (Option Nat × Nat) :=
  let side (a : Word) : Option (Option Nat × Nat) := match s.recRun op.unit op.wg a rows with
    | .ok (k, p) => s.poolCheck op.unit p.2.1 p.1 p.2.2 (rows * recSize k)
    | .error _ => none
  (side right).or (if move then none else side left)

/-- R358. -/
def State.runMeld (s : State) (op : MatOp) (left right : Word) (rows : Nat) (move : Bool) : State × Nat :=
  match s.meldOf op left right rows move, s.checkCode op.unit (s.meldSources op left right rows move) with
  | .error k, (0, _) => (s, k)
  | .error k, (code, s) => (s, lowestCode [(true, k), (true, code)])
  | .ok _, (code + 1, s) => (s, code + 1)
  | .ok ws, (0, s) => (ws.foldl (fun s x => s.modWg op.unit.ident op.unit.gang x.1.2.1 fun w => w.recPut (x.1.1, x.1.2.2) x.2) s, 0)

/-! ### The queue's head (R336, R338, R339) -/

/-- The head of a queue may complete: its issuer's earlier accesses have been performed, and a vocabulary operation has ended. -/
def State.matReady (s : State) (m : Matrix) : Bool :=
  match m.queue with
  | [] => false
  | op :: _ =>
    if op.sent then !(s.fab.out.any fun p => p.origin == .matrix op.id)
    else if op.code ≠ 0 then
      match op.kind with
      | .vocab j => (j.started || op.code == 8) && !(s.eng.copies.any fun q => q.unit == op.unit && match q.vocab with
          | some (co, _, _) => co == m.core
          | none => false)
      | _ => true
    else match op.kind with
    | .vocab j => j.started && (VDesc.of j.desc).tiles ≤ j.tile && (s.dwCopies op m.core).isEmpty
    | _ => !(s.flight.stores.any fun o => o.unit == op.unit && decide (o.id < op.id)) &&
        !(s.flight.atomics.any fun o => o.unit == op.unit && decide (o.id < op.id))

/-- An operation leaves the queue with a code (R131, R339, R355). -/
def State.endMatOp (s : State) (cluster core : Nat) (op : MatOp) (code : Nat) : State :=
  let m := s.matrix cluster core
  let m := { m.withOps (m.ops.drop 1) with lastErr := if code = 0 then m.lastErr else BitVec.ofNat 8 code }
  let wide := match op.kind with
    | .mdrain _ dst _ _ _ => isGlobal dst.toNat
    | .vocab j => j.regen && (VDesc.of j.desc).dwBase ≠ 0
    | _ => false
  let s := ((s.setMatrix m).fillHandles op.handles code wide).lowerEng op.unit op.kind.cls wide
  let own := (op.handles.find? fun h => h.1 == op.unit).map Prod.snd
  let s := match op.kind with
    | .vocab j => match j.bad with
      | some (row, tok) =>
        let t : LogitTrap := ⟨op.id, row, tok, own, false⟩
        if code = 14 then s.modUnit op.unit fun u => u.mapTraps fun ts => ts ++ [t] else s
      | none => s
    | _ => s
  (s.kick cluster core).reapGang op.unit.ident op.unit.gang

/-- MATRIX_OP_COMPLETE: the operation at the head of a core's queue takes effect, or fails (R336, R338 to R346, R358). -/
def execMatrixOpComplete (cluster core : Nat) (s : State) : Out :=
  let m := s.matrix cluster core
  if !(s.matReady m) then .refused .noSuchEvent
  else match m.queue with
  | [] => .refused .noSuchEvent
  | op :: _ =>
    if op.sent || op.code ≠ 0 then .next (s.endMatOp cluster core op op.code)
    else match op.kind with
    | .mldb slot src stride reload xl =>
      let (s, code) := s.runMldb m op slot src stride reload xl
      .next (s.endMatOp cluster core op code)
    | .mlda buf off stride =>
      let (s, code) := s.runMlda m op buf off stride
      .next (s.endMatOp cluster core op code)
    | .mma acc eb es cb word =>
      let (s, code) := s.runMma m op acc eb es cb word
      .next (s.endMatOp cluster core op code)
    | .mzero acc =>
      .next ((s.modWg op.unit.ident op.unit.gang op.wg fun w => w.zeroAcc acc (s.lrec op.unit.ident).tileBytes).endMatOp cluster core op 0)
    | .mdrain acc dst stride fmt xl =>
      let (s, code) := s.runMdrain op acc dst stride fmt xl
      if code ≠ 0 then .next (s.endMatOp cluster core op code)
      else if s.fab.out.any fun p => p.origin == .matrix op.id then .next (s.setMatrix (m.setHead { op with sent := true }))
      else .next (s.endMatOp cluster core op 0)
    | .meld left right rows move =>
      let (s, code) := s.runMeld op left right rows move
      .next (s.endMatOp cluster core op code)
    | .vocab _ => .next (s.endMatOp cluster core op 0)

/-! ### The instructions -/

/-- The instruction has entered the queue of its core, which moves on. -/
def State.kickFor (s : State) (c : Ctx) : State := s.kick (s.clusterOf c.iss.unit) (s.coreOf c.iss.unit.ident c.iss.unit.gang c.matWg)

/-- The queue moves on once an instruction has entered it. -/
def Ctx.kicked (c : Ctx) (e : Eff) : Eff :=
  match e with
  | .done s => .done (s.kickFor c)
  | e => e

/-- R352. -/
def execVocabStream (o : Op) (s : State) : Out := s.issue (.vocabStream o) fun c s => c.kicked (c.vocabIssue s false)
/-- R363. -/
def execVocabRegen (o : Op) (s : State) : Out := s.issue (.vocabRegen o) fun c s => c.kicked (c.vocabIssue s true)
/-- R358. -/
def execVmeld (o : Op) (s : State) : Out :=
  s.issue (.vmeld o) fun c s => .done (c.enqueue s 0 (.meld (c.s32 0) (c.s32 1) (c.s32 2).toNat (nbit c.fn 3)))

/-- What VHEAPRD reads for index `e` (R365). -/
def heapWord (hdr : Bool) (b : List Byte) (e : Nat) : Word × Word :=
  if hdr then (if e < 16 then (BitVec.ofNat 32 (fldAt b (4 * e) 4), 0) else (0, 0))
  else if e < fldAt b 53 1 && 72 + 8 * e ≤ b.length then
    (BitVec.ofNat 32 (fldAt b (64 + 8 * e) 4), BitVec.ofNat 32 (fldAt b (68 + 8 * e) 4))
  else (0xFF800000#32, 0xFFFFFFFF#32)

/-- R365. -/
def execVheaprd (o : Op) (s : State) : Out :=
  s.issue (.vheaprd o) fun c s =>
    let r := c.iss.unit
    let a := c.s32 0
    let hdr := nbit c.fn 0
    let start := (c.s32 1).toNat
    if c.act == 0 then .done s
    else match s.recRun r (wgOf r) a 1 with
    | .error k =>
      c.addrFault s (if k ≠ 1 && a.toNat % 64 ≠ 0 then 3 else 4) 0 9 a.toNat noLanes
    | .ok (k, p) =>
      let b := s.recBytes r p 0 (recSize k)
      match s.poolCheck r p.2.1 p.1 p.2.2 (recSize k), c.u with
      | some x, _ => .done (s.integrityCheck r x)
      | none, .cox _ =>
        let v := heapWord hdr b start
        .done (s.produce c false [⟨.s, c.d, 0, v.1⟩, ⟨.s, c.d + 1, 0, v.2⟩])
      | none, .crew _ =>
        .done (s.produce c false ((lanesOf c.act).flatMap fun l =>
          let v := heapWord hdr b (start + threadOf c.single l)
          [⟨.v, c.d, l, v.1⟩, ⟨.v, c.d + 1, l, v.2⟩]))

end Sys2Proof.Machine
end

