-- ==== Sys2Proof/Machine/Copy.lean ====
section
/-! DEFINITION. The copy engines: checks at acceptance (R100 to R106), 256-byte steps with conversion, permutation, replication and reduction (R102, R103, R107 to R110, R411), and completion (R105). -/

namespace Sys2Proof.Machine

open Sys2Proof

/-! ### Formats (R102, R108, R181, R182) -/

/-- The code of a packed number format. -/
def isNfCode (c : Nat) : Bool := 8 ≤ c && c ≤ 11

/-- A pair of formats that a copy may name. -/
def pairOk (sf df : Nat) : Bool :=
  match sf with
  | 0 => df == 0
  | 1 => df == 1 || df == 3
  | 2 => df == 1 || df == 2 || df == 3
  | 3 => df == 3 || df == 1
  | 4 => df == 1
  | c => isNfCode c && (df == c || df == 1 || df == 3)

/-- Bytes of an element or container of a format. -/
def fmtBytes (c : Nat) : Nat :=
  match c with
  | 0 => 1
  | 1 | 2 => 2
  | _ => 4

/-- The alignment of a source of a format. -/
def srcAlign (c : Nat) : Nat := if c = 4 then 2 else fmtBytes c

/-- The E4M3 format of a block's special element (R181). -/
def e4m3 : NF := ⟨8, 3, 7, 2, false, false, false⟩

/-- Element `k` of an E2M1X block (R182). -/
def blockElem (b : List Byte) (k : Nat) : FV :=
  let scale := fldAt b 16 1
  let code := bits (fldAt b (k / 2) 1) (4 * (k % 2)) 4
  let up (x : FV) : FV := match x with
    | .fin n m e => .fin n m (e + scale - 127)
    | x => x
  if scale = 255 then .nan false
  else if code = 8 then up (e4m3.decode (fldAt b 17 1))
  else
    let e := bits code 1 2
    let f := bits code 0 1
    up (if e = 0 then .fin (nbit code 3) f (-1) else .fin (nbit code 3) (2 + f) ((e : Int) - 2))

/-- A value as an element of a destination format: exact, or rounded to nearest even (R102). -/
def toFmt (df : Nat) (x : FV) : List Byte :=
  match df with
  | 1 => leBytes 2 (bf16.ofFV .near x).1
  | 2 => leBytes 2 (f16.ofFV .near x).1
  | _ => leBytes 4 (f32.ofFV .near x).1

/-- The value of an element of a source format. -/
def ofFmt (sf : Nat) (v : Nat) : FV :=
  match sf with
  | 1 => bf16.decode v
  | 2 => f16.decode v
  | _ => f32.decode v

/-! ### Iteration order (R101, R103, R109) -/

/-- Extents, and strides of dimensions 1 to 3. -/
def CopyJob.ext (j : CopyJob) (d : Nat) : Nat := (j.exts[d]?).getD 1
def CopyJob.ss (j : CopyJob) (d : Nat) : Int := (j.sstr[d - 1]?).getD 0
def CopyJob.ds (j : CopyJob) (d : Nat) : Int := (j.dstr[d - 1]?).getD 0

/-- The number format that a code names: the issuer's register as it stood at issue. -/
def CopyReq.nfAt (q : CopyReq) (c : Nat) : NF := NF.ofWord (tget 0 q.nf (c - 8))

/-- Elements or containers of a destination row, and its bytes. -/
def CopyReq.rowUnits (q : CopyReq) (j : CopyJob) : Nat :=
  if isNfCode j.dfmt then (j.ext 0 + (q.nfAt j.dfmt).count - 1) / (q.nfAt j.dfmt).count else j.ext 0
def CopyReq.rowBytes (q : CopyReq) (j : CopyJob) : Nat := q.rowUnits j * fmtBytes j.dfmt

/-- Destination bytes in all. -/
def CopyReq.totalOf (q : CopyReq) (j : CopyJob) : Nat := q.rowBytes j * j.ext 1 * j.ext 2 * j.ext 3

/-- Dimensions 1 to 3 of a row. -/
def CopyJob.rowIdx (j : CopyJob) (row : Nat) : Nat × Nat × Nat :=
  (row % j.ext 1, row / j.ext 1 % j.ext 2, row / (j.ext 1 * j.ext 2))

/-- The address of a destination byte by its position in iteration order. -/
def CopyReq.dstAddr (q : CopyReq) (j : CopyJob) (pos : Nat) : Nat :=
  let r := q.rowBytes j
  let (a, b, c) := j.rowIdx (pos / r)
  (j.dst.toNat + (pos % r : Nat) + a * j.ds 1 + b * j.ds 2 + c * j.ds 3 : Int).toNat

/-- Where dimension 0 takes position `p` from (R109). -/
def CopyJob.permOf (j : CopyJob) (p : Nat) : Nat := if j.perm then (j.table[p]?).getD 0 else p

/-- The source bytes of destination unit `n` in iteration order: runs of an address and a length. -/
def CopyReq.srcRuns (q : CopyReq) (j : CopyJob) (n : Nat) : List (Nat × Nat) :=
  let u := q.rowUnits j
  let i := n % u
  let (a, b, c) := j.rowIdx (n / u)
  let base : Int := j.src.toNat + b * j.ss 2 + c * j.ss 3
  let row : Int := base + a * j.ss 1
  if j.sfmt = 4 then
    if j.baxis then [((base + (i * 18 : Nat) + (a / 32 : Nat) * j.ss 1).toNat, 18)] else [((row + (i / 32 * 18 : Nat)).toNat, 18)]
  else if isNfCode j.sfmt then
    let cnt := (q.nfAt j.sfmt).count
    if j.dfmt = j.sfmt then
      if j.perm then
        ((List.range cnt).filter fun k => i * cnt + k < j.ext 0).map fun k =>
          ((row + (4 * (j.permOf (i * cnt + k) / cnt) : Nat)).toNat, 4)
      else [((row + (4 * i : Nat)).toNat, 4)]
    else [((row + (4 * (j.permOf i / cnt) : Nat)).toNat, 4)]
  else [((row + (fmtBytes j.sfmt * j.permOf i : Nat)).toNat, fmtBytes j.sfmt)]

/-- What the elements past the end of a packed row are keyed by (log entry 109): the request, and in a deterministic launch what names it in
every run (R411, R430). -/
def CopyReq.tailKey (q : CopyReq) (det : Bool) : Nat :=
  if det then 1 + 2 * (q.kclass + 2 * (q.icount + 2 ^ 48 * q.issuer)) else 2 * q.id

/-- A destination unit from its source bytes (R102, R108). -/
def CopyReq.unitOf (q : CopyReq) (det : Bool) (j : CopyJob) (n : Nat) (bs : List Byte) : List Byte :=
  let u := q.rowUnits j
  let i := n % u
  let a := (j.rowIdx (n / u)).1
  if j.sfmt = 4 then toFmt j.dfmt (blockElem bs (if j.baxis then a % 32 else i % 32))
  else if isNfCode j.sfmt then
    let f := q.nfAt j.sfmt
    if j.dfmt = j.sfmt then
      let here := min f.count (j.ext 0 - i * f.count)
      let codes := (List.range f.count).map fun k =>
        if here ≤ k then Config.tailWord (q.tailKey det) n / 2 ^ (f.w * k) % 2 ^ f.w
        else f.elem (fldAt bs (if j.perm then 4 * k else 0) 4) (j.permOf (i * f.count + k) % f.count)
      leBytes 4 (f.join codes)
    else toFmt j.dfmt (f.decode (f.elem (leNat bs) (j.permOf i % f.count)))
  else if j.sfmt = j.dfmt then bs
  else toFmt j.dfmt (ofFmt j.sfmt (leNat bs))

/-! ### Acceptance (R100, R101, R106) -/

/-- Packages of a launch's set (R368). -/
def LaunchRec.setSize (lr : LaunchRec) : Nat := if lr.pkgN = 0 then 256 else lr.pkgN
/-- A package belongs to the launch's set, and its rank. -/
def LaunchRec.rankOf (lr : LaunchRec) (p : Nat) : Nat := (p + 256 - lr.pkgBase % 256) % 256
def LaunchRec.inSet (lr : LaunchRec) (p : Nat) : Bool := decide (lr.rankOf p < lr.setSize)

/-- The packages that a replicated copy names (R110). -/
def CopyJob.ranks (j : CopyJob) : List Nat :=
  ((List.range 64).filter fun i => j.rmask.getLsbD i).map fun i => (j.origin + i * j.pstride) % 256

/-- The request writes dW elements that the operation itself supplies. -/
def CopyReq.isDw (q : CopyReq) : Bool :=
  match q.vocab with
  | some (_, dw, _) => dw
  | none => false

/-- The bytes of a reduced element. -/
def reduceBytes (redop : Nat) : Nat :=
  match redop with
  | 2 => 8
  | 6 => 2
  | _ => 4

/-- REDOP does not match DFMT (R106). -/
def redopBad (redop df : Nat) : Bool :=
  match redop with
  | 0 => false
  | 1 => !(df == 0 || isNfCode df)
  | 2 => df != 0
  | 3 | 4 | 5 => df != 3
  | 6 => df != 1
  | _ => true

/-- The bytes that an end of a request spans, from its first address: the least and one past the greatest offset. -/
def spanOf (dims : List (Nat × Int)) (elem : Nat) : Int × Int :=
  dims.foldl (fun (x : Int × Int) d =>
    let t : Int := ((d.1 - 1 : Nat) : Int) * d.2
    (x.1 + min 0 t, x.2 + max 0 t)) (0, (elem : Int))

/-- The checks of one end's address: private or no aperture or beyond the scratchpad, alignment, the global bound (R106). -/
def endCodes (u : UnitRef) (lr : LaunchRec) (a al : Nat) (span : Int × Int) (strides : List Int) : List (Bool × Nat) :=
  let bad : Bool := a % al ≠ 0 || strides.any fun x => x % al ≠ 0
  match aperture a with
  | .scratchpad =>
    let off : Int := (a % 2 ^ 48 : Nat) + span.1
    [(off < 0 || (spTarget u lr off.toNat (span.2 - span.1).toNat).isNone, 3), (bad, 4)]
  | .global => [(bad, 4), ((a : Int) + span.1 < 0 || 2 ^ 56 < (a : Int) + span.2, 9)]
  | _ => [(true, 3), (bad, 4)]

/-- The codes that the shape of a request may fail with (R106, R411); a cox core has no number-format register to name (log entry 115). -/
def State.shapeCodes (s : State) (q : CopyReq) (j : CopyJob) (permOff : Nat) (permIn : Bool) : List (Bool × Nat) :=
  let lr := s.lrec q.unit.ident
  let e (d : Nat) : Nat := j.ext d
  let bsrc : Nat := if j.baxis then 1 else 0
  let upper : List (Nat × Int) := [(e 2, j.ss 2), (e 3, j.ss 3)]
  let sdims : List (Nat × Int) :=
    if j.sfmt = 4 then
      (if j.baxis then [(e 0, 18), ((e 1 + 31) / 32, j.ss 1)] else [((e 0 + 31) / 32, 18), (e 1, j.ss 1)]) ++ upper
    else
      let n := if isNfCode j.sfmt then (e 0 + (q.nfAt j.sfmt).count - 1) / (q.nfAt j.sfmt).count else e 0
      [(n, (fmtBytes j.sfmt : Int)), (e 1, j.ss 1)] ++ upper
  let ddims : List (Nat × Int) := [(q.rowUnits j, (fmtBytes j.dfmt : Int)), (e 1, j.ds 1), (e 2, j.ds 2), (e 3, j.ds 3)]
  let cox : Bool := match q.unit with
    | .crew .. => false
    | .cox .. => true
  let raw : Bool := (j.redop = 1 || j.redop = 2) && j.dfmt = 0
  let z := reduceBytes j.redop
  let global := aperture j.dst.toNat == .global
  [(!(pairOk j.sfmt j.dfmt) || (j.perm && j.sfmt = 4) || (j.baxis && j.sfmt ≠ 4) || (cox && (isNfCode j.sfmt || isNfCode j.dfmt)), 2)] ++
  (if q.isDw then [] else endCodes q.unit lr j.src.toNat (srcAlign j.sfmt) (spanOf sdims (if j.sfmt = 4 then 18 else fmtBytes j.sfmt)) j.sstr) ++
  endCodes q.unit lr j.dst.toNat (fmtBytes j.dfmt) (spanOf ddims (fmtBytes j.dfmt)) j.dstr ++
  [(j.perm && permOff % 2 ≠ 0, 4), (j.perm && !permIn, 3),
   (raw && (j.src.toNat % z ≠ 0 || j.dst.toNat % z ≠ 0 || (j.sstr ++ j.dstr).any fun x => x % z ≠ 0), 4),
   (j.ndim = 0 || 4 < j.ndim || (List.range 4).any (fun d => e d = 0 || 2 ^ 24 < e d || (j.ndim ≤ d && e d ≠ 1)) ||
     2 ^ 32 < e 0 * e 1 * e 2 * e 3 || (j.sfmt = 4 && e bsrc % 32 ≠ 0) || (raw && e 0 % z ≠ 0), 5),
   (j.perm && j.table.any fun x => decide (e 0 ≤ x), 6),
   (j.ranks.any fun p => !(s.inDomain p), 10),
   ((j.redop ≠ 0 && !global) || redopBad j.redop j.dfmt || (j.rmask ≠ 0 && !global) || (j.pstride = 0 && 1 < j.ranks.length) ||
     (lr.determ && (j.redop = 6 || (j.redop ≠ 0 && j.ranks.any fun p => !(lr.inSet p)))), 11)]

/-- The fields of a request record and its shape record (R100, R101). -/
def copyJobOf (rb sb : List Byte) (table : List Nat) : CopyJob :=
  let i32 (b : List Byte) (k : Nat) : Int := signed 32 (fldAt b k 4)
  { src := BitVec.ofNat 64 (fldAt rb 0 8), dst := BitVec.ofNat 64 (fldAt rb 8 8), bbar := BitVec.ofNat 32 (fldAt rb 20 4)
    tctr := if nbit (fldAt rb 24 2) 15 then some (fldAt rb 26 1, bits (fldAt rb 24 2) 0 12, BitVec.ofNat 32 (fldAt rb 32 4)) else none
    ndim := fldAt sb 0 1, sfmt := fldAt sb 1 1, dfmt := fldAt sb 2 1, perm := nbit (fldAt sb 3 1) 0, baxis := nbit (fldAt sb 3 1) 1
    redop := fldAt sb 4 1, pstride := fldAt sb 5 1, origin := fldAt sb 6 1
    exts := (List.range 4).map fun d => fldAt sb (8 + 4 * d) 4
    sstr := (List.range 3).map fun d => i32 sb (24 + 4 * d), dstr := (List.range 3).map fun d => i32 sb (36 + 4 * d)
    rmask := BitVec.ofNat 64 (fldAt sb 56 8), table := table, total := 0, wp := 0, stepBytes := 0, reads := [], got := []
    writes := [] }

/-- The codes of a request record's own fields. -/
def State.requestCodes (s : State) (q : CopyReq) (rb : List Byte) : List (Bool × Nat) :=
  let lr := s.lrec q.unit.ident
  let bbar := fldAt rb 20 4
  let shape := fldAt rb 16 4
  let out (k : Nat) : Bool := match aperture (fldAt rb k 8) with
    | .scratchpad => (spTarget q.unit lr (fldAt rb k 8 % 2 ^ 48) 1).isNone
    | .global => false
    | _ => true
  [(out 0 || out 8, 3), (bits (fldAt rb 24 2) 12 3 ≠ 0 || 32 ≤ fldAt rb 27 1 || 6 ≤ fldAt rb 28 1 || fldAt rb 29 3 ≠ 0 || (rb.drop 48).any (fun x => x != 0), 1),
   (bbar ≠ 0xFFFFFFFF && (spTarget q.unit lr bbar 16).isNone, 3), (bbar ≠ 0xFFFFFFFF && bbar % 16 ≠ 0, 4),
   ((spTarget q.unit lr shape 64).isNone, 3), (shape % 64 ≠ 0, 4),
   (nbit (fldAt rb 24 2) 15 && !(s.inDomain (fldAt rb 26 1)), 10)]

/-- Bytes of the issuer's scratchpad at a record's offset; none where it is not in the scratchpad. -/
def State.spAt (s : State) (r : UnitRef) (off n : Nat) : Option (List Byte) :=
  (spTarget r (s.lrec r.ident) off n).map fun x => s.spBytes r x.1 x.2 n

/-- A copy request replaced. -/
def State.setCopy (s : State) (q : CopyReq) : State :=
  { s with eng := { s.eng with copies := s.eng.copies.map fun x => if x.id == q.id then q else x } }

/-- Bytes of a scratchpad range that a request's records name, when the range lies in the scratchpad: a line there that fails its
check. -/
def State.spCheck (s : State) (r : UnitRef) (off n : Nat) : Option (Option Nat × Nat) :=
  match spTarget r (s.lrec r.ident) off n with
  | some (w, x) => s.badLine (spLocs r w x n)
  | none => none

/-- A request record with no byte barrier, in the place of one whose line fails its check. -/
def noRecord : List Byte := List.replicate 20 0 ++ List.replicate 4 0xFF

/-- The request with its code and its job: those of its records, or of the operation that made it; and a line of its records that fails
its check, whose bytes are not used (R106, R414). -/
def State.readRequest (s : State) (q : CopyReq) : Nat × CopyJob × Option (Option Nat × Nat) :=
  match q.record, q.job with
  | some (wg, off), _ =>
    let rb := s.spBytes q.unit wg off 64
    let shape := fldAt rb 16 4
    match s.badLine (spLocs q.unit wg off 64), s.spCheck q.unit shape 64 with
    | some x, _ => (7, copyJobOf noRecord [] [], some x)
    | none, some x => (lowestCode ((true, 7) :: s.requestCodes q rb), copyJobOf rb [] [], some x)
    | none, none =>
      match (if shape % 64 = 0 then s.spAt q.unit shape 64 else none) with
      | none => (lowestCode (s.requestCodes q rb), copyJobOf rb [] [], none)
      | some sb =>
        let e0 := fldAt sb 8 4
        let po := fldAt sb 48 4
        let perm := nbit (fldAt sb 3 1) 0
        let tb := if perm && po % 2 = 0 && e0 ≤ 2 ^ 24 then s.spAt q.unit po (2 * e0) else none
        let bad := if perm && e0 ≤ 2 ^ 24 then s.spCheck q.unit po (2 * e0) else none
        let table := (tb.map fun b => (List.range e0).map fun k => fldAt b (2 * k) 2).getD []
        let j := copyJobOf rb sb (if bad.isSome then [] else table)
        let reserved : Bool := 4 ≤ fldAt sb 3 1 || fldAt sb 7 1 ≠ 0 || fldAt sb 52 4 ≠ 0
        let permIn := (spTarget q.unit (s.lrec q.unit.ident) po (2 * e0)).isSome
        (lowestCode ((reserved, 1) :: (bad.isSome, 7) :: s.requestCodes q rb ++ s.shapeCodes q j po permIn), j, bad)
  | none, some j => (lowestCode (s.shapeCodes q j 0 true), j, none)
  | none, none => (0, copyJobOf [] [] [], none)

/-- SOURCE of a copy channel (R60, R63). -/
def channelSource (cluster chan : Nat) : Nat := 2 * 2 ^ 25 + placeIdent cluster 0 0 chan

/-- The record of a line that a request consumes and that fails its check (R414). -/
def State.copyIntegrity (s : State) (q : CopyReq) (x : Option Nat × Nat) : State :=
  s.integrityRecord q.unit.ident (channelSource q.cluster q.chan) x

/-- COPY_ACCEPT: the first request of the channel not yet accepted is read and checked (R100, R106). -/
def execCopyAccept (cluster chan : Nat) (s : State) : Out :=
  match s.eng.copies.find? fun q => q.cluster == cluster && q.chan == chan && q.phase == .queued with
  | none => .refused .noSuchEvent
  | some q =>
    let (code, j, bad) := s.readRequest q
    let s := match bad with
      | some x => s.copyIntegrity q x
      | none => s
    let q := { q with
      job := some { j with total := if code = 0 then q.totalOf j else 0 }, phase := if code = 0 then .running else .finishing code }
    let s := match q.record with
      | some (wg, off) => s.spWrite q.unit wg (off + 36) (List.replicate 12 0)
      | none => s
    .next ((s.setCopy q).kickAll cluster)

/-! ### Steps (R103, R104, R107) -/

/-- The byte barrier of a request lowered by the bytes of a step (R104). -/
def Workgroup.countBar (w : Workgroup) (off n : Nat) : Workgroup :=
  let (count, status) := w.byteBar off
  if n ≤ count then w.putSp off (leBytes 8 (count - n))
  else (w.putSp off (leBytes 8 0)).putSp (off + 8) (leBytes 4 (status ||| 256))

/-- The first error code that a byte barrier records. -/
def Workgroup.failBar (w : Workgroup) (off code : Nat) : Workgroup :=
  let status := (w.byteBar off).2
  if status % 256 = 0 then w.putSp (off + 8) (leBytes 4 (status + code)) else w

/-- A change of the byte barrier that a request names. -/
def State.modBar (s : State) (q : CopyReq) (j : CopyJob) (f : Nat → Workgroup → Workgroup) : State :=
  if j.bbar = 0xFFFFFFFF#32 || j.bbar.toNat % 16 ≠ 0 then s
  else match spTarget q.unit (s.lrec q.unit.ident) j.bbar.toNat 16 with
    | some (wg, off) => s.modWg q.unit.ident q.unit.gang wg (f off)
    | none => s

/-- A write of a request record. -/
def State.putRequest (s : State) (q : CopyReq) (k : Nat) (bs : List Byte) : State :=
  match q.record with
  | some (wg, off) => s.spWrite q.unit wg (off + k) bs
  | none => s

/-- A step is counted: WP rises, and the byte barrier falls (R103, R104). -/
def State.countStep (s : State) (q : CopyReq) (j : CopyJob) : State :=
  let wp := j.wp + j.stepBytes
  let s := (s.putRequest q 40 (leBytes 8 wp)).modBar q j fun off w => w.countBar off j.stepBytes
  s.setCopy { q with
    job := some { j with wp := wp, stepBytes := 0 }, phase := if j.total ≤ wp then .finishing 0 else .running }

/-- The copy request that sent a packet. -/
def Origin.copyId : Origin → Option Nat
  | .copy id | .copyUpdate id _ => some id
  | _ => none

/-- A step's packets have not been acknowledged, or its updates not accepted. -/
def State.stepOut (s : State) (q : CopyReq) : Bool :=
  (s.fab.out.any fun p => p.origin.copyId == some q.id) || s.flight.updates.any fun o => o.copy == some q.id && o.place == .sent

/-- The frames of the pages of virtual addresses by the cluster's TLB, or the first address that does not translate and the cause. -/
def State.copyPages (s : State) (q : CopyReq) (write : Bool) (vas : List Nat) : Except (Nat × Nat) (List (Nat × Nat × Nat)) × State :=
  let asid := (s.lrec q.unit.ident).asid
  let k : Asker := ⟨q.unit.ident, channelSource q.cluster q.chan⟩
  vas.foldl (fun (x : Except (Nat × Nat) (List (Nat × Nat × Nat)) × State) va =>
    match x.1 with
    | .error e => (.error e, x.2)
    | .ok ps =>
      if aperture va != .global || ps.any (fun p => p.1 == va / 2 ^ 16) then x
      else match x.2.translate k [192 + q.cluster] (q.cluster / 12) asid va with
        | (.fault cause, s) => (.error (va, cause), s)
        | (.ok frame mt _ w _ _, s) => if write && !w then (.error (va, 2), s) else (.ok (ps ++ [(va / 2 ^ 16, frame, mt)]), s))
    (.ok [], s)

/-- The location of a byte of a request. -/
def State.copyLoc (s : State) (q : CopyReq) (ps : List (Nat × Nat × Nat)) (va : Nat) : Loc :=
  match aperture va with
  | .scratchpad =>
    match spTarget q.unit (s.lrec q.unit.ident) (va % 2 ^ 48) 1 with
    | some (w, off) => .sp q.unit.ident q.unit.gang w off
    | none => .mem 0
  | _ => .mem (((ps.find? fun p => p.1 == va / 2 ^ 16).map fun p => p.2.1).getD 0 + va % 2 ^ 16)

/-- A step that is given up reads its source anew. -/
def CopyReq.dropReads (q : CopyReq) : CopyReq := { q with job := q.job.map fun j => { j with reads := [], got := [] } }

/-- The request pauses on a page fault (R67): its record, and the page it waits for. -/
def State.copyFault (s : State) (q : CopyReq) (access va cause : Nat) : State :=
  let f : FaultInfo :=
    { kind := 3, cause := cause, access := access, more := false, priv := false, nonReplay := false
      asid := (s.lrec q.unit.ident).asid, addr := va, lanes := 0, source := channelSource q.cluster q.chan, pc := 0
      ident := q.unit.ident, gang := q.unit.gang, die := dieOfCluster q.cluster }
  (s.faultPost f).setCopy { q.dropReads with phase := .faulted [va / 2 ^ 16] }

/-- A request stops with a code. -/
def State.failCopy (s : State) (q : CopyReq) (code : Nat) : State := s.setCopy { q.dropReads with phase := .finishing code }

/-- The request's stream to a rank, `dst < 64`, or to a package, `64 + pkg`, opened when it first sends there (R406, R410). -/
def State.copyStream (s : State) (q : CopyReq) (dst : Nat) : StreamKey × CopyReq × State :=
  match q.streams.find? fun x => x.1 == dst with
  | some x => (x.2, q, s)
  | none =>
    let (key, s) := s.openStream 2 (q.cluster * 32 + q.chan) q.unit.ident false
    (key, { q with streams := q.streams ++ [(dst, key)] }, s)

/-- The stream of a request to a package: its rank's, or the package's own. -/
def streamTo (rank : Option Nat) (pkg : Nat) : Nat := rank.getD (64 + pkg)

/-- The AOP and SZF codes of a REDOP (R139). -/
def redopCode (redop : Nat) : Nat × Nat :=
  match redop with
  | 1 => (0, 4)
  | 2 => (0, 6)
  | 3 => (0, 10)
  | 4 => (2, 10)
  | 5 => (1, 10)
  | _ => (0, 9)

/-- The element position of reduced element `n` of a request (R411). -/
def CopyReq.elemPos (q : CopyReq) (j : CopyJob) (n : Nat) : Nat :=
  match q.vocab with
  | some (_, true, first) => (first + n / j.ext 0) * 2 ^ 14 + n % j.ext 0
  | _ => n

/-- One reduced element sent to its home slice: an ordered update in a deterministic launch, else a no-return atomic (R110, R411). -/
def State.reduceOne (s : State) (q : CopyReq) (j : CopyJob) (rank : Option Nat) (pa n : Nat) (bs : List Byte) : CopyReq × State :=
  let (aop, szf) := redopCode j.redop
  let det := (s.lrec q.unit.ident).determ
  let dir := if szfFloat szf then 2 else 0
  let a : RemoteAtomic := ⟨aop, szf, BitVec.ofNat 64 (leNat bs), 0, dir⟩
  let pos := q.elemPos j n
  let far := paPkg pa != s.pkg
  if det then
    let (id, s) := s.newId
    let up : OUpdate :=
      { id := id, unit := q.unit, pa := pa, aop := aop, szf := szf, operand := a.operand, dir := dir, kclass := q.kclass
        issuer := q.issuer, icount := q.icount, elempos := pos, round := q.round, slice := s.homeSlice pa, place := .sent
        remote := far, copy := some q.id }
    let s : State := { s with flight := { s.flight with updates := s.flight.updates ++ [up] } }
    if far then
      let (key, q, s) := s.copyStream q (streamTo rank (paPkg pa))
      (q, s.sendPacket key (paPkg pa) (s.homeSlice pa) (.ordered (paLocal pa) a q.kclass q.issuer q.icount pos q.round) (.copyUpdate q.id id))
    else (q, s)
  else if far then
    let (key, q, s) := s.copyStream q (streamTo rank (paPkg pa))
    (q, s.sendPacket key (paPkg pa) (s.homeSlice pa) (.atomic (paLocal pa) a) (.copy q.id))
  else (q, (s.atomAt (.mem pa) a).2)

/-- Bytes written to physical addresses: this package's at once, another's as packets of the request's stream (R406). -/
def State.copyBytes (s : State) (q : CopyReq) (rank : Option Nat) (bytes : List (Nat × Byte)) : CopyReq × State :=
  (splitLines bytes).foldl (fun (x : CopyReq × State) g =>
    match g.head? with
    | none => x
    | some b =>
      if paPkg b.1 = x.2.pkg then (x.1, x.2.l2Write b.1 (g.map Prod.snd))
      else
        let (key, q, s) := x.2.copyStream x.1 (streamTo rank (paPkg b.1))
        (q, s.sendPacket key (paPkg b.1) (s.homeSlice b.1) (.write (paLocal b.1) (g.map Prod.snd)) (.copy q.id))) (q, s)

/-- Bytes that a request accesses reach their home slices, in the cluster's requests (R77, R95). -/
def State.copyReach (s : State) (q : CopyReq) (xs : List (Nat × Loc)) : State :=
  s.reachLines (s.lrec q.unit.ident).asid q.cluster (xs.filterMap fun x => match x.2 with
    | .mem pa => some (x.1, pa)
    | _ => none) Rank.plain

/-- The port by which the copy engine reaches a location of a scratchpad, and the word there (R86, R88). -/
def State.copyPort (s : State) (q : CopyReq) (l : Loc) : Option (Nat × Nat) :=
  match l with
  | .sp i g w off => some (6 * (4 * q.cluster + s.coreOf i g w) + 4, off / 4)
  | _ => none

/-- The place of a word among the words of its bank. -/
def bankTurn (ws : List Nat) (w : Nat) : Nat := (ws.filter fun x => x % 32 == w % 32).findIdx fun x => x == w

/-- The passes that bytes of a step take at the scratchpads they lie in, each with one word in a bank (R86, R88, log entry 102). -/
def State.copyPasses (s : State) (q : CopyReq) (write : Bool) (xs : List (Loc × Byte)) : List CopyPass × State :=
  let at_ := xs.filterMap fun x => (s.copyPort q x.1).map fun p => (p, x)
  let group (p : Nat) : List (Nat × List ((Nat × Nat) × Loc × Byte)) :=
    let mine := at_.filter fun x => x.1.1 == p
    let ws := (mine.map fun x => x.1.2).eraseDups
    ((List.range ws.length).map fun k => (p, mine.filter fun x => bankTurn ws x.1.2 == k)).filter fun g => !g.2.isEmpty
  (((at_.map fun x => x.1.1).eraseDups).flatMap group).foldl (fun (acc : List CopyPass × State) g =>
    let (n, s) := acc.2.newId
    (acc.1 ++ [⟨n, g.1, g.2.map fun x => x.2.1, if write then g.2.map fun x => x.2.2 else []⟩], s)) ([], s)

/-- A byte of a step's source: one of a scratchpad as its pass has read it. -/
def State.copyByte (s : State) (j : CopyJob) (l : Loc) : Byte := ((j.got.find? fun x => x.1 == l).map Prod.snd).getD (s.rdLoc l 0)

/-- A page that a copy may not touch: trigger counters, or no storage (R106). -/
def State.copyBad (s : State) (l : Loc) (mt : Nat) : Bool :=
  match l with
  | .mem pa => mt == 2 || targetOf (paLocal pa) == .trigger || !(s.backed pa)
  | _ => false

/-- A step delivers its bytes to memory, at every rank (R107, R110). -/
def State.deliver (s : State) (q : CopyReq) (j : CopyJob) (dst : List (Nat × Loc)) (data : List Byte) : CopyReq × State :=
  let locs := dst.map Prod.snd
  match locs with
  | .mem _ :: _ =>
    let pas := locs.filterMap fun l => match l with
      | .mem pa => some pa
      | _ => none
    let ranks : List (Option Nat × List Nat) := if j.rmask = 0 then [(none, pas)]
      else j.ranks.zipIdx.map fun p => (some p.2, pas.map fun pa => p.1 * 2 ^ 44 + paLocal pa)
    ranks.foldl (fun (x : CopyReq × State) ps =>
      if j.redop = 0 then x.2.copyBytes x.1 ps.1 (ps.2.zip data)
      else
        let z := reduceBytes j.redop
        (List.range (data.length / z)).foldl (fun (x : CopyReq × State) k =>
          x.2.reduceOne x.1 j ps.1 ((ps.2[k * z]?).getD 0) (j.wp / z + k) ((data.drop (k * z)).take z)) x) (q, s)
  | _ => (q, s)

/-- The record of a copy that a watchpoint pauses (R425, R427). -/
def State.copyWatchEvent (s : State) (q : CopyReq) (n addr : Nat) : EventInfo :=
  let gone := (s.unit? q.unit).isNone
  { EventInfo.of 3 4 (pidOf false q.cluster 0 0) 0 0 (dieOfCluster q.cluster) with
    num := n, issuerRet := gone, ident := q.unit.ident, addr := addr, channel := q.chan
    issuerPid := if gone then q.pid else s.pid q.unit, issuerPlace := if gone then q.place else s.placeOf q.unit }

/-- The watchpoint that a step's destination bytes match (R425). -/
def State.copyWatch (s : State) (q : CopyReq) (vas : List Nat) : Option (Nat × Nat) :=
  match vas with
  | [] => none
  | va :: _ =>
    match aperture va with
    | .scratchpad => match spTarget q.unit (s.lrec q.unit.ident) (va % 2 ^ 48) 1 with
      | some (w, off) =>
        (s.watchSp q.unit.ident q.unit.gang w (vas.map fun x => off + x - va) q.skipWatch).map fun h => (h.1, h.2)
      | none => none
    | _ => s.watchVa (s.lrec q.unit.ident).asid vas q.skipWatch

/-- A step is read and delivered, or the request pauses or stops (R67, R103, R106, R107, R425). A source in the scratchpad is read first, and
a destination there written then, pass by pass (R86, R88). -/
def State.beginStep (s : State) (q : CopyReq) (j : CopyJob) : State :=
  let n := min 256 (j.total - j.wp)
  let z := fmtBytes j.dfmt
  let dvas := (List.range n).map fun k => q.dstAddr j (j.wp + k)
  let units := (List.range (n / z)).map fun k => j.wp / z + k
  let runs := if q.isDw then [] else units.map fun u => (u, (q.srcRuns j u).flatMap fun r => (List.range r.2).map fun k => r.1 + k)
  match s.copyWatch q dvas with
  | some (w, addr) => (s.eventPost (s.copyWatchEvent q w addr)).setCopy { q.dropReads with phase := .watched w }
  | none =>
    match s.copyPages q false (runs.flatMap Prod.snd) with
    | (.error (va, cause), s) => s.copyFault q 5 va cause
    | (.ok sp, s) =>
      match s.copyPages q true dvas with
      | (.error (va, cause), s) => s.copyFault q 6 va cause
      | (.ok dp, s) =>
        let mtOf (ps : List (Nat × Nat × Nat)) (va : Nat) : Nat := ((ps.find? fun p => p.1 == va / 2 ^ 16).map fun p => p.2.2).getD 0
        let src := (runs.flatMap Prod.snd).map fun va => (va, s.copyLoc q sp va)
        let dst := dvas.map fun va => (va, s.copyLoc q dp va)
        let ranked (l : Loc) : List Loc := match l with
          | .mem pa => if j.rmask = 0 then [l] else j.ranks.map fun p => .mem (p * 2 ^ 44 + paLocal pa)
          | l => [l]
        let lr := s.lrec q.unit.ident
        let outside (l : Loc) : Bool := match l with
          | .mem pa => lr.determ && j.redop ≠ 0 && !(lr.inSet (paPkg pa))
          | _ => false
        if src.any (fun x => s.copyBad x.2 (mtOf sp x.1)) || dst.any (fun x => (ranked x.2).any fun l => s.copyBad l (mtOf dp x.1)) then
          s.failCopy q 9
        else if dst.any fun x => outside x.2 then s.failCopy q 11
        else
          let inSp (x : Nat × Loc) : Bool := (s.copyPort q x.2).isSome
          match (s.badLine ((src.filter fun x => !(inSp x)).map Prod.snd)).or (if q.upset then some (none, 4) else none) with
          | some x => (s.copyIntegrity q x).failCopy q 7
          | none =>
            if src.any inSp && j.got.isEmpty then
              let (ps, s) := s.copyPasses q false (((src.map Prod.snd).eraseDups).map fun l => (l, 0))
              s.setCopy { q with job := some { j with reads := ps } }
            else
              let bytesOf (u : Nat × List Nat) : List Byte :=
                q.unitOf lr.determ j u.1 (u.2.map fun va => s.copyByte j (s.copyLoc q sp va))
              let data := if q.isDw then (units.map fun u => leBytes 4 ((q.data[u]?).getD 0).toNat).flatten else runs.flatMap bytesOf
              let far := dst.flatMap fun x => (ranked x.2).map fun l => (x.1, l)
              let s := ((s.copyReach q src).copyReach q far).askLines (src.map Prod.snd)
              let (q, s) := s.deliver q j dst data
              let (ws, s) := s.copyPasses q true ((dst.map Prod.snd).zip data)
              let j := { j with stepBytes := n, got := [], writes := ws }
              let q := { q with job := some j, skipWatch := [] }
              let s := s.setCopy q
              if !ws.isEmpty || s.stepOut q then s else s.countStep q j

/-- A pass of a step's source is served: its bytes are read, unless a line fails its check (R88, R414). -/
def State.readPass (s : State) (q : CopyReq) (j : CopyJob) (p : CopyPass) : State :=
  let s := s.passTaken (some p.port)
  match s.badLine p.locs with
  | some x => (s.copyIntegrity q x).failCopy q 7
  | none => s.setCopy { q with job := some { j with
      reads := j.reads.filter (fun x => x.id != p.id), got := j.got ++ p.locs.map fun l => (l, s.rdLoc l 0) } }

/-- A pass of a step's destination is served; the last of them ends the step when nothing else of it is on its way (R88, R103). -/
def State.writePass (s : State) (q : CopyReq) (j : CopyJob) (p : CopyPass) : State :=
  let s := (s.passTaken (some p.port)).wrLocs p.locs p.bytes
  let j := { j with writes := j.writes.filter fun x => x.id != p.id }
  let q := { q with job := some j }
  let s := s.setCopy q
  if !j.writes.isEmpty || s.stepOut q then s else s.countStep q j

/-- The request at the head of a channel: those of saved gangs lie in none, and one that pre-emption has stopped lets those behind it pass
(R364, log entry 119). -/
def State.headCopy (s : State) (cluster chan : Nat) : Option CopyReq :=
  if 48 ≤ cluster then none
  else s.eng.copies.find? fun q => q.cluster == cluster && q.chan == chan && q.joined && !(s.stopsCopy q)

/-- A panel request waits for the stores and atomics that its operation's issuer made before issuing the operation, whose reads of
memory are ordered after them (R338). -/
def State.panelWaits (s : State) (q : CopyReq) : Bool :=
  match q.vocab with
  | some (core, false, _) => match (s.matrix q.cluster core).queue with
    | op :: _ =>
      (s.flight.stores.any fun o => o.unit == op.unit && decide (o.id < op.id)) ||
        s.flight.atomics.any fun o => o.unit == op.unit && decide (o.id < op.id)
    | [] => false
  | _ => false

/-- The pass of a list that is served next at its port (R88). -/
def State.nextPass (s : State) (ps : List CopyPass) : Option CopyPass := ps.find? fun p => s.passNext p.id p.port

/-- What a request does next. -/
inductive CopyMove where
  /-- A pass of its destination, or of its source, is served. -/
  | write (p : CopyPass)
  | read (p : CopyPass)
  /-- Its step is counted. -/
  | count
  /-- It stops, having been cancelled. -/
  | cancel
  /-- A step begins, or delivers what it has read. -/
  | step
  deriving DecidableEq, Repr

/-- What the request at the head of a channel can do now. -/
def State.copyMove (s : State) (q : CopyReq) : Option CopyMove :=
  match q.phase, q.job with
  | .waiting _, _ | .queued, _ | .finishing _, _ | _, none => none
  | ph, some j =>
    if !j.writes.isEmpty then (s.nextPass j.writes).map .write
    else if j.stepBytes ≠ 0 then (if s.stepOut q then none else some .count)
    else if q.cancel then some .cancel
    else if ph != .running || (s.gangStopping q.unit && !q.panel && !j.moving) || s.panelWaits q then none
    else if !j.reads.isEmpty then (s.nextPass j.reads).map .read
    else some .step

/-- COPY_STEP: the request at the head of a channel moves: a step of 256 destination bytes, a scratchpad pass of one, or a stop when it has
been cancelled (R88, R99, R103, R106). -/
def execCopyStep (cluster chan : Nat) (s : State) : Out :=
  match s.headCopy cluster chan with
  | none => .refused .noSuchEvent
  | some q =>
    match s.copyMove q, q.job with
    | some (.write p), some j => .next (s.writePass q j p)
    | some (.read p), some j => .next (s.readPass q j p)
    | some .count, some j => .next (s.countStep q j)
    | some .cancel, some _ => .next (s.failCopy q 8)
    | some .step, some j => .next (s.beginStep q j)
    | _, _ => .refused .noSuchEvent

/-! ### Completion (R105, R106) -/

/-- The completion raise of a request (R105). -/
def State.copyRaise (s : State) (q : CopyReq) (j : CopyJob) : CopyReq × State :=
  match j.tctr with
  | none => (q, s)
  | some c =>
    if c.1 = s.pkg then (q, s.engineRaise ⟨0, 0, 0, 0, 0⟩ c .plain)
    else
      let (key, q, s) := s.copyStream q (64 + c.1)
      (q, s.engineRaise key c .plain)

/-- A request leaves its channel with a code: STATUS, the byte barrier, the counter and handles, the trigger counter, its streams. -/
def State.endCopy (s : State) (q : CopyReq) (j : CopyJob) (code : Nat) : State :=
  let s : State := { s with eng := { s.eng with copies := s.eng.copies.filter fun x => x.id != q.id } }
  let s := s.putRequest q 36 (leBytes 4 (if code = 0 then 1 else 2 + 256 * code))
  let s := if code = 0 then s else s.modBar q j fun off w => w.failBar off code
  let wide := 2 ≤ q.scope || isGlobal j.dst.toNat
  let s := match q.vocab with
    | some (core, dw, _) => s.vocabDone q core dw code
    | none => (s.fillHandles q.handles code wide).lowerEng q.unit 0 wide
  let (q, s) := if code = 0 then s.copyRaise q j else (q, s)
  let s := q.streams.foldl (fun s x => s.endStream x.2) s
  (s.kickAll q.cluster).reapGang q.unit.ident q.unit.gang

/-- COPY_COMPLETE: the request at the head of a channel completes, in the channel's order (R99, R105, R106). -/
def execCopyComplete (cluster chan : Nat) (s : State) : Out :=
  match s.headCopy cluster chan with
  | none => .refused .noSuchEvent
  | some q =>
    match q.phase, q.job with
    | .finishing code, some j => .next (s.endCopy q j code)
    | _, _ => .refused .noSuchEvent

/-- WATCH_RESUME: the copies that a watchpoint has paused go on, ignoring it for their step (R425). -/
def execWatchResume (n : Nat) (s : State) : Out :=
  let go (q : CopyReq) : CopyReq := if q.phase == .watched n then { q with phase := .running, skipWatch := n :: q.skipWatch } else q
  .next { s with eng := { s.eng with copies := s.eng.copies.map go } }

end Sys2Proof.Machine
end

