-- ==== Sys2Proof/Machine/Xlat.lean ====
section
/-! DEFINITION. The translation block's commands: held records (R62), invalidation (R54), replay and cancel (R63 to R66), migration and its thrash detector (R72 to R76). -/

namespace Sys2Proof.Machine

open Sys2Proof

/-! ### Held records (R62) -/

/-- HELD_RECORD_WRITE: the oldest held record of a ring is written once there is room. -/
def execHeldRecordWrite (ring : RingId) (s : State) : Out :=
  let r := s.ring ring
  match r.held with
  | [] => .refused .noSuchEvent
  | body :: rest =>
    if !r.room then .refused .noSuchEvent
    else
      let s := (s.setRing ring { r with held := rest }).ringWrite ring body
      let dump : Bool := ring == .debug && fldAt body 4 1 == 5
      .next (if dump then { s with dbg := { s.dbg with dumpPending := false } } else s)

/-! ### Invalidation (R54, R70) -/

/-- What an invalidation covers: an address space and virtual addresses from `lo` to below `hi`. -/
def Invalidation.covers (v : Invalidation) (asid lo hi : Nat) : Bool :=
  match v.mode with
  | 0 => asid == v.asid && decide (lo < (v.page + v.count) * 2 ^ 16) && decide (v.page * 2 ^ 16 < hi)
  | 1 => asid == v.asid
  | _ => true

/-- The 64 KiB page of an address space is covered. -/
def Invalidation.page? (v : Invalidation) (asid page : Nat) : Bool := v.covers asid (page * 2 ^ 16) ((page + 1) * 2 ^ 16)

/-- INVADDR's address space and first page. -/
def State.invAt (s : State) : Nat × Nat := (bits s.xlat.invAddr.toNat 56 6, bits s.xlat.invAddr.toNat 16 40)

/-- The block of its address that a slot of an address space holds issues to its end, when an invalidation of it begins (R70). -/
def Slot.mark (x : Slot) (v : Invalidation) (asid : Nat) : Slot :=
  { x with blocks := x.blocks.map fun b =>
    if b.base == blockBase x.pc && v.covers asid b.base.toNat (b.base.toNat + 32) then { b with kept := true } else b }

/-- An invalidation begins: every slot's block in its range is marked. -/
def State.markBlocks (s : State) (v : Invalidation) : State :=
  { s with
    crews := s.crews.map fun c => { c with
      slot0 := c.slot0.mark v (s.lrec c.ident).asid, slot1 := c.slot1.mark v (s.lrec c.ident).asid }
    coxes := s.coxes.map fun c => { c with slot := c.slot.mark v (s.lrec c.ident).asid } }

/-- A write of INVCMD with GO: it starts, or is dropped while another runs. -/
def State.startInv (s : State) (mode count : Nat) : State :=
  match s.xlat.invBusy with
  | some _ => { s with xlat := { s.xlat with invDropped := true } }
  | none =>
    let (asid, page) := s.invAt
    let v : Invalidation := ⟨mode, asid, page, if count = 0 then 2 ^ 32 else count⟩
    let s := s.markBlocks v
    { s with xlat := { s.xlat with invBusy := some v } }

/-- INVALIDATE_RANGE. -/
def execInvalidateRange (count : BitVec 32) (s : State) : Out := .next (s.startInv 0 count.toNat)
/-- INVALIDATE_ASID. -/
def execInvalidateAsid (s : State) : Out := .next (s.startInv 1 0)
/-- INVALIDATE_ALL. -/
def execInvalidateAll (s : State) : Out := .next (s.startInv 2 0)

/-- The address space of a unit's launch. -/
def State.asidOf (s : State) (r : UnitRef) : Nat := (s.lrec r.ident).asid

/-- A queued matrix operation's translated pages. -/
def MatOp.pages (o : MatOp) : List Nat :=
  match o.kind with
  | .mldb _ _ _ _ xl | .mdrain _ _ _ _ xl => xl.map Prod.fst
  | _ => []

/-- A dealer's write to another package (R141, R372). -/
def OutPacket.dealer (o : OutPacket) : Bool :=
  o.pkt.key.unitKind == 4 && match o.pkt.payload with
    | .write .. => true
    | _ => false

/-- Every access that may have used a translation in the range has completed at its target: loads have their data, stores,
atomics and raises are performed, private lines written back, steps of copies and posted transfers acknowledged, a dealer's writes too,
queued matrix operations with rows there done. -/
def State.invQuiet (s : State) (v : Invalidation) : Bool :=
  let mine (a : Nat) : Bool := v.mode == 2 || a == v.asid
  let own (r : UnitRef) : Bool := mine (s.asidOf r)
  !(s.flight.loads.any fun o => own o.unit && !o.missing.isEmpty) && !(s.flight.stores.any fun o => own o.unit) &&
  !(s.flight.atomics.any fun o => own o.unit) && !(s.flight.updates.any fun o => own o.unit && o.place == .sent) &&
  !(s.eng.copies.any fun q => own q.unit && match q.job with
    | some j => j.moving
    | none => false) &&
  !(s.eng.raises.any fun r => (r.asid.map mine).getD false) && !(s.fab.out.any OutPacket.dealer) &&
  !(s.fab.out.any fun o => o.origin == .priv) && !(s.eng.posts.any fun p => mine p.asid && s.fab.out.any fun o => o.origin == .post p.slot) &&
  !((s.eng.mats ++ s.eng.saved.map SavedMatrix.m).any fun m => m.ops.any fun o =>
    own o.unit && o.pages.any fun p => v.page? (s.asidOf o.unit) p)

/-- A dirty private line in a frame from `lo` to below `hi` is written back and dropped: the store has then completed at its
target (R54, R74). -/
def State.flushFrame (s : State) (lo hi : Nat) : State :=
  let mine (x : L1Line) : Bool := x.priv && decide (lo ≤ 64 * x.line) && decide (64 * x.line < hi)
  let s := (s.caches.l1.filter mine).foldl State.writeBack s
  s.setL1 (s.caches.l1.filter fun x => !(mine x))

/-- A TLB entry, a walk-cache entry and an instruction line that an invalidation covers. -/
def TlbEntry.hit (e : TlbEntry) (v : Invalidation) : Bool :=
  v.covers e.asid (e.vpage * pageBytes e.level) ((e.vpage + 1) * pageBytes e.level)
def WalkEntry.hit (e : WalkEntry) (v : Invalidation) : Bool :=
  v.covers e.asid (e.key * 2 ^ levelShift e.level) ((e.key + 1) * 2 ^ levelShift e.level)
def ILine.hit (e : ILine) (v : Invalidation) : Bool := v.covers e.asid (e.line * 64) ((e.line + 1) * 64)

/-- A slot of an address space after an invalidation: blocks of the range that it was not issuing from when the invalidation began are
dropped, and an instruction that waits for walks of the range starts them anew (R54, R70). -/
def Slot.invalidated (x : Slot) (v : Invalidation) (asid : Nat) : Slot :=
  let blocks := x.blocks.filter fun b => b.kept || !(v.covers asid b.base.toNat (b.base.toNat + 32))
  let x := { x with blocks := blocks, walked := x.walked.filter fun w => !(v.page? asid w.1) }
  match x.st with
  | .blocked (.walk _ a pages) => if pages.any fun p => v.page? a p then { x with st := .ready, walked := [] } else x
  | _ => x

/-- Private lines of the pages that an invalidation covers written back. -/
def State.flushRange (s : State) (v : Invalidation) : State :=
  (s.caches.tlb.filter fun e => e.hit v).foldl (fun (s : State) e => s.flushFrame e.frame (e.frame + pageBytes e.level)) s

/-- What an invalidation drops. -/
def State.dropRange (s : State) (v : Invalidation) : State :=
  { s with
    caches := { s.caches with
      tlb := s.caches.tlb.filter fun e => !(e.hit v)
      walkCache := s.caches.walkCache.filter fun e => !(e.hit v)
      il := s.caches.il.filter fun e => !(e.hit v) }
    crews := s.crews.map fun c => { c with
      slot0 := c.slot0.invalidated v (s.lrec c.ident).asid, slot1 := c.slot1.invalidated v (s.lrec c.ident).asid }
    coxes := s.coxes.map fun c => { c with slot := c.slot.invalidated v (s.lrec c.ident).asid } }

/-- The ROOT that a register gives is the one that walks use from now on (R50, log entry 110). -/
def State.takeRoot (s : State) (asid : Nat) : State :=
  let ctx := (tget 0 s.xlat.asctx (4 * asid)).toNat
  if nbit ctx 0 || s.xlat.roots.any fun x => x.1 == asid then
    { s with xlat := { s.xlat with roots := (asid, bits ctx 12 40 * 2 ^ 12) :: s.xlat.roots.filter fun x => x.1 != asid } }
  else s

/-- The address spaces that an invalidation covers whole. -/
def Invalidation.spaces (v : Invalidation) : List Nat :=
  match v.mode with
  | 0 => []
  | 1 => [v.asid]
  | _ => List.range 64

/-- INVALIDATION_DONE: the accesses made through the range have completed, and what was cached of it is dropped; private lines that go
back to another package are acknowledged first (R54). -/
def execInvalidationDone (s : State) : Out :=
  match s.xlat.invBusy with
  | none => .refused .noSuchEvent
  | some v =>
    if !(s.invQuiet v) then .refused .noSuchEvent
    else
      let s := s.flushRange v
      if s.fab.out.any fun o => o.origin == .priv then .next s
      else
        let s := v.spaces.foldl State.takeRoot (s.dropRange v)
        .next { s with xlat := { s.xlat with invBusy := none } }

/-! ### Replay and cancel (R63 to R66) -/

/-- A field of REPLAYCMD: OP, SCOPE, UNIT, the identity, LAUNCH and GEN as IDENT has them. -/
def cmdOp (c : BitVec 64) : Nat := bits c.toNat 62 2
def cmdScope (c : BitVec 64) : Nat := bits c.toNat 60 2
def cmdUnit (c : BitVec 64) : Nat := bits c.toNat 57 3
def cmdIdent (c : BitVec 64) : Word := BitVec.ofNat 32 (bits c.toNat 25 20 * 2 ^ 12 + bits c.toNat 45 12)
def cmdWhere (c : BitVec 64) : Nat := bits c.toNat 0 25

/-- A refused command (R63). -/
def State.badCmd (s : State) : State := { s with xlat := { s.xlat with badCmd := true } }

/-- A command selects a parked unit: its UNIT code, its identity, its launch and address space, and the pages it waits for. -/
def State.selects (s : State) (c : BitVec 64) (unit place : Nat) (ident : Word) (asid : Nat) (pages : List Nat) : Bool :=
  let at_ := s.xlat.replayAddr.toNat
  match cmdScope c with
  | 0 => cmdUnit c == unit && cmdWhere c == place && cmdIdent c == ident
  | 1 => asid == bits at_ 56 6 && pages.contains (bits at_ 16 40)
  | 2 => asid == bits at_ 56 6
  | _ => cmdIdent c == ident

/-- A slot after a replay (R64): ready when its fault is replayable and it is selected. -/
def Slot.replay (x : Slot) (sel : List Nat → Bool) : Slot :=
  match x.st with
  | .parked false _ pages => if sel pages then { x with st := .ready, replayed := true } else x
  | _ => x

/-- A slot is parked on a replayable fault; on an address fault. -/
def Slot.pageParked (x : Slot) : Bool :=
  match x.st with
  | .parked false _ _ => true
  | _ => false
def Slot.addrParked (x : Slot) : Bool :=
  match x.st with
  | .parked true _ _ => true
  | _ => false

/-- A resident unit that a command selects whole, and that is parked only on an address fault (R66). -/
def State.skips (s : State) (c : BitVec 64) (u : UnitSt) (unit place : Nat) : Bool :=
  let slots := u.slots.map u.slot
  cmdScope c != 1 && s.selects c unit place u.ref.ident (s.asidOf u.ref) [] && slots.any Slot.addrParked && !(slots.any Slot.pageParked)

/-- UNIT code and identity of a resident unit: a crew on its place, or a cox core of a gang that has not been saved. -/
def State.identity (s : State) (u : UnitSt) : Option (Nat × Nat) :=
  match u with
  | .crew c => c.place.map fun p => (0, placeIdent p.cluster p.core p.part p.place)
  | .cox c => if ((s.gang? c.ident c.gang).map Gang.saved).getD true then none else some (1, placeIdent (s.clusterOf c.ref) 0 0 0)

/-- A replay of a unit; NRSKIP counts on over all commands (log entry 75). -/
def State.replayUnit (s : State) (c : BitVec 64) (r : UnitRef) : State :=
  match s.unit? r with
  | none => s
  | some u =>
    match s.identity u with
    | none => s
    | some (unit, place) =>
      let sel (pages : List Nat) : Bool := s.selects c unit place r.ident (s.asidOf r) pages
      let s' := s.setUnit (u.slots.foldl (fun u k => u.setSlot k ((u.slot k).replay sel)) u)
      if s.skips c u unit place then { s' with xlat := { s'.xlat with nrskip := s'.xlat.nrskip + 1 } } else s'

/-- A copy request, a posted operation and a launch's dealer writes after a replay. -/
def State.replayCopy (s : State) (c : BitVec 64) (q : CopyReq) : CopyReq :=
  match q.phase with
  | .faulted pages =>
    if s.selects c 2 (placeIdent q.cluster 0 0 q.chan) q.unit.ident (s.asidOf q.unit) pages && q.cluster < 48 then { q with phase := .running }
    else q
  | _ => q
def State.replayPost (s : State) (c : BitVec 64) (p : Post) : Post :=
  match p.state with
  | .paused pages =>
    let c := if cmdScope c = 0 then c &&& ~~~(0x1FF8000#64) else c
    if s.selects c 3 p.slot p.ident p.asid pages then { p with state := .transferring } else p
  | _ => p
def State.replayLaunch (s : State) (c : BitVec 64) (l : Launch) : Launch :=
  let sel (pages : List Nat) : Bool :=
    s.selects c 4 0 l.lr.ident (if l.reject = 0 then l.lr.asid else l.queueAsid) pages && !pages.isEmpty
  let l := match l.phase with
    | .parkedRecord pages => if sel pages then { l with phase := .running } else l
    | .running | .sentRecord => l
  match l.roundParked with
  | some pages => if sel pages then { l with roundParked := none } else l
  | none => l

/-- Dealer writes that a command selects and that are parked on an address fault (R66, R372). -/
def State.skipWrites (s : State) (c : BitVec 64) : Nat :=
  (s.dealer.launches.filter fun l =>
    cmdScope c != 1 && s.selects c 4 0 l.lr.ident (if l.reject = 0 then l.lr.asid else l.queueAsid) [] &&
    (l.phase == .parkedRecord [] || l.roundParked == some []) && (l.phase == .running || l.phase == .parkedRecord []) &&
    (l.roundParked == none || l.roundParked == some [])).length

/-- REPLAY: each selected parked unit is ready again (R63, R64, R66). -/
def State.replay (s : State) (c : BitVec 64) : State :=
  if 5 ≤ cmdUnit c then s.badCmd
  else
    let copies := s.eng.copies.map (s.replayCopy c)
    let posts := s.eng.posts.map (s.replayPost c)
    let launches := s.dealer.launches.map (s.replayLaunch c)
    let skipped := s.xlat.nrskip + BitVec.ofNat 32 (s.skipWrites c)
    let s : State := { s with
      eng := { s.eng with copies := copies, posts := posts }
      dealer := { s.dealer with launches := launches }
      xlat := { s.xlat with nrskip := skipped } }
    (s.crews.map Crew.ref ++ s.coxes.map Cox.ref).foldl (fun s r => s.replayUnit c r) s

/-- The launch ends as a cancel ends it, unless it waits only for its completion record (R65). -/
def State.cancel (s : State) (c : BitVec 64) : State :=
  if cmdScope c ≠ 3 || 5 ≤ cmdUnit c then s.badCmd
  else match s.launch? (cmdIdent c) with
    | some l => if l.reject = 0 then s.endLaunch l.lr.ident else s
    | none => s

/-- A write of REPLAYCMD (R63). -/
def State.command (s : State) (c : BitVec 64) : State :=
  match cmdOp c with
  | 0 => s.replay c
  | 1 => s.cancel c
  | _ => s.badCmd

/-- REPLAY. -/
def execReplay (cmd : BitVec 64) (s : State) : Out := .next (s.command cmd)
/-- CANCEL_LAUNCH. -/
def execCancelLaunch (cmd : BitVec 64) (s : State) : Out := .next (s.command cmd)

/-! ### Migration (R72 to R76) -/

/-- The leaf entry of a virtual address by a walk from memory: its physical address, the entry and its level. -/
def entryFrom (va : Nat) : Nat → Nat → State → Option (Nat × DWord × Nat) × State
  | 0, _, s => (none, s)
  | level + 1, table, s =>
    let pa := table + entryOffset level va
    match s.readEntry ⟨0, 0⟩ pa with
    | (.error _, s) => (none, s)
    | (.ok e, s) =>
      match walkStep level va e.toNat with
      | .next t => entryFrom va level t s
      | .done (.ok ..) => (some (pa, e, level), s)
      | .done (.fault c) => (if c = 4 then some (pa, e, level) else none, s)

/-- The leaf entry of an address space for a virtual address. -/
def State.leafEntry (s : State) (asid va : Nat) : Option (Nat × DWord × Nat) × State :=
  let ctx := (tget 0 s.xlat.asctx (4 * asid)).toNat
  if !(nbit ctx 0) then (none, s) else entryFrom va 5 (s.rootOf asid) s

/-- A migration slot replaced. -/
def State.setMig (s : State) (k : Nat) (m : MigSlot) : State := { s with xlat := { s.xlat with migs := s.xlat.migs.set k m } }

/-- A frame of `n` bytes has storage throughout (R38). -/
def State.frameBacked (s : State) (frame n : Nat) : Bool :=
  s.backed frame && s.backed (frame + n - 1) && targetOf (paLocal frame) != .trigger && targetOf (paLocal (frame + n - 1)) != .trigger

/-- MIG and PIN of an entry. -/
def withMig (e : DWord) (b : Bool) : DWord := setBit e 11 b
def withPin (e : DWord) (b : Bool) : DWord := setBit e 10 b

/-- The address space, the virtual address, rounded down to the page's size (log entry 77), and the destination frame of a slot's migration. -/
def MigSlot.asid (m : MigSlot) : Nat := bits m.runSrc.toNat 56 6
def MigSlot.va (m : MigSlot) (level : Nat) : Nat := bits m.runSrc.toNat 16 40 * 2 ^ 16 / pageBytes level * pageBytes level
def MigSlot.frame (m : MigSlot) : Nat := bits m.runDst.toNat 16 36 * 2 ^ 16

/-- What a migration's invalidation covers. -/
def MigSlot.inv (m : MigSlot) : Invalidation := ⟨0, m.asid, m.va m.size / 2 ^ 16, pageBytes m.size / 2 ^ 16⟩

/-- What a write of MIGCTL with GO comes to: the checks of R73, and MIG set. -/
def State.startMig (s : State) (k : Nat) (m : MigSlot) (force : Bool) (size : Nat) : State :=
  let m := { m with runSrc := m.src, runDst := m.dst }
  let stop (s : State) (st : Nat) : State := s.setMig k { m with state := BitVec.ofNat 4 st, line := 0 }
  if size = 3 || m.frame % pageBytes size ≠ 0 then stop s 4
  else match s.leafEntry m.asid (m.va size) with
    | (none, s) => stop s 4
    | (some (pa, e, level), s) =>
      if level ≠ size || e.getLsbD 11 || bits e.toNat 8 2 = 2 then stop s 4
      else if !(s.frameBacked m.frame (pageBytes size)) then stop s 7
      else if e.getLsbD 10 && !force then stop s 3
      else
        let m : MigSlot := { m with state := 1, line := 0, size := size, force := force, entryAddr := pa, entry := e }
        ((s.l2Writes pa (leBytes 8 (withMig e true).toNat)).setMig k m).markBlocks m.inv

/-- MIGRATE: a write of MIGCTL (R72, R73). -/
def execMigrate (slot : Nat) (ctl : BitVec 64) (s : State) : Out :=
  match s.xlat.migs[slot]? with
  | none => .next s
  | some m =>
    if !(ctl.getLsbD 63) || m.state == 1 then .next s
    else .next (s.startMig slot m (ctl.getLsbD 62) (bits ctl.toNat 0 2))

/-- `n` entries of a table from `src` on moved over those from `dst` on. -/
def tabCopy {β : Type} (t : Tab β) (src dst n : Nat) : Tab β :=
  (t.filter fun x => decide (x.1 < dst)) ++
  ((t.filter fun x => decide (src ≤ x.1) && decide (x.1 < src + n)).map fun x => (x.1 - src + dst, x.2)) ++
  t.filter fun x => decide (dst + n ≤ x.1)

/-- Bytes moved from one frame to another, with good check values (R73, R413); no slice holds lines of either, nor the host one of the
frame written (R395). -/
def State.moveBytes (s : State) (src dst n : Nat) : State :=
  let s := (s.plat.hostLines.filter fun l => decide (dst ≤ 64 * l) && decide (64 * l < dst + n)).foldl State.backInvalidate s
  let s := s.setL2 (s.caches.l2.filter fun x => !(decide (dst ≤ 64 * x.line) && decide (64 * x.line < dst + n)))
  { s with
    mem := tabCopy s.mem src dst n
    checks := s.checks.filter fun x => !(decide (dst ≤ 64 * x.1) && decide (64 * x.1 < dst + n)) }

/-- The stream of a migration's writes to another package (R406, log entry 65). -/
def State.migStream (s : State) (k : Nat) : Option StreamKey :=
  (s.fab.streams.find? fun x => x.key.unitKind == 5 && x.key.index == k && !x.closing).map Stream.key

/-- The bytes of a frame on their way to a frame of another package, line by line. -/
def State.sendFrame (s : State) (k src dst n : Nat) : State :=
  let (key, s) := s.openStream 5 k 0 false
  (List.range (n / 64)).foldl (fun (s : State) i =>
    s.sendPacket key (paPkg dst) (s.homeSlice (dst + 64 * i)) (.write (paLocal dst + 64 * i) (s.rdMem (src + 64 * i) 64)) (.migration k)) s

/-- A frame's bytes moved: here, or from or to another package (R73, R403). -/
def State.moveFrame (s : State) (k src dst n : Nat) : State :=
  let s : State := if paPkg src = s.pkg then s else { s with outputs := s.outputs ++ [.remoteRequest (paPkg src) (paLocal src) n] }
  if src = dst then s
  else if paPkg dst = s.pkg then s.moveBytes src dst n
  else s.sendFrame k src dst n

/-- The window of an address space (R50). -/
def State.window (s : State) (asid : Nat) : Nat := max 16 (bits (tget 0 s.xlat.asctx (4 * asid + 1)).toNat 16 12)

/-- Migrations of a page among the last ones of its address space, this one included (R75). -/
def State.migCount (s : State) (asid page : Nat) : Nat :=
  ((((s.xlat.window.filter fun x => x.1 == asid).take (s.window asid - 1)).filter fun x => x.2 == page).length) + 1

/-- The frame that a migration leaves. -/
def MigSlot.old (m : MigSlot) : Nat := bits m.entry.toNat 16 36 * 2 ^ 16

/-- A migration stops for a line that fails its check, or for a stream that fails: MIG is cleared in the entry as it stands then. -/
def State.failMig (s : State) (k : Nat) (m : MigSlot) (line : Nat) : State :=
  let now : DWord := BitVec.ofNat 64 (leNat (s.rdMem m.entryAddr 8))
  (s.l2Writes m.entryAddr (leBytes 8 (withMig now false).toNat)).setMig k { m with state := 6, line := BitVec.ofNat 32 line }

/-- The copy of a migrating page has been made: the entry names the new frame, and the thrash detector counts it (R73, R75). -/
def State.endMig (s : State) (k : Nat) (m : MigSlot) : State :=
  let asid := m.asid
  let va := m.va m.size
  if leNat (s.rdMem m.entryAddr 8) ≠ (withMig m.entry true).toNat then s.setMig k { m with state := 5 }
  else
    let w := (tget 0 s.xlat.asctx (4 * asid + 1)).toNat
    let pin := nbit w 63 && !m.force && decide (bits w 0 8 < s.migCount asid (va / 2 ^ 16))
    let e := withPin (withMig (BitVec.ofNat 64 (m.entry.toNat - m.old + m.frame)) false) pin
    let s := s.l2Writes m.entryAddr (leBytes 8 e.toNat)
    let mineP (p : Pin) : Bool := p.asid == asid && p.page == va / 2 ^ 16
    let seen := s.xlat.window.filter fun x => x.1 == asid
    let others := s.xlat.window.filter fun x => x.1 != asid
    let pins := s.xlat.pins.filter fun p => !(mineP p)
    let s : State := { s with xlat := { s.xlat with
      window := ((asid, va / 2 ^ 16) :: seen).take (s.window asid) ++ others
      pins := if pin then ⟨asid, va / 2 ^ 16, m.size, (s.dieCtr 4).toNat⟩ :: pins else pins } }
    let s := if pin then s.ringHint .access (accessBytes 3 asid 0 va 0) else s
    s.setMig k { m with state := if pin then 3 else 2 }

/-- The invalidation of a migrating page, then the copy of its frame, up to a line that fails its check (R73). -/
def State.copyMig (s : State) (k : Nat) (m : MigSlot) : State :=
  let n := pageBytes m.size
  let s := s.dropRange m.inv
  match s.checks.find? fun x => decide (m.old ≤ 64 * x.1) && decide (64 * x.1 < m.old + n) with
  | some (line, _) =>
    let pa := 64 * line
    let wher := s.whereOf pa
    let s := ((s.l2Flush m.old (m.old + n)).moveFrame k m.old m.frame (pa - m.old)).integrityRecord 0 0 (some pa, wher)
    let s := s.failMig k m (line - m.old / 64)
    match s.migStream k with
    | some key => s.endStream key
    | none => s
  | none =>
    let s := (s.l2Flush m.old (m.old + n)).moveFrame k m.old m.frame n
    if (s.migStream k).isSome then s else s.endMig k m

/-- MIGRATION_COMPLETE: the invalidation and the copy of a migrating page have ended (R73, R74); private lines that go back to another
package, and a frame that goes to one, are acknowledged first. -/
def execMigrationComplete (slot : Nat) (s : State) : Out :=
  match s.xlat.migs[slot]? with
  | none => .refused .noSuchEvent
  | some m =>
    if m.state != 1 || !(s.invQuiet m.inv) || s.fab.out.any (fun o => o.origin == .migration slot) then .refused .noSuchEvent
    else match s.migStream slot with
    | some key => .next ((s.endStream key).endMig slot m)
    | none =>
      let s := (s.flushRange m.inv).flushFrame m.old (m.old + pageBytes m.size)
      if s.fab.out.any fun o => o.origin == .priv then .next s else .next (s.copyMig slot m)

/-- A pin's hold has elapsed, by the counter of I/O die 0 at its nominal rate, where its address space has a hold time, and no slot
migrates its page (R76). -/
def State.pinReady (s : State) (p : Pin) : Bool :=
  let t := bits (tget 0 s.xlat.asctx (4 * p.asid + 1)).toNat 32 20
  t != 0 && decide (p.since + 2100 * t ≤ (s.dieCtr 4).toNat) &&
  !(s.xlat.migs.any fun m => m.state == 1 && m.asid == p.asid && m.va m.size / 2 ^ 16 == p.page)

/-- PIN_HOLD_EXPIRY: PIN is cleared in the page's entry, and an event written (R76). -/
def execPinHoldExpiry (asid page : Nat) (s : State) : Out :=
  match s.xlat.pins.find? fun p => p.asid == asid && p.page == page with
  | none => .refused .noSuchEvent
  | some p =>
    if !(s.pinReady p) then .refused .noSuchEvent
    else
      let s := match s.leafEntry asid (page * 2 ^ 16) with
        | (some (pa, e, level), s) => if level = p.size then s.l2Writes pa (leBytes 8 (withPin e false).toNat) else s
        | (none, s) => s
      let s : State := { s with xlat := { s.xlat with pins := s.xlat.pins.filter fun x => x != p } }
      .next (s.ringHint .access (accessBytes 2 asid 0 (page * 2 ^ 16) 0))

end Sys2Proof.Machine
end

