-- ==== Sys2Proof/Machine/Dealer.lean ====
section
/-! DEFINITION. The dealer: submission queues and acceptance (R366 to R371), the dependence matcher (R374), placement, reservations and drawn work (R376 to R382), and the placing and resuming of a gang (R24, R25, R81, R98, R145, R394). -/

namespace Sys2Proof.Machine

open Sys2Proof

/-! ### Lists -/

/-- An element put in its place by a key, after those with an equal key. -/
def insertOn {α : Type} (key : α → Nat) (x : α) : List α → List α
  | [] => [x]
  | y :: r => if key x < key y then x :: y :: r else y :: insertOn key x r

/-- A list in ascending order of a key, stable. -/
def sortOn {α : Type} (key : α → Nat) (l : List α) : List α := l.foldl (fun a x => insertOn key x a) []

/-- The element of least key; the first of several. -/
def minOn {α : Type} (key : α → Nat) (l : List α) : Option α := (sortOn key l).head?

/-! ### The launch record (R368, R369) -/

/-- A region record. -/
def regionOf (b : List Byte) : Region :=
  let w := fldAt b 0 8
  { base := bits w 0 56, lesz := bits w 56 3, access := bits w 62 2, ext0 := fldAt b 8 4, str0 := fldAt b 12 4
    ext1 := fldAt b 16 4, str1 := fldAt b 20 4 }

/-- Bytes of region record `k`. -/
def regionBytes (b : List Byte) (k : Nat) : List Byte := (b.drop (128 + 32 * k)).take 32

/-- The fields of a launch record. -/
def launchRecOf (b : List Byte) : LaunchRec :=
  let w (k : Nat) : Word := BitVec.ofNat 32 (fldAt b k 4)
  let d (k : Nat) : DWord := BitVec.ofNat 64 (fldAt b k 8)
  let flags := fldAt b 6 1
  { ident := w 0, asid := fldAt b 4 1 % 64, prio := fldAt b 5 1 % 8, hold := nbit flags 0, nodep := nbit flags 1
    affStrict := nbit flags 2, shape := w 8, gangCount := fldAt b 12 4, codeBase := d 16, coxOff := w 24, trapOff := w 28
    coxTrapOff := w 32, poolPart := w 36, arithCtl := w 40, privSize := fldAt b 44 4, privBase := d 48, privFrames := fldAt b 56 4
    ovfCnt := fldAt b 60 4, ovfBase := fldAt b 64 8, roundWord := d 72, seed := d 80, compl := d 88, affMode := fldAt b 96 1
    affStack := fldAt b 97 1, affTab := d 104, pkgBase := fldAt b 112 1, pkgN := fldAt b 113 1
    regions := (List.range (min 8 (fldAt b 7 1))).map fun k => regionOf (regionBytes b k) }

/-- A byte of AFFTAB that names a stack or none. -/
def affByteOk (v : Nat) : Bool := v ≤ 11 || v == 255

/-- Code 1 of R371: reserved fields, FLAGS, AFFMODE and ACCESS values, and the affinity fields. -/
def launchReserved (b : List Byte) : Bool :=
  let rc := fldAt b 7 1
  let mode := fldAt b 96 1
  let stack := fldAt b 97 1
  let tab := fldAt b 104 8
  let shape := fldAt b 8 4
  let arith := fldAt b 40 4
  let badRegion (k : Nat) : Bool :=
    let r := regionBytes b k
    if k < rc then bits (fldAt r 0 8) 59 3 ≠ 0 || bits (fldAt r 0 8) 62 2 = 0 || fldAt r 24 8 ≠ 0 else r.any fun x => x != 0
  64 ≤ fldAt b 4 1 || 8 ≤ fldAt b 5 1 || 8 ≤ fldAt b 6 1 || bits shape 6 2 ≠ 0 || bits shape 10 6 ≠ 0 || bits shape 20 12 ≠ 0 ||
  bits (fldAt b 36 4) 5 3 ≠ 0 || bits arith 3 5 ≠ 0 || bits arith 11 5 ≠ 0 || bits arith 22 10 ≠ 0 || 4 < bits arith 0 3 ||
  3 < mode || (if mode = 1 then 11 < stack else stack ≠ 0) || (mode < 2 && tab ≠ 0) ||
  (mode = 2 && (List.range 8).any fun k => !(affByteOk (bits tab (8 * k) 8))) ||
  fldAt b 98 6 ≠ 0 || fldAt b 114 14 ≠ 0 || (List.range 8).any badRegion

/-- A region beyond the global aperture, or with a field out of range (R369, R371). -/
def Region.bad (r : Region) : Bool :=
  r.ext0 = 0 || 2 ^ 24 < r.ext0 || r.ext1 = 0 || 2 ^ 24 < r.ext1 || r.str0 < 2 ^ r.lesz ||
  2 ^ 56 < r.base + (r.ext0 - 1) * r.str0 + (r.ext1 - 1) * r.str1 + 2 ^ r.lesz

/-! ### Shares and ordinals (R373) -/

/-- The gangs of this package's share. -/
def State.shareCount (s : State) (lr : LaunchRec) : Nat :=
  let k := lr.rankOf s.pkg
  if k < lr.gangCount then (lr.gangCount - 1 - k) / lr.setSize + 1 else 0

/-- The gang index of an ordinal of the share. -/
def State.gangAt (s : State) (lr : LaunchRec) (i : Nat) : Nat := lr.rankOf s.pkg + lr.setSize * i

/-- Gangs never placed or withdrawn; none once the launch has been cancelled. -/
def State.unplaced (s : State) (l : Launch) : Nat :=
  if l.cancelled || l.reject ≠ 0 then 0 else s.shareCount l.lr - l.nextGang - l.ahead.length

/-- The lowest ordinal passes over those already taken. -/
def skipTaken : Nat → Nat → List Nat → Nat × List Nat
  | 0, n, a => (n, a)
  | fuel + 1, n, a => if a.contains n then skipTaken fuel (n + 1) (a.filter fun x => x != n) else (n, a)

/-- An ordinal placed or withdrawn. -/
def Launch.take (l : Launch) (i : Nat) : Launch :=
  let (n, a) := skipTaken (l.ahead.length + 1) l.nextGang (i :: l.ahead)
  { l with nextGang := n, ahead := a }

/-! ### What a cluster holds -/

/-- Gangs left out of a reckoning of a cluster's resources. -/
abbrev Gone := List (Word × Nat)

/-- A gang takes part in the reckoning of a cluster. -/
def State.occupies (s : State) (gone : Gone) (cl : Nat) (ident : Word) (gang : Nat) : Bool :=
  !(gone.contains (ident, gang)) && match s.gang? ident gang with
    | some g => !g.saved && g.cluster == cl
    | none => false

/-- The runs of granules taken on a core: first granule and length (R81). -/
def State.granules (s : State) (gone : Gone) (cl co : Nat) : List (Nat × Nat) :=
  (s.wgs.filter fun w => w.core == co && s.occupies gone cl w.ident w.gang).map fun w => (w.granule, (s.lrec w.ident).image)

/-- Free granules of a core. -/
def State.freeGranules (s : State) (gone : Gone) (cl co : Nat) : Nat := 128 - ((s.granules gone cl co).map Prod.snd).sum

/-- The lowest free run of `n` granules of a core. -/
def State.granuleFor (s : State) (gone : Gone) (cl co n : Nat) : Option Nat :=
  (List.range (129 - n)).find? fun o => (s.granules gone cl co).all fun r => decide (o + n ≤ r.1) || decide (r.1 + r.2 ≤ o)

/-- The free places of a partition (R149, R384). -/
def State.freePlaces (s : State) (gone : Gone) (cl co part : Nat) : List Nat :=
  (List.range 8).filter fun k => !(s.crews.any fun c =>
    c.place == some ⟨cl, co, part, k⟩ && !(gone.contains (c.ident, c.gang)))

/-- Crews of a workgroup on a partition (R149). -/
def LaunchRec.onPart (lr : LaunchRec) (p : Nat) : Nat := (lr.nCrews + 3 - p) / 4

/-- A workgroup of the launch fits a core (R376). -/
def State.coreFits (s : State) (gone : Gone) (lr : LaunchRec) (cl co : Nat) : Bool :=
  (s.granuleFor gone cl co lr.image).isSome && (List.range 4).all fun p => decide (lr.onPart p ≤ (s.freePlaces gone cl co p).length)

/-- The cluster's cox core is idle: it serves no gang whose stream has not ended or whose operations are queued (R376). -/
def State.coxIdle (s : State) (gone : Gone) (cl : Nat) : Bool :=
  !(s.gangs.any fun g => g.hasCox && s.occupies gone cl g.ident g.gang &&
    (s.coxLive g.ident g.gang || s.eng.mats.any fun m => m.ops.any fun o => o.unit.ident == g.ident && o.unit.gang == g.gang))

/-- How many workgroups of a launch a core still takes: by the free runs of its granules and the free places of its partitions. -/
def State.coreRoom (s : State) (lr : LaunchRec) (cl co : Nat) : Nat :=
  let taken := sortOn Prod.fst (s.granules [] cl co)
  let (k, at_) := taken.foldl (fun (x : Nat × Nat) r => (x.1 + (r.1 - x.2) / lr.image, r.1 + r.2)) (0, 0)
  ((List.range 4).filter fun p => 0 < lr.onPart p).foldl (fun m p => min m ((s.freePlaces [] cl co p).length / lr.onPart p))
    (k + (128 - at_) / lr.image)

/-- The cores on which the workgroups of a gang would go, ascending: a choice among those with room, by the key given. -/
def State.coresBy (s : State) (key : Nat → Nat) (gone : Gone) (lr : LaunchRec) (cl : Nat) : Option (List Nat) :=
  let n := s.coreCount cl
  let fits := (List.range n).filter fun co => s.coreFits gone lr cl co
  let chosen := (sortOn key fits).take lr.wgs
  if chosen.length < lr.wgs || (lr.hasCox && !(s.coxIdle gone cl)) then none
  else some ((List.range n).filter fun co => chosen.contains co)

/-- A free choice of the cores (log entry 9). -/
def State.coresFor (s : State) (gone : Gone) (lr : LaunchRec) (cl : Nat) : Option (List Nat) :=
  s.coresBy (fun co => Config.victim (4 * s.free + co)) gone lr cl

/-- The cores of a deterministic launch: the first ones (R380). -/
def State.detCores (s : State) (lr : LaunchRec) (cl : Nat) : Option (List Nat) :=
  let cores := List.range lr.wgs
  if cores.all (fun co => s.coreFits [] lr cl co) && (!lr.hasCox || s.coxIdle [] cl) then some cores else none

/-- The clusters that a deterministic launch uses (R380). -/
def State.detClusters (s : State) (lr : LaunchRec) : List Nat :=
  (s.clustersOf s.pkg).filter fun cl => decide (lr.wgs ≤ s.coreCount cl)

/-- Free private frames of a launch (R24). -/
def framesLeft (l : Launch) : Nat := l.lr.privFrames - l.framesUsed.length

/-- The `k`-th free number, given those in use in ascending order. -/
def nthFree (used : List Nat) (k : Nat) : Nat := used.foldl (fun n u => if u ≤ n then n + 1 else n) k

/-! ### Affinity (R96, R368, R370) -/

/-- The clusters of a stack's group. -/
def State.stackGroup (s : State) (stack : Nat) : List Nat :=
  let die := (s.clustersOf s.pkg).filter fun c => c / 12 == stack / 3
  let grp := die.filter fun c => c % 12 / 4 == stack % 3
  if grp.isEmpty then die else grp

/-- The affinity byte of an ordinal, once it has been read. -/
def State.affOf (s : State) (l : Launch) (i : Nat) : Nat :=
  match l.lr.affMode with
  | 1 => l.lr.affStack
  | 2 => bits l.lr.affTab.toNat (8 * (s.gangAt l.lr i % 8)) 8
  | 3 => ((l.aff.find? fun x => x.1 == i).map Prod.snd).getD 255
  | _ => 255

/-- The affinity group of an ordinal; none when it has no affinity. -/
def State.groupOf (s : State) (l : Launch) (i : Nat) : Option (List Nat) :=
  let v := s.affOf l i
  if v ≤ 11 then some (s.stackGroup v) else none

/-- Where a dealer's access of `n` bytes lies: its first physical address by each page, or what it fails on. -/
inductive DealerAt where
  | ok (pas : List Nat)
  | page (va cause : Nat)
  | addr (kind : Nat)
  deriving DecidableEq, Repr

/-- SOURCE of a dealer's records: UNIT 4 and identity zero (R372). -/
def dealerSource : Nat := 4 * 2 ^ 25

/-- The pages of a dealer's access, each byte with the memory type of its page, or what fails to translate (R18 order 6). -/
def State.dealerPages (s : State) (ident : Word) (asid va n : Nat) (write : Bool) : Except (Nat × Nat) (List (Nat × Nat)) × State :=
  (List.range n).foldl (fun (x : Except (Nat × Nat) (List (Nat × Nat)) × State) j =>
    match x.1 with
    | .error e => (.error e, x.2)
    | .ok pas =>
      match x.2.translate ⟨ident, dealerSource⟩ [] 0 asid (va + j) with
      | (.fault cause, s) => (.error (va + j, cause), s)
      | (.ok frame mt _ w _ _, s) =>
        if write && !w then (.error (va + j, 2), s) else (.ok (pas ++ [(onPage frame (va + j), mt)]), s)) (.ok [], s)

/-- The checks of R18 for an access by the dealer in an address space: wrap, aperture, alignment, bound, translation, storage; a
counter's page takes none of its accesses (R36). -/
def State.dealerAt (s : State) (ident : Word) (asid va n al : Nat) (write : Bool) : DealerAt × State :=
  if 2 ^ 64 ≤ va then (.addr 2, s)
  else match aperture va with
  | .none => (.addr 1, s)
  | .global =>
    if va % al ≠ 0 then (.addr 3, s)
    else if 2 ^ 56 < va + n then (.addr 5, s)
    else match s.dealerPages ident asid va n write with
      | (.error (bad, cause), s) => (.page bad cause, s)
      | (.ok ps, s) =>
        if ps.any fun p => !(s.backed p.1) || (p.2 == 2) != (targetOf (paLocal p.1) == .trigger) then (.addr 7, s)
        else if ps.any fun p => p.2 == 2 then (.addr 8, s)
        else (.ok (ps.map Prod.fst), s)
  | _ => if va % al ≠ 0 then (.addr 3, s) else (.addr 6, s)

/-- The affinity byte of an ordinal is read when the dealer first considers placing it (R370). -/
def State.readAff (s : State) (l : Launch) (i : Nat) : State :=
  if l.lr.affMode ≠ 3 || l.aff.any (fun x => x.1 == i) then s
  else
    let va := l.lr.affTab.toNat + s.gangAt l.lr i
    let (r, s) := s.dealerAt l.lr.ident l.lr.asid va 1 1 false
    let (v, s) : Nat × State := match r with
      | .ok (pa :: _) => match s.badLine [.mem pa] with
        | some x => (255, s.integrityRecord l.lr.ident dealerSource x)
        | none => ((tget 0 s.mem pa).toNat, s.l2Take pa Rank.plain)
      | _ => (255, s)
    s.modLaunch l.lr.ident fun x => { x with aff := (i, v) :: x.aff }

/-! ### Reservations and candidates (R377, R378) -/

/-- Launch `a` was accepted before launch `b` (R367). -/
def earlier (a b : Word) : Bool := decide (1 ≤ (b - a).toNat) && decide ((b - a).toNat < 2 ^ 31)

/-- A reservation keeps a launch from a cluster. -/
def State.heldBack (s : State) (l : Launch) (cl : Nat) : Bool :=
  s.dealer.reservations.any fun r => r.cluster == cl && r.ident != l.lr.ident && match s.launch? r.ident with
    | some o => decide (l.lr.prio < o.lr.prio) || (o.lr.prio == l.lr.prio && earlier o.accept l.accept)
    | none => false

/-- A gang to be placed for the first time finds no private frame for each of its workgroups (R24, R376). -/
def Launch.framesShort (l : Launch) (resumed : Bool) : Bool :=
  !resumed && l.lr.privSize ≠ 0 && decide (framesLeft l < l.lr.wgs)

/-- The cluster and cores for a gang: a candidate of its affinity group if there is one, then the one left with the fewest free
granules, then the lowest; `roomy` takes the cores with the most room. -/
def State.choose (s : State) (roomy : Bool) (l : Launch) (i : Nat) (resumed : Bool) : Option (Nat × List Nat) :=
  let lr := l.lr
  if l.framesShort resumed then none
  else if lr.determ then
    let cs := s.detClusters lr
    match cs[i % cs.length]? with
    | none => none
    | some cl => if s.heldBack l cl then none else (s.detCores lr cl).map fun cores => (cl, cores)
  else
    let grp := s.groupOf l i
    let inGroup (cl : Nat) : Bool := match grp with
      | some g => g.contains cl
      | none => true
    let fits := (s.clustersOf s.pkg).filterMap fun cl =>
      if (lr.affStrict && !(inGroup cl)) || s.heldBack l cl then none
      else (if roomy then s.coresBy (fun co => 1024 - s.coreRoom lr cl co) [] lr cl else s.coresFor [] lr cl).map fun cores => (cl, cores)
    let free (cl : Nat) : Nat := ((List.range (s.coreCount cl)).map fun co => s.freeGranules [] cl co).sum
    minOn (fun x => b2n (!(inGroup x.1)) * 2 ^ 20 + free x.1) fits

/-- Gangs of lower priority on a cluster, in the order in which they would be pre-empted: lowest priority first, then latest placed. -/
def State.lowerGangs (s : State) (prio cl : Nat) : List Gang :=
  let low := s.gangs.filter fun g => g.cluster == cl && !g.saved && decide ((s.lrec g.ident).prio < prio)
  sortOn (fun g => (s.lrec g.ident).prio) ((sortOn Gang.order low).reverse)

/-- The cluster that a gang with no candidate reserves: one where it would fit without the gangs of lower priority, which hold the
fewest granules there (R378). -/
def State.reserveAt (s : State) (l : Launch) (i : Nat) (resumed : Bool) : Option Nat :=
  let lr := l.lr
  let grp := s.groupOf l i
  let inGroup (cl : Nat) : Bool := match grp with
    | some g => g.contains cl
    | none => true
  let held (cl : Nat) : Nat := ((s.lowerGangs lr.prio cl).map fun g => (s.lrec g.ident).wgs * (s.lrec g.ident).image).sum
  let ok (cl : Nat) : Bool :=
    !(lr.affStrict && !(inGroup cl)) && !(l.framesShort resumed) &&
    (s.coresFor ((s.lowerGangs lr.prio cl).map fun g => (g.ident, g.gang)) lr cl).isSome
  minOn held ((s.clustersOf s.pkg).filter ok)

/-- A gang with no candidate, as the package stands in `at_`, reserves a cluster, unless its launch holds a reservation; a deterministic
launch waits without. -/
def State.reserve (s at_ : State) (l : Launch) (i : Nat) (resumed : Bool) : State :=
  if l.lr.determ || s.dealer.reservations.any (fun r => r.ident == l.lr.ident) then s
  else match at_.reserveAt l i resumed with
    | none => s
    | some cl =>
      { s with dealer := { s.dealer with
        reservations := s.dealer.reservations ++ [⟨l.lr.ident, s.gangAt l.lr i, cl, (s.dieCtr (dieOfCluster cl)).toNat⟩] } }

/-! ### Placing a gang (R24, R81, R98, R145, R149, R377, R380) -/

/-- A crew takes a free place of its partition (log entry 9) and the next age (R383). -/
def State.takePlace (s : State) (cl co crew : Nat) : Place × Nat × State :=
  let (n, s) := s.fresh
  let part := crew % 4
  let free := s.freePlaces [] cl co part
  let k := (free[Config.victim n % free.length]?).getD 0
  (⟨cl, co, part, k⟩, s.dealer.ageCount, { s with dealer := { s.dealer with ageCount := s.dealer.ageCount + 1 } })

/-- A private frame for a workgroup: one of those free (R24, log entry 9). -/
def State.takeFrame (s : State) (ident : Word) : Nat × State :=
  match s.launch? ident with
  | none => (0, s)
  | some l =>
    if l.lr.privSize = 0 then (0, s)
    else
      let (n, s) := s.fresh
      let f := nthFree l.framesUsed (Config.victim n % framesLeft l)
      (f, s.modLaunch ident fun x => { x with framesUsed := insertOn id f x.framesUsed })

/-- A new workgroup with its crews. -/
def State.newWg (s : State) (lr : LaunchRec) (gang wg cl co : Nat) : State :=
  let (f, s) := s.takeFrame lr.ident
  let g := (s.granuleFor [] cl co lr.image).getD 0
  let s : State := { s with wgs := s.wgs ++ [Workgroup.start lr gang wg co g f] }
  let s := (List.range lr.nCrews).foldl (fun (s : State) c =>
    let (p, age, s) := s.takePlace cl co c
    { s with crews := s.crews ++ [Crew.start lr gang wg c p age] }) s
  s.l1Invalidate (4 * cl + co)

/-- The macros, row buffers and matrix state of a core read zero (R98); operations of gangs beside it stay queued (R336). -/
def State.clearMatrix (s : State) (cl co : Nat) : State := s.setMatrix (s.matrix cl co).bare

/-- A gang placed for the first time. -/
def State.newGang (s : State) (l : Launch) (i cl : Nat) (cores : List Nat) : State :=
  let lr := l.lr
  let gang := s.gangAt lr i
  let g : Gang := ⟨lr.ident, gang, cl, s.dealer.placedCount, false, false, lr.hasCox⟩
  let s : State := { s with
    gangs := s.gangs ++ [g]
    dealer := { s.dealer with placedCount := s.dealer.placedCount + 1 } }
  let s := cores.zipIdx.foldl (fun (s : State) x => s.newWg lr gang x.2 cl x.1) s
  let s := if lr.hasCox then
      cores.foldl (fun (s : State) co => s.clearMatrix cl co) { s with coxes := s.coxes ++ [Cox.start lr gang] }
    else s
  (s.l1Invalidate (192 + cl)).modLaunch lr.ident fun x => x.take i

/-! ### Resuming a saved gang (R68, R130, R392, R394) -/

/-- The location of a byte of a reload descriptor's source; none where it does not translate or has no storage. -/
def State.reloadLoc (s : State) (m : SavedMatrix) (va : Nat) : Option Loc :=
  let lr := s.lrec m.ident
  match aperture va with
  | .scratchpad => (spTarget (.cox m.ident m.gang) lr (va % 2 ^ 48) 1).map fun x => .sp m.ident m.gang x.1 x.2
  | .global =>
    match (s.walk ⟨m.ident, 0⟩ 0 lr.asid va).1 with
    | .ok frame mt _ _ _ _ =>
      let pa := onPage frame va
      if mt = 2 || targetOf (paLocal pa) == .trigger || !(s.backed pa) then none else some (.mem pa)
    | .fault _ => none
  | _ => none

/-- The address of element (`k`, `n`) of a reload descriptor's source (R342, R349); none of a hidden element beyond its rows or blocks. -/
def Reload.elemAt (r : Reload) (k n : Nat) : Option Nat :=
  let a := r.src.toNat
  match r.hidden with
  | none => some (a + k * r.stride + 2 * n)
  | some (rows, dblk) =>
    let (b, row) := hiddenAt rows r.slot n
    if b < dblk && row < rows then some (a + row * r.stride + 2 * (256 * b + k)) else none

/-- A line among a slot's source bytes that fails its check. -/
def State.reloadCheck (s : State) (sm : SavedMatrix) (r : Reload) : Option (Option Nat × Nat) :=
  s.badLine ((List.range 65536).filterMap fun x => (r.elemAt (x / 256) (x % 256)).bind fun va => s.reloadLoc sm va)

/-- A slot loaded again from its source; where the source cannot be read the saved values stay, and where a line of it fails its check
the slot's lines fail theirs (R342, R349, R394, R414, log entry 76). -/
def State.reload (s : State) (sm : SavedMatrix) (m : Matrix) (r : Reload) : Matrix × State :=
  let word (va old : Nat) : Nat := match s.reloadLoc sm va, s.reloadLoc sm (va + 1) with
    | some x, some y => leNat [s.rdLoc x 0, s.rdLoc y 0]
    | _, _ => old
  let v (k n : Nat) : Nat := match r.elemAt k n with
    | some va => word va (m.bAt r.slot k n)
    | none => 0
  match s.reloadCheck sm r with
  | some x => ({ m with macBad := m.macBad ++ (List.range 2048).map fun l => 2048 * r.slot + l }, s.integrityRecord sm.ident 0 x)
  | none => (m.setSlot r.slot v (some r), s)

/-- A slot of a resumed gang: one parked on a page fault re-executes its instruction (R68); one that waits for a queue waits for that of
its new place, whose cores `core` gives for the old ones (R391, R394). -/
def Slot.resumed (x : Slot) (cl : Nat) (core : Nat → Nat) : Slot :=
  match x.st with
  | .parked false _ _ => { x with st := .ready }
  | .blocked (.channel _ ch) => { x with st := .blocked (.channel cl ch) }
  | .blocked (.matrixQueue _ co) => { x with st := .blocked (.matrixQueue cl (core co)) }
  | _ => x

/-- A crew of a resumed gang takes a place. -/
def State.resumeCrew (s : State) (c : Crew) (cl : Nat) (core : Nat → Nat) : State :=
  let co := s.coreOf c.ident c.gang c.wg
  let (p, age, s) := s.takePlace cl co c.crew
  s.setCrew { c with place := some p, age := age, wait := 0, slot0 := c.slot0.resumed cl core, slot1 := c.slot1.resumed cl core }

/-- The matrix engine of a resumed gang on a core: its macros and row buffers, or those of the gang that the core's belong to, and its
operations behind those queued there, beyond the eight that the queue holds waiting for room (R98, R336, R394, log entry 120). -/
def State.resumeMatrix (s : State) (hasCox : Bool) (cl : Nat) (sm : SavedMatrix) : State :=
  let there := s.matrix cl (s.coreOf sm.ident sm.gang sm.wg)
  let (m, s) := if hasCox then sm.m.reload.foldl (fun (x : Matrix × State) r => x.2.reload sm x.1 r) (sm.m, s) else (there, s)
  s.setMatrix { m.withOps (there.ops ++ sm.m.ops) with cluster := cl, core := there.core }

/-- A saved gang placed again. -/
def State.resumeGang (s : State) (l : Launch) (i cl : Nat) (cores : List Nat) : State :=
  let ident := l.lr.ident
  let gang := s.gangAt l.lr i
  let before := (s.wgs.filter fun w => w.ident == ident && w.gang == gang).map fun w => (w.core, w.wg)
  let s : State := { s with
    gangs := s.gangs.map fun g => if g.ident == ident && g.gang == gang then
      { g with cluster := cl, saved := false, order := s.dealer.placedCount } else g
    dealer := { s.dealer with placedCount := s.dealer.placedCount + 1 } }
  let s := cores.zipIdx.foldl (fun (s : State) x =>
    let g := (s.granuleFor [(ident, gang)] cl x.1 l.lr.image).getD 0
    (s.modWg ident gang x.2 fun w => { w with core := x.1, granule := g }).l1Invalidate (4 * cl + x.1)) s
  let core (co : Nat) : Nat := ((before.find? fun x => x.1 == co).map fun x => s.coreOf ident gang x.2).getD co
  let s := (s.gangCrews ident gang).foldl (fun (s : State) c => s.resumeCrew c cl core) s
  let s := (s.modUnit (.cox ident gang) fun u => u.setSlot 0 ((u.slot 0).resumed cl core)).l1Invalidate (192 + cl)
  let mine (m : SavedMatrix) : Bool := m.ident == ident && m.gang == gang
  let s := (s.eng.saved.filter mine).foldl (fun (s : State) sm => s.resumeMatrix l.lr.hasCox cl sm) s
  let again (q : CopyReq) : CopyReq :=
    if q.unit.ident == ident && q.unit.gang == gang && q.cluster == 48 then
      { q with cluster := cl, skipWatch := []
               vocab := q.vocab.map fun v => (core v.1, v.2)
               phase := match q.phase with
                 | .faulted _ | .watched _ => .running
                 | p => p }
    else q
  let s : State := { s with eng := { s.eng with
    saved := s.eng.saved.filter fun m => !(mine m)
    copies := s.eng.copies.map again } }
  (s.modLaunch ident fun x => { x with returned := x.returned.filter fun y => y != i }).kickAll cl

/-- A reservation ends when its gang is placed (R378). -/
def State.endReservation (s : State) (ident : Word) (gang : Nat) : State :=
  { s with dealer := { s.dealer with
    reservations := s.dealer.reservations.filter fun r => !(r.ident == ident && r.gang == gang) } }

/-- A gang placed or resumed, when there is a candidate. -/
def State.placeOne (s : State) (roomy : Bool) (ident : Word) (i : Nat) (resumed : Bool) : Option State :=
  match s.launch? ident with
  | none => none
  | some l =>
    match s.choose roomy l i resumed with
    | none => none
    | some (cl, cores) =>
      let s := if resumed then s.resumeGang l i cl cores else s.newGang l i cl cores
      some (s.endReservation ident (s.gangAt l.lr i))

/-- A list of gangs placed together (R379); or the first of them that finds no candidate, and the package as the gangs before it would
leave it. -/
def State.placeAll (s : State) (roomy : Bool) (ident : Word) : List (Nat × Bool) → Except ((Nat × Bool) × State) State
  | [] => .ok s
  | x :: r => match s.placeOne roomy ident x.1 x.2 with
    | some s => s.placeAll roomy ident r
    | none => .error (x, s)

/-- The affinity bytes of gangs, read when the dealer first considers placing them (R370). -/
def State.readAffs (s : State) (ident : Word) (is : List Nat) : State :=
  is.foldl (fun s i => match s.launch? ident with
    | some l => s.readAff l i
    | none => s) s

/-- How many clusters a gang of a launch may use; gangs with the fewest come first where a whole share is to be fitted in. -/
def State.freedom (s : State) (l : Launch) (i : Nat) : Nat :=
  match s.groupOf l i with
  | some g => if l.lr.affStrict then g.length else 48
  | none => 48

/-- A persistent share placed in one step, when every gang of it fits together (R379): in the order of R377 where that succeeds, else
the gangs with the fewest clusters first, on the cores with the most room, which succeeds whenever any arrangement does. -/
def State.placeShare (s : State) (l : Launch) (gs : List (Nat × Bool)) : Except ((Nat × Bool) × State) State :=
  match s.placeAll false l.lr.ident gs with
  | .ok t => .ok t
  | .error e => match s.placeAll true l.lr.ident (sortOn (fun x => s.freedom l x.1) gs) with
    | .ok t => .ok t
    | .error _ => .error e

/-- The gangs of a share still to be placed, in the order of R377: pre-empted gangs first, the lowest gang index before the others. At
most `n` of those never placed. -/
def State.toPlace (s : State) (l : Launch) (n : Nat) : List (Nat × Bool) :=
  let fresh := (List.range (min (s.shareCount l.lr - l.nextGang) (n + l.ahead.length))).map fun k => l.nextGang + k
  (sortOn id l.returned).map (fun i => (i, true)) ++
  ((fresh.filter fun i => !(l.ahead.contains i)).take n).map fun i => (i, false)

/-- The next gang of a deterministic launch for each cluster of its list: the lowest pre-empted one that is bound there, else the lowest
never placed (R378, R380). -/
def State.detNext (s : State) (l : Launch) : List (Nat × Bool) :=
  let n := (s.detClusters l.lr).length
  let back := sortOn id l.returned
  let first (p : Nat) : Option (Nat × Bool) :=
    match back.find? fun i => i % n == p with
    | some i => some (i, true)
    | none => (((List.range (l.ahead.length + 1)).map fun k => l.nextGang + (p + n - l.nextGang % n) % n + k * n).find? fun i =>
        !(l.ahead.contains i) && decide (i < s.shareCount l.lr)).map fun i => (i, false)
  sortOn Prod.fst ((List.range n).filterMap first)

/-- One launch's turn in the placement (R377, R379, R380): whether it placed anything. -/
def State.placeLaunch (s : State) (ident : Word) : Bool × State :=
  match s.launch? ident with
  | none => (false, s)
  | some l =>
    if l.lr.persist then
      let gs := s.toPlace l (s.shareCount l.lr)
      if gs.isEmpty || s.gangs.any (fun g => g.ident == ident && g.saving) then (false, s)
      else
        let s := s.readAffs ident (gs.map Prod.fst)
        let l := (s.launch? ident).getD l
        match s.placeShare l gs with
        | .ok s => (true, s)
        | .error (x, then_) => (false, s.reserve then_ l x.1 x.2)
    else if l.lr.determ then
      (s.detNext l).foldl (fun (y : Bool × State) x => match y.2.placeOne false ident x.1 x.2 with
        | some s => (true, s)
        | none => y) (false, s)
    else match s.toPlace l 1 with
      | [] => (false, s)
      | x :: _ =>
        let s := s.readAffs ident [x.1]
        match s.placeOne false ident x.1 x.2 with
        | some s => (true, s)
        | none => (false, s.reserve s ((s.launch? ident).getD l) x.1 x.2)

/-! ### Dependences (R374) -/

/-- An element of a row shares a line with bytes from `a` on: rows start at `b` and step by `str`, elements of `n` bytes. -/
def rowMeets (a an b str n ext : Nat) : Bool :=
  let lo := a / 64 * 64
  let hi := (a + an - 1) / 64 * 64 + 64
  let i := if b + n ≤ lo then (lo - (b + n)) / str + 1 else 0
  decide (i < ext) && decide (b + i * str < hi)

/-- Two regions share a line. -/
def Region.meets (x y : Region) : Bool :=
  (List.range x.ext1).any fun j => (List.range x.ext0).any fun i => (List.range y.ext1).any fun k =>
    rowMeets (x.base + i * x.str0 + j * x.str1) (2 ^ x.lesz) (y.base + k * y.str1) y.str0 (2 ^ y.lesz) y.ext0

/-- A region is written. -/
def Region.writes (x : Region) : Bool := 2 ≤ x.access

/-- Two line sets meet in a line that one of them writes; a launch without regions has every line, for read and write. -/
def linesMeet (a b : LaunchRec) : Bool :=
  if a.regions.isEmpty || b.regions.isEmpty then true
  else a.regions.any fun x => b.regions.any fun y => (x.writes || y.writes) && x.meets y

/-- An earlier launch blocks a later one. -/
def blocks (e l : Launch) : Bool :=
  earlier e.accept l.accept && e.reject == 0 && e.lr.asid == l.lr.asid && !e.lr.nodep && !l.lr.nodep && linesMeet e.lr l.lr

/-- Every launch that blocks it has completed. -/
def State.eligible (s : State) (l : Launch) : Bool := !(s.dealer.launches.any fun e => blocks e l)

/-! ### Acceptance (R366, R367, R371) -/

/-- Records of a queue's ring (R366). -/
def SubQueue.size (q : SubQueue) : Nat := 2 ^ (max 4 (min 16 q.log2size.toNat))

/-- SUBMISSION_TAIL_WRITE: a write of QTAIL, ignored with OVR set when it passes the ring or goes backwards (R366). -/
def execSubmissionTailWrite (queue : Nat) (value : BitVec 64) (s : State) : Out :=
  match s.dealer.queues[queue]? with
  | none => .next s
  | some q =>
    let t : Word := value.extractLsb' 0 32
    let n := (t - q.head).toNat
    let q := if q.size < n || n < (q.tail - q.head).toNat then { q with ovr := true } else { q with tail := t }
    .next { s with dealer := { s.dealer with queues := s.dealer.queues.set queue q } }

/-- How many gangs of a launch an empty cluster holds at once, each on WGS distinct cores: a core of `k` workgroups takes each gang once
(R376). -/
def State.clusterHolds (s : State) (lr : LaunchRec) (cl : Nat) : Nat :=
  let n := s.coreCount cl
  let k := ((List.range 4).filter fun p => 0 < lr.onPart p).foldl (fun m p => min m (8 / lr.onPart p)) (128 / lr.image)
  if n < lr.wgs then 0
  else
    let m := if lr.determ then k else n * k / lr.wgs
    if lr.hasCox then min m 1 else m

/-- A persistent share can be placed all at once on an otherwise empty package (R379): a private frame stands ready for each workgroup,
and the gangs that may use no more than some set of clusters are no more than these hold. The sets that affinity groups give hold one
another or lie apart, so that this suffices. -/
def State.shareFits (s : State) (l : Launch) : Bool :=
  let lr := l.lr
  let n := s.shareCount lr
  let holds (cs : List Nat) : Nat := (cs.map (s.clusterHolds lr)).sum
  if 1536 < n || (lr.privSize ≠ 0 && lr.privFrames < n * lr.wgs) then false
  else if lr.determ then
    let cs := s.detClusters lr
    (n = 0 || !cs.isEmpty) && cs.zipIdx.all fun x => decide ((n + cs.length - 1 - x.2) / cs.length ≤ s.clusterHolds lr x.1)
  else
    let all := s.clustersOf s.pkg
    let t := ({ s with dealer := { s.dealer with launches := [l] } } : State).readAffs lr.ident (if lr.affStrict then List.range n else [])
    let l := (t.launch? lr.ident).getD l
    let sets := (List.range n).map fun i => if lr.affStrict then (t.groupOf l i).getD all else all
    (all :: sets.eraseDups).all fun big =>
      decide ((sets.filter fun x => x.all fun c => big.contains c).length ≤ holds big)

/-- The rejection code of a record: the lowest that applies, or 0 (R371). -/
def State.rejectCode (s : State) (b : List Byte) (qasid : Nat) : Nat :=
  let lr := launchRecOf b
  let rc := fldAt b 7 1
  let n := lr.nCrews
  lowestCode [
    (launchReserved b, 1),
    (lr.asid ≠ qasid || !(nbit (tget 0 s.xlat.asctx (4 * lr.asid)).toNat 0), 2),
    (n = 0 || 32 < n || 8 < rc || lr.gangCount = 0 || lr.regions.any Region.bad, 3),
    (lr.rfGran * 16384 < 4096 + n * (8192 + lr.vregs * 384) || 128 < lr.image, 4),
    (2 ^ 32 < lr.gangCount * lr.wgs * n * lr.perCrew, 5),
    (lr.privSize % 4 ≠ 0 || 65536 < lr.privSize || lr.privBase.toNat % 4096 ≠ 0 || (lr.privSize ≠ 0 && lr.privFrames = 0), 6),
    (!(lr.inSet s.pkg) || (List.range lr.setSize).any (fun k => !((tget 0 s.fab.route ((lr.pkgBase + k) % 256)).getLsbD 16)), 7),
    (lr.persist && n ≠ 0 && lr.image ≤ 128 && 0 < lr.image && !(s.shareFits (Launch.start lr qasid 0 0)), 8),
    ((lr.single && lr.planedr) || (lr.determ && lr.affMode ≠ 0), 9),
    (lr.determ && (s.detClusters lr).isEmpty, 10)]

/-- The queue served next: the first from the rotation on that is enabled and holds an unread record (R367). -/
def State.nextQueue (s : State) : Option Nat :=
  ((List.range 128).map fun k => (s.dealer.rotation + k) % 128).find? fun n => match s.dealer.queues[n]? with
    | some q => q.en && q.head != q.tail
    | none => false

/-- What a share has passed is told to the dealers of the other packages of the set (R373). -/
def State.tellPeers (s : State) (lr : LaunchRec) (passed : Nat) (retired : Bool) : State :=
  let others := (List.range lr.setSize).map (fun k => (lr.pkgBase + k) % 256) |>.filter fun p => p != s.pkg
  if others.isEmpty then s
  else
    let (key, s) := s.openStream 4 0 lr.ident true
    others.foldl (fun (s : State) p => s.sendPacket key p 48 (.rounds (lr.rankOf s.pkg) passed retired) .plain) s

/-- The `n` bytes of a record that the dealer reads at a physical address: those of a line that fails its check are recorded and read as
ones (R413, R414, log entry 111). -/
def State.readRecord (s : State) (pa n : Nat) : List Byte × State :=
  let bs := (s.rdMem pa n).zipIdx.map fun x => if s.lineBad (pa + x.2) then 0xFF else x.1
  let lines := (List.range (n / 64)).map fun k => pa + 64 * k
  (bs, lines.foldl (fun (s : State) p => match s.badLine [.mem p] with
    | some x => s.integrityRecord 0 dealerSource x
    | none => s.l2Take p Rank.plain) s)

/-- LAUNCH_ACCEPT: one record is read, checked and numbered (R367, R371). -/
def execLaunchAccept (s : State) : Out :=
  if 1024 ≤ s.dealer.launches.length then .refused .noSuchEvent
  else match s.nextQueue with
  | none => .refused .noSuchEvent
  | some n =>
    match s.dealer.queues[n]? with
    | none => .refused .noSuchEvent
    | some q =>
      let (b, s) := s.readRecord (q.base * 2 ^ 12 + 384 * (q.head.toNat % q.size)) 384
      let code := s.rejectCode b q.asid.toNat
      let lr := launchRecOf b
      let known := s.dealer.early.filter fun x => x.1 == lr.ident
      let l := { Launch.start lr q.asid.toNat s.dealer.nextAccept code with peers := if code = 0 then known.map Prod.snd else [] }
      let s : State := { s with dealer := { s.dealer with
        queues := s.dealer.queues.set n { q with head := q.head + 1 }
        early := if code = 0 then s.dealer.early.filter fun x => x.1 != lr.ident else s.dealer.early
        rotation := (n + 1) % 128, nextAccept := s.dealer.nextAccept + 1, launches := s.dealer.launches ++ [l] } }
      if code = 0 && 1 < l.lr.setSize then
        .next ((s.tellPeers l.lr 0 false).modLaunch l.lr.ident fun x => { x with told := some (0, false) })
      else .next s

/-! ### Placement and pre-emption of lower priorities (R377, R378) -/

/-- The launches whose gangs the dealer places, by priority descending, then acceptance (R377, R381). -/
def State.placeable (s : State) : List Launch :=
  sortOn (fun l => 7 - l.lr.prio) (s.dealer.launches.filter fun l =>
    l.reject == 0 && !l.cancelled && !l.lr.hold && (0 < s.unplaced l || !l.returned.isEmpty) && s.eligible l)

/-- Each eligible launch in turn places its next gang, or reserves. -/
def State.placement (s : State) : Bool × State :=
  s.placeable.foldl (fun (x : Bool × State) l =>
    let (b, s') := x.2.placeLaunch l.lr.ident
    (x.1 || b, s')) (false, s)

/-- GANG_PLACEMENT: with nothing placed or reserved, and no affinity byte read, there is no such event. -/
def execGangPlacement (s : State) : Out :=
  let (b, s') := s.placement
  let read (s : State) : List Nat := s.dealer.launches.map fun l => l.aff.length
  if b || s'.dealer.reservations.length ≠ s.dealer.reservations.length || read s' ≠ read s then .next s' else .refused .noSuchEvent

/-- A crew of the gang is on a stopped partition (R422). -/
def State.gangHalted (s : State) (ident : Word) (gang : Nat) : Bool :=
  ((s.gangCrews ident gang).any fun c => c.place.isSome && s.isHalted c.ref) ||
  (s.coxLive ident gang && s.isHalted (.cox ident gang))

/-- The gangs that are pre-empted with a gang: those of a persistent share go together (R379). -/
def State.leaving (s : State) (ident : Word) (gang : Nat) : Gone :=
  if (s.lrec ident).persist then (s.gangs.filter fun g => g.ident == ident && !g.saved).map fun g => (ident, g.gang) else [(ident, gang)]

/-- A crew of one of them is on a stopped partition, so that none of them is pre-empted (R422). -/
def State.shareHalted (s : State) (ident : Word) (gang : Nat) : Bool := (s.leaving ident gang).any fun x => s.gangHalted x.1 x.2

/-- A gang is to be saved (R391); a persistent share as a whole (R379). -/
def State.preempt (s : State) (ident : Word) (gang : Nat) : State :=
  let all := (s.lrec ident).persist
  if ((s.launch? ident).map Launch.cancelled).getD true then s
  else { s with gangs := s.gangs.map fun g =>
      if g.ident == ident && (all || g.gang == gang) && !g.saved then { g with saving := true } else g }

/-- The gangs to pre-empt for a reservation, as few as the reserving gang needs. -/
def State.victims (s : State) (lr : LaunchRec) (cl : Nat) : List Gang → Gone → List Gang
  | [], _ => []
  | g :: r, gone =>
    if (s.coresFor gone lr cl).isSome then []
    else if gone.contains (g.ident, g.gang) then s.victims lr cl r gone
    else g :: s.victims lr cl r (s.leaving g.ident g.gang ++ gone)

/-- The package as the gangs of a persistent share before the reserving one would leave it, beside which that one must fit (R379). -/
def State.beside (s : State) (r : Reservation) : State :=
  match s.launch? r.ident with
  | none => s
  | some l =>
    if l.lr.persist then
      ((s.toPlace l (s.shareCount l.lr)).takeWhile fun x => s.gangAt l.lr x.1 != r.gang).foldl (fun t x =>
        (t.placeOne false r.ident x.1 x.2).getD t) s
    else s

/-- The gangs that a reservation would pre-empt now. -/
def State.toPreempt (s : State) (r : Reservation) : List Gang :=
  let lr := s.lrec r.ident
  let low := s.lowerGangs lr.prio r.cluster
  let going := (low.filter Gang.saving).map fun g => (g.ident, g.gang)
  (s.beside r).victims lr r.cluster (low.filter fun g => !g.saving) going

/-- RESERVATION_TIMEOUT: 2^20 cycles of the reserved cluster's die after it began, gangs of lower priority give way (R378); while a
crew of one of them is stopped it waits (R422). -/
def execReservationTimeout (ident : Word) (s : State) : Out :=
  match s.dealer.reservations.find? fun r => r.ident == ident with
  | none => .refused .noSuchEvent
  | some r =>
    let gs := s.toPreempt r
    if (s.dieCtr (dieOfCluster r.cluster)).toNat < r.since + 2 ^ 20 || gs.isEmpty || gs.any (fun g => s.shareHalted g.ident g.gang) then
      .refused .noSuchEvent
    else .next (gs.foldl (fun s g => s.preempt g.ident g.gang) s)

/-! ### Drawn work (R381, R382) -/

/-- The launch that a DRAW names: by its identifier, in the drawing launch's address space. -/
def State.drawn (s : State) (d : DrawReq) : Option Launch :=
  s.dealer.launches.find? fun l =>
    bits l.lr.ident.toNat 12 20 == d.launch && l.lr.asid == d.asid && l.reject == 0

/-- The lowest ordinal never placed or withdrawn. -/
def Launch.lowest (l : Launch) : Nat := l.nextGang

/-- DRAW_ANSWER: the oldest request is answered in its mailbox (R381, R382). A mailbox field that describes a launch that does not
exist has no stated value (log entry 14). -/
def execDrawAnswer (s : State) : Out :=
  match s.dealer.draws with
  | [] => .refused .noSuchEvent
  | d :: rest =>
    let s : State := { s with dealer := { s.dealer with draws := rest } }
    let none_ := 0xFFFFFFFF
    let answer (s : State) (gang ident shape left flag : Nat) : State :=
      (s.spWrite d.unit d.wg d.mbox (leBytes 4 gang ++ leBytes 4 ident ++ leBytes 4 shape ++ leBytes 4 (min left (2 ^ 32 - 1)) ++
        leBytes 8 0 ++ leBytes 4 flag ++ leBytes 4 0)).modWg d.unit.ident d.unit.gang d.wg fun w => { w with draws := w.draws - 1 }
    match s.drawn d with
    | none =>
      let (n, s) := s.fresh
      .next (answer s none_ 0 (Config.freeWord n % 2 ^ 32) 0 2)
    | some l =>
      let id := l.lr.ident.toNat
      let shape := l.lr.shape.toNat
      if !(s.eligible l) then .next (answer s none_ id shape (s.unplaced l) 3)
      else if s.unplaced l = 0 then .next (answer s none_ id shape 0 2)
      else
        let i := l.lowest
        let s' := s.modLaunch l.lr.ident fun x => x.take i
        .next (answer s' (s.gangAt l.lr i) id shape (s.unplaced l - 1) 1)

end Sys2Proof.Machine
end

