-- ==== Sys2Proof/Machine/Rounds.lean ====
section
/-! DEFINITION. Ordered updates in their slices and rounds (R137 to R144), the round word (R141), and the completion of a launch (R146, R147, R372). -/

namespace Sys2Proof.Machine

open Sys2Proof

/-! ### Acceptance of an ordered update (R139) -/

/-- The DIR byte of an overflow entry. -/
def dirCode (dir : Nat) : Nat := if dir = 2 then 2 else if dir = 1 then 1 else 0

/-- An overflow entry. -/
def OUpdate.entry (u : OUpdate) : List Byte :=
  leBytes 8 u.pa ++ leBytes 4 u.issuer ++ leBytes 6 u.icount ++ leBytes 2 (u.round % 2 ^ 16) ++ leBytes 1 u.aop ++ leBytes 1 u.szf ++
  leBytes 1 (dirCode u.dir) ++ leBytes 1 u.kclass ++ leBytes 8 (u.operand.toNat % 2 ^ (8 * szfSize u.szf)) ++ leBytes 8 u.elempos ++
  List.replicate 24 0

/-- The physical address of an overflow entry of a launch. -/
def LaunchRec.ovfEntry (lr : LaunchRec) (e : Nat) : Nat := lr.ovfBase + 64 * e

/-- A new update, or one sent before, takes its place in its slice: a holding place, or the lowest free entry of its launch's
overflow area, which is written. With neither free it waits. -/
def State.acceptUpdate (s : State) (u : OUpdate) : Option State :=
  let others := s.flight.updates.filter fun x => x.id != u.id
  let put (s : State) (p : UpdatePlace) : State :=
    { s with flight := { s.flight with updates := others ++ [{ u with place := p, remote := false, copy := none }] } }
  let held := (others.filter fun x => x.slice == u.slice && x.place == .held && !x.remote).length
  if held < 16 then some (put s .held)
  else match s.launch? u.unit.ident with
    | none => none
    | some l =>
      let e := nthFree l.ovfUsed 0
      if l.lr.ovfCnt ≤ e then none
      else
        let s := (put s (.spilled e)).modLaunch l.lr.ident fun x => { x with ovfUsed := insertOn id e x.ovfUsed }
        some (s.l2Write (l.lr.ovfEntry e) u.entry)

/-- OATOM_UPDATE_ACCEPT: an update of this package reaches its slice here. -/
def execOatomUpdateAccept (id : Nat) (s : State) : Out :=
  match s.flight.updates.find? fun u => u.id == id && u.place == .sent && !u.remote with
  | none => .refused .noSuchEvent
  | some u => match s.acceptUpdate u with
    | some s => .next s
    | none => .refused .noSuchEvent

/-! ### Closing a round (R138, R373) -/

/-- The order of issuer keys (R137). -/
def OUpdate.key (u : OUpdate) : Nat := ((u.kclass * 2 ^ 32 + u.issuer) * 2 ^ 48 + u.icount) * 2 ^ 64 + u.elempos

/-- The least of a list. -/
def leastOf : List Nat → Option Nat
  | [] => none
  | x :: r => some (r.foldl min x)

/-- The rounds in which a matrix queue's operations of a launch may still send updates. -/
def Matrix.updateRounds (m : Matrix) (ident : Word) : List Nat :=
  m.ops.filterMap fun o => match o.kind with
    | .vocab j => if o.unit.ident == ident && o.mayUpdate then some j.round else none
    | _ => none

/-- The rounds that parties of the share, or updates of theirs not yet accepted, are still in. -/
def State.openRounds (s : State) (l : Launch) : List Nat :=
  let ident := l.lr.ident
  let mine (r : UnitRef) : Bool := r.ident == ident
  (s.crews.filter fun c => c.ident == ident).map (fun c => c.scal.round.toNat) ++
  (s.coxes.filter fun c => c.ident == ident && !c.ended).map (fun c => c.scal.round.toNat) ++
  (s.flight.updates.filter fun u => mine u.unit && u.place == .sent).map OUpdate.round ++
  (s.fab.out.filterMap fun p => match p.pkt.payload with
    | .ordered _ _ _ _ _ _ round => if p.pkt.key.ident == ident then some round else none
    | _ => none) ++
  (s.eng.copies.filter fun q => mine q.unit && l.lr.determ && q.mayUpdate).map CopyReq.round ++
  (if l.lr.determ then s.eng.mats.flatMap (fun m => m.updateRounds ident) ++
    s.eng.saved.flatMap (fun m => m.m.updateRounds ident) else []) ++
  (if 0 < s.unplaced l then [0] else [])

/-- How many rounds the share of this package has passed; none when every party of it has retired. -/
def State.roundsPassed (s : State) (l : Launch) : Option Nat := leastOf (s.openRounds l)

/-- Rounds of updates that wait in the slices of this package. -/
def State.pendingRounds (s : State) (ident : Word) : List Nat :=
  (s.flight.updates.filter fun u => u.unit.ident == ident && u.place != .sent).map OUpdate.round

/-- The rounds that parties of the share here have used: passed by ORND, or sent updates of. -/
def State.reached (s : State) (l : Launch) : Nat := (s.pendingRounds l.lr.ident).foldl (fun n k => max n (k + 1)) l.top

/-- How many rounds of a launch may have closed: those that every share has passed, or, once every party has retired, every round
that one of them has used; none before every package of the set has reported (R138, R373, log entry 54). -/
def State.closeLimit (s : State) (l : Launch) : Option Nat :=
  if l.peers.length + 1 < l.lr.setSize then none
  else
    let own := (s.roundsPassed l).toList
    let far := (l.peers.filter fun p => !p.2.2).map fun p => p.2.1
    match leastOf (own ++ far) with
    | some n => some n
    | none => some ((l.peers.map fun p => p.2.1).foldl max (max l.closed (s.reached l)))

/-- What this package tells the others of the set. -/
def State.report (s : State) (l : Launch) : Nat × Bool :=
  match s.roundsPassed l with
  | some n => (n, false)
  | none => (s.reached l, true)

/-- The launch's updates of a round that were accepted on other packages show in what this package knows of their memory once the round
has closed (R137, R140, log entry 57). -/
def State.farRound (s : State) (ident : Word) (k : Nat) : State :=
  let here (u : OUpdate) : Bool := u.unit.ident == ident && u.remote && u.place != .sent && u.round == k
  let todo := sortOn OUpdate.key (s.flight.updates.filter here)
  todo.foldl (fun (s : State) u => (s.atomAt (.mem u.pa) ⟨u.aop, u.szf, u.operand, 0, u.dir⟩).2)
    { s with flight := { s.flight with updates := s.flight.updates.filter fun u => !(here u) } }

/-- ROUND_CLOSE: a share's new count is told to the other packages of the set; or the next round closes. -/
def execRoundClose (ident : Word) (s : State) : Out :=
  match s.launch? ident with
  | none => .refused .noSuchEvent
  | some l =>
    if l.cancelled then .refused .noSuchEvent
    else if 1 < l.lr.setSize && l.told != some (s.report l) then
      let (n, b) := s.report l
      .next ((s.tellPeers l.lr n b).modLaunch ident fun x => { x with told := some (n, b) })
    else match s.closeLimit l with
      | none => .refused .noSuchEvent
      | some n => 
        if n ≤ l.closed then .refused .noSuchEvent
        else .next ((s.modLaunch ident fun x => { x with closed := x.closed + 1 }).farRound ident l.closed)

/-! ### Applying a round (R140) -/

/-- Rounds applied on a slice. -/
def Launch.appliedOn (l : Launch) (slice : Nat) : Nat := ((l.applied.find? fun x => x.1 == slice).map Prod.snd).getD 0

/-- An overflow entry as it now reads; none when the slice discards it (R139). -/
def State.entryOf (s : State) (lr : LaunchRec) (u : OUpdate) (e : Nat) : Option OUpdate :=
  let b := s.rdMem (lr.ovfEntry e) 64
  let pa := fldAt b 0 8
  let aop := fldAt b 20 1
  let szf := fldAt b 21 1
  let dir := fldAt b 22 1
  let kclass := fldAt b 23 1
  if 2 ^ 52 ≤ pa || s.homeSlice pa ≠ u.slice || paPkg pa ≠ s.pkg || !(s.backed pa) || 7 < aop || 15 < szf || !(aopOk aop szf true) ||
      4 ≤ dir || 2 ≤ kclass || fldAt b 40 24 ≠ 0 then none
  else some { u with
    pa := pa, aop := aop, szf := szf, operand := BitVec.ofNat 64 (fldAt b 24 8), kclass := kclass, issuer := fldAt b 8 4
    icount := fldAt b 12 6, elempos := fldAt b 32 8, dir := if nbit dir 1 then 2 else dir % 2 }

/-- One update applied at its location (R140); a bad line is reported and the launch ends (R414). -/
def State.applyUpdate (s : State) (u : OUpdate) : State :=
  let l : Loc := .mem u.pa
  match s.badLine (locRun l (szfSize u.szf)) with
  | some x => s.integrityCheck u.unit x
  | none => (s.atomAt l ⟨u.aop, u.szf, u.operand, 0, u.dir⟩).2

/-- The updates of a round on a slice, in issuer-key order, and how many entries are discarded. -/
def State.roundOf (s : State) (lr : LaunchRec) (mine : List OUpdate) : List OUpdate × Nat :=
  let read (u : OUpdate) : Option OUpdate := match u.place with
    | .spilled e => s.entryOf lr u e
    | _ => some u
  let good := mine.filterMap read
  (sortOn OUpdate.key good, mine.length - good.length)

/-- ROUND_APPLY: the next closed round on a slice; an overflow entry whose line fails its check ends the launch (R414). -/
def execRoundApply (ident : Word) (slice : Nat) (s : State) : Out :=
  match s.launch? ident with
  | none => .refused .noSuchEvent
  | some l =>
    let k := l.appliedOn slice
    if l.cancelled || l.closed ≤ k || !((s.clustersOf s.pkg).contains slice) then .refused .noSuchEvent
    else
      let here (u : OUpdate) : Bool := u.unit.ident == ident && u.slice == slice && !u.remote && u.place != .sent && u.round == k
      let mine := s.flight.updates.filter here
      let entryBad (u : OUpdate) : Option (Option Nat × Nat) := match u.place with
        | .spilled e => s.badLine [.mem (l.lr.ovfEntry e)]
        | _ => none
      let (todo, bad) := s.roundOf l.lr (mine.filter fun u => (entryBad u).isNone)
      let unread := mine.filterMap fun u => (entryBad u).map fun x => (u.unit, x)
      let freed := mine.filterMap fun u => match u.place with
        | .spilled e => some e
        | _ => none
      let s : State := { s with flight := { s.flight with updates := s.flight.updates.filter fun u => !(here u) } }
      let s := s.modLaunch ident fun x => { x with
        applied := (slice, k + 1) :: x.applied.filter fun y => y.1 != slice
        ovfUsed := x.ovfUsed.filter fun e => !(freed.contains e), ovfDisc := min (x.ovfDisc + bad) (2 ^ 32 - 1) }
      .next (unread.foldl (fun (s : State) x => s.integrityCheck x.1 x.2) (todo.foldl State.applyUpdate s))

/-! ### The dealer's writes (R141, R372) -/

/-- A write of the dealer's is still on its way across the fabric. -/
def State.dealerOut (s : State) (ident : Word) : Bool :=
  s.fab.out.any fun p => p.pkt.key.unitKind == 4 && p.pkt.key.ident == ident && match p.pkt.payload with
    | .write .. => true
    | _ => false

/-- Bytes written by the dealer: this package's at once, another's as packets of a stream of its own. -/
def State.dealerWrite (s : State) (ident : Word) (bytes : List (Nat × Byte)) : State :=
  if bytes.all fun b => paPkg b.1 == s.pkg then bytes.foldl (fun (s : State) b => s.l2Write b.1 [b.2]) s
  else
    let (key, s) := s.openStream 4 0 ident true
    (splitLines bytes).foldl (fun (s : State) g => match g.head? with
      | none => s
      | some b =>
        if paPkg b.1 = s.pkg then g.foldl (fun (s : State) b => s.l2Write b.1 [b.2]) s
        else s.sendPacket key (paPkg b.1) (s.homeSlice b.1) (.write (paLocal b.1) (g.map Prod.snd)) .plain) s

/-- The fault record of a dealer's write that failed. -/
def State.dealerFault (s : State) (ident : Word) (asid va cause : Nat) (nonReplay : Bool) : State :=
  s.faultPost { kind := 4, cause := cause, access := 8, more := false, priv := false, nonReplay := nonReplay, asid := asid, addr := va
                lanes := 0, source := dealerSource, pc := 0, ident := ident, gang := 0, die := 0 }

/-- A write of the dealer's: performed, or the pages on which it parks (none for an address fault). -/
def State.dealerPut (s : State) (ident : Word) (asid va al : Nat) (bs : List Byte) : Option (List Nat) × State :=
  match s.dealerAt ident asid va bs.length al true with
  | (.ok pas, s) => (none, s.dealerWrite ident (pas.zip bs))
  | (.page bad cause, s) => (some [bad / 2 ^ 16], s.dealerFault ident asid bad cause false)
  | (.addr kind, s) => (some [], s.dealerFault ident asid (va % 2 ^ 64) kind true)

/-- Rounds that every slice of the package has applied. -/
def State.appliedAll (s : State) (l : Launch) : Nat := (leastOf ((s.clustersOf s.pkg).map l.appliedOn)).getD 0

/-- ROUND_WORD_WRITE: also of a cancelled launch, for a round that every slice had applied (R144). -/
def execRoundWordWrite (ident : Word) (s : State) : Out :=
  match s.launch? ident with
  | none => .refused .noSuchEvent
  | some l =>
    if l.roundParked.isSome || s.appliedAll l ≤ l.roundWritten || s.dealerOut ident then .refused .noSuchEvent
    else
      let n := l.roundWritten + 1
      match s.dealerPut ident l.lr.asid l.lr.roundWord.toNat 8 (leBytes 4 n ++ leBytes 4 0) with
      | (none, s) => .next (s.modLaunch ident fun x => { x with roundWritten := n })
      | (some pages, s) => .next (s.modLaunch ident fun x => { x with roundParked := some pages })

/-! ### Completion (R146, R147, R372) -/

/-- Nothing of a launch is left to run, to complete or to apply. -/
def State.launchQuiet (s : State) (l : Launch) : Bool :=
  let ident := l.lr.ident
  let mine (r : UnitRef) : Bool := r.ident == ident
  s.unplaced l = 0 && l.returned.isEmpty && !(s.gangs.any fun g => g.ident == ident) && !(s.crews.any fun c => c.ident == ident) &&
  !(s.coxes.any fun c => c.ident == ident) && !(s.eng.copies.any fun q => mine q.unit) &&
  !(s.eng.mats.any fun m => m.ops.any fun o => mine o.unit) && !(s.flight.stores.any fun o => mine o.unit) &&
  !(s.flight.atomics.any fun o => mine o.unit) && !(s.flight.updates.any fun u => mine u.unit) && !(s.dealerOut ident) &&
  !(s.fab.out.any fun p => p.origin == .priv && p.pkt.key.ident == ident)

/-- Every round that closes has been applied and counted in the round word, and every package of the set, this
one too, has reported its share retired. -/
def State.roundsDone (s : State) (l : Launch) : Bool :=
  (match s.closeLimit l with
    | some n => decide (n ≤ l.closed)
    | none => false) &&
  l.peers.all (fun p => p.2.2) && (l.lr.setSize ≤ 1 || l.told == some (s.report l)) && decide (l.closed ≤ s.appliedAll l) &&
  decide (s.appliedAll l ≤ l.roundWritten) && l.roundParked.isNone

/-- The launch may complete. -/
def State.completes (s : State) (l : Launch) : Bool :=
  if l.reject ≠ 0 then true
  else s.launchQuiet l && (if l.cancelled then decide (s.appliedAll l ≤ l.roundWritten) || l.roundParked.isSome
    else s.eligible l && s.roundsDone l)

/-- The completion record. -/
def Launch.completion (l : Launch) : List Byte :=
  let status := if l.reject ≠ 0 then 3 else if l.cancelled then 2 else 1
  leBytes 4 l.lr.ident.toNat ++ leBytes 1 status ++ leBytes 1 l.reject ++ leBytes 2 0 ++ leBytes 4 l.ovfDisc ++
  leBytes 4 l.accept.toNat ++ List.replicate 16 0

/-- A launch of the window changed, by its acceptance number. -/
def State.modAccepted (s : State) (n : Word) (f : Launch → Launch) : State :=
  { s with dealer := { s.dealer with launches := s.dealer.launches.map fun l => if l.accept == n then f l else l } }

/-- The launch leaves the window. -/
def State.dropLaunch (s : State) (l : Launch) : State :=
  { s with dealer := { s.dealer with
    launches := s.dealer.launches.filter fun x => x.accept != l.accept
    reservations := s.dealer.reservations.filter fun r => r.ident != l.lr.ident || l.reject != 0 } }

/-- The launches of an identifier that may complete, the earliest first. -/
def State.toComplete (s : State) (ident : Word) : Option Launch :=
  s.dealer.launches.find? fun l => l.lr.ident == ident && match l.phase with
    | .running => s.completes l
    | .sentRecord => !(s.dealerOut ident)
    | .parkedRecord _ => false

/-- LAUNCH_COMPLETE: the completion record is written; the launch has completed once it has been. -/
def execLaunchComplete (ident : Word) (s : State) : Out :=
  match s.toComplete ident with
  | none => .refused .noSuchEvent
  | some l =>
    if l.phase = .sentRecord then .next (s.dropLaunch l)
    else
      let asid := if l.reject = 0 then l.lr.asid else l.queueAsid
      let va := l.lr.compl.toNat + 32 * l.lr.rankOf s.pkg
      match s.dealerPut ident asid va 1 l.completion with
      | (none, s) =>
        .next (if s.dealerOut ident then s.modAccepted l.accept fun x => { x with phase := .sentRecord } else s.dropLaunch l)
      | (some pages, s) => .next (s.modAccepted l.accept fun x => { x with phase := .parkedRecord pages })

end Sys2Proof.Machine
end

