-- ==== Sys2Proof/Machine/Posted.lean ====
section
/-! DEFINITION. The transfers of posted operations that have fired (R328, R331, R400, R406). -/

namespace Sys2Proof.Machine

open Sys2Proof

/-- SOURCE of a posted-operation slot (R63). -/
def postSource (slot : Nat) : Nat := 3 * 2 ^ 25 + slot

/-- The record of a posted operation's fault (R60, R331). The network engine lies on an I/O die (R51). -/
def State.postFault (s : State) (p : Post) (cause access va : Nat) (nonReplay : Bool) : State :=
  s.faultPost { kind := 4, cause := cause, access := access, more := false, priv := false, nonReplay := nonReplay, asid := p.asid
                addr := va, lanes := 0, source := postSource p.slot, pc := 0, ident := p.ident, gang := 0, die := 4 }

/-- The open stream of a slot's running transfer, which belongs to the launch that posted it (R406, R408). -/
def State.postOpen (s : State) (p : Post) : Option Stream :=
  s.fab.streams.find? fun x => x.key.unitKind == 3 && x.key.index == p.slot && x.key.ident == p.ident && !x.closing

/-- The stream of the running transfer, opened when it first sends. -/
def State.postStream (s : State) (p : Post) : StreamKey × State :=
  match s.postOpen p with
  | some x => (x.key, s)
  | none => s.openStream 3 p.slot p.ident false

/-- The transfer sends nothing more: its stream is closed once every packet has been acknowledged. -/
def State.endPostStream (s : State) (p : Post) : State :=
  match s.postOpen p with
  | some x => s.endStream x.key
  | none => s

/-- The slot fails (R331). -/
def State.failPost (s : State) (p : Post) (kind access va : Nat) : State :=
  ((s.postFault p kind access va true).setPost { p with state := .failed }).endPostStream p

/-- The slot pauses on a page (R67). -/
def State.pausePost (s : State) (p : Post) (cause access va : Nat) : State :=
  (s.postFault p cause access va false).setPost { p with state := .paused [va / 2 ^ 16] }

/-- Where a byte of a transfer lies: its physical address and memory type, or the cause of its fault
(R51); the walks of the network engine have a walk cache of their own, number 4 (log entry 101). -/
def State.postByte (s : State) (p : Post) (va : Nat) (write : Bool) : Except Nat (Nat × Nat) × State :=
  match s.translate ⟨p.ident, postSource p.slot⟩ [240] 4 p.asid va with
  | (.fault cause, s) => (.error cause, s)
  | (.ok frame mt _ w _ _, s) => if write && !w then (.error 2, s) else (.ok (onPage frame va, mt), s)

/-- What a list of a transfer's bytes comes to. -/
inductive PostAt where
  | ok (pas : List Nat)
  | page (va cause : Nat)
  | addr (va kind : Nat)
  deriving DecidableEq, Repr

/-- The bytes of a transfer translated, each with the memory type of its page, or the first that does not translate. -/
def State.postPages (s : State) (p : Post) (write : Bool) (vas : List Nat) : Except (Nat × Nat) (List (Nat × Nat × Nat)) × State :=
  vas.foldl (fun (x : Except (Nat × Nat) (List (Nat × Nat × Nat)) × State) va =>
    match x.1 with
    | .error e => (.error e, x.2)
    | .ok pas => match x.2.postByte p va write with
      | (.error cause, s) => (.error (va, cause), s)
      | (.ok y, s) => (.ok (pas ++ [(va, y)]), s)) (.ok [], s)

/-- The bytes of a transfer translated and checked (R18, R36, R331); `own` when they must lie on this package (R328). -/
def State.postBytes (s : State) (p : Post) (write own : Bool) (vas : List Nat) : PostAt × State :=
  match s.postPages p write vas with
  | (.error (va, cause), s) => (.page va cause, s)
  | (.ok ps, s) =>
    let lost (x : Nat × Nat × Nat) : Bool :=
      !(s.backed x.2.1) || (x.2.2 == 2) != (targetOf (paLocal x.2.1) == .trigger) || (own && paPkg x.2.1 != s.pkg)
    match ps.find? lost, ps.find? fun x => x.2.2 == 2 with
    | some x, _ => (.addr x.1 7, s)
    | none, some x => (.addr x.1 8, s)
    | none, none => (.ok (ps.map fun x => x.2.1), s)

/-- Bytes written by a transfer: this package's at once, another's as packets. -/
def State.postWrite (s : State) (p : Post) (bytes : List (Nat × Byte)) : State :=
  (splitLines bytes).foldl (fun (s : State) g => match g.head? with
    | none => s
    | some b =>
      if paPkg b.1 = s.pkg then s.l2Write b.1 (g.map Prod.snd)
      else
        let (key, s) := s.postStream p
        s.sendPacket key (paPkg b.1) (s.homeSlice b.1) (.write (paLocal b.1) (g.map Prod.snd)) (.post p.slot)) s

/-- One element of a reducing put applied as a no-return atomic at its home slice (R110, R328). -/
def State.postReduce (s : State) (p : Post) (pa : Nat) (bs : List Byte) : State :=
  let (aop, szf) := redopCode p.redop
  let a : RemoteAtomic := ⟨aop, szf, BitVec.ofNat 64 (leNat bs), 0, if szfFloat szf then 2 else 0⟩
  if paPkg pa = s.pkg then (s.atomAt (.mem pa) a).2
  else
    let (key, s) := s.postStream p
    s.sendPacket key (paPkg pa) (s.homeSlice pa) (.atomic (paLocal pa) a) (.post p.slot)

/-- Bytes that a transfer delivers in one piece. -/
def Post.piece (p : Post) : Nat := min 256 (p.len.toNat - p.done)

/-- The first line that a piece reads and that fails its check (R413, R414): one in the buffer for the slot, of its source, or of an
element that it reduces into. -/
def State.postCheck (s : State) (p : Post) (from_ to_ : List Nat) : Option (Option Nat × Nat) :=
  if p.upset then some (none, 4)
  else s.badLine ((from_ ++ if p.kind = 2 then to_.filter fun a => paPkg a == s.pkg else []).map .mem)

/-- A piece of a put, a get or a reducing put is read and delivered. -/
def State.postMove (s : State) (p : Post) : State :=
  let n := p.piece
  let src := p.src.toNat + p.done
  let dst := p.dst.toNat + p.done
  if 2 ^ 56 < p.src.toNat + p.len.toNat then s.failPost p 5 7 p.src.toNat
  else if 2 ^ 56 < p.dst.toNat + p.len.toNat then s.failPost p 5 8 p.dst.toNat
  else
    let run (a : Nat) : List Nat := (List.range n).map fun k => a + k
    match s.postBytes p false (p.kind != 1) (run src) with
    | (.page va cause, s) => s.pausePost p cause 7 va
    | (.addr va kind, s) => s.failPost p kind 7 va
    | (.ok from_, s) =>
      match s.postBytes p true (p.kind == 1) (run dst) with
      | (.page va cause, s) => s.pausePost p cause 8 va
      | (.addr va kind, s) => s.failPost p kind 8 va
      | (.ok to_, s) =>
        match s.postCheck p from_ to_ with
        | some x =>
          let s := s.integrityRecord p.ident (postSource p.slot) x
          let (k, s) := s.fresh
          s.failPost p (1 + Config.freeWord k % 8) 7 src
        | none =>
          let s := (lineHeads (from_.map fun a => (a, a))).foldl (fun (s : State) x => s.l2Take x.2 Rank.plain) s
          let s := s.askLines (from_.map Loc.mem)
          let data := s.rdLocs (from_.map Loc.mem)
          let s := if p.kind = 2 then
              let z := redopSize p.redop
              (List.range (n / z)).foldl (fun (s : State) k =>
                s.postReduce p ((to_[k * z]?).getD 0) ((data.drop (k * z)).take z)) s
            else s.postWrite p (to_.zip data)
          s.setPost { p with done := p.done + n }

/-- KIND 3 raises the counter that DST names (R36, R331). -/
def State.postAdd (s : State) (p : Post) : State :=
  let va := p.dst.toNat
  match s.postByte p va true with
  | (.error cause, s) => s.pausePost p cause 8 va
  | (.ok (pa, mt), s) =>
    if mt = 2 && (targetOf (paLocal pa) != .trigger || !(s.inDomain (paPkg pa))) then s.failPost p 7 8 va
    else if mt ≠ 2 then
      s.failPost p (if targetOf (paLocal pa) == .trigger || !(s.backed pa) then 7 else 8) 8 va
    else if 4096 ≤ pa % 2 ^ 16 then s.failPost p 8 8 va
    else
      let s := s.setPost { p with done := 1 }
      if paPkg pa = s.pkg then s.engineRaise ⟨0, 0, 0, 0, 0⟩ (paPkg pa, ctrIndex pa, p.len) (.post p.slot) (some p.asid)
      else
        let (key, s) := s.postStream p
        s.engineRaise key (paPkg pa, ctrIndex pa, p.len) (.post p.slot)

/-- The action of a firing has been taken in full. -/
def Post.acted (p : Post) : Bool := if p.kind ≤ 2 then p.len.toNat ≤ p.done else p.done ≠ 0

/-- A completion raise of a transfer. -/
def State.postRaise (s : State) (p : Post) (c : Option (Nat × Nat × Word)) : State :=
  match c with
  | none => s
  | some c =>
    if c.1 = s.pkg then s.engineRaise ⟨0, 0, 0, 0, 0⟩ c (.post p.slot)
    else
      let (key, s) := s.postStream p
      s.engineRaise key c (.post p.slot)

/-- The transfer waits for acknowledgments, or for its signal record to be written (R400). -/
def State.postWaits (s : State) (p : Post) : Bool :=
  (s.fab.out.any fun o => o.origin == .post p.slot) || s.plat.sig.held.contains (signalBytes p.len.toNat p.slot p.ident)

/-- The transfer has made its raises: the next firing's begins, or the slot is armed again, or free (R330 to R332). -/
def State.endPost (s : State) (p : Post) : State :=
  let s := s.endPostStream p
  let left := p.waiting - 1
  if left = 0 && (p.closing || !p.rearm) then s.freePost p.slot
  else s.setPost { p with state := if left = 0 then .armed else .transferring, waiting := left, done := 0, told := false }

/-- POSTED_TRANSFER_COMPLETE: a fired slot takes its action, piece by piece, then makes its completion raises in turn, each once what
went before has been acknowledged. -/
def execPostedTransferComplete (slot : Nat) (s : State) : Out :=
  match s.post? slot with
  | none => .refused .noSuchEvent
  | some p =>
    if p.state ≠ .transferring || (s.postWaits p && (p.acted || p.told)) then .refused .noSuchEvent
    else if p.told then .next (s.endPost p)
    else if p.acted then .next (((s.postRaise p p.c1).postRaise p p.c2).setPost { p with told := true })
    else if p.kind ≤ 2 then .next (s.postMove p)
    else if p.kind = 3 then .next (s.postAdd p)
    else .next ((s.ringPost .signal (signalBytes p.len.toNat p.slot p.ident)).setPost { p with done := 1 })

end Sys2Proof.Machine
end

