-- ==== Sys2Proof/Machine/Fabric.lean ====
section
/-! DEFINITION. The Damhedan fabric: packets received and acknowledged, streams that end or fail, timeouts, the drain, the identity table and the links (R402 to R409). -/

namespace Sys2Proof.Machine

open Sys2Proof

/-! ### Receiving (R407, R408) -/

/-- IDTAB holds a valid entry for a launch and generation (R404, R408). -/
def State.idKnown (s : State) (ident : Word) : Bool :=
  s.fab.idtab.any fun x => x.2.getLsbD 63 && x.2.extractLsb' 0 32 == ident

/-- A packet is stale: no valid entry names its launch, or one names another generation. -/
def State.stale (s : State) (ident : Word) : Bool :=
  !(s.idKnown ident) || s.fab.idtab.any fun x =>
    x.2.getLsbD 63 && x.2.extractLsb' 12 20 == ident.extractLsb' 12 20 && x.2.extractLsb' 0 32 != ident

/-- A party of another package, under a gang index that no gang of a launch has. -/
def farUnit (ident : Word) : UnitRef := .cox ident (2 ^ 32)

/-- A physical address of this package for a LOCAL address. -/
def State.ownPa (s : State) (a : Nat) : Nat := s.pkg * 2 ^ 44 + a % 2 ^ 44

/-- Memory of this package that another package may write (R39). -/
def State.servable (s : State) (pa : Nat) : Bool :=
  s.backed pa && match targetOf (paLocal pa) with
    | .tier1 _ | .tier2 => true
    | _ => false

/-- A packet's payload applied at its slice or at the trigger unit; none when the slice cannot take it now. -/
def State.applyPacket (s : State) (p : Packet) : Option State :=
  match p.payload with
  | .write a data =>
    some (if ((List.range data.length).map fun k => s.ownPa (a + k)).all s.servable then s.l2Writes (s.ownPa a) data else s)
  | .atomic a r =>
    let pa := s.ownPa a
    some (if s.servable pa then (s.atomAt (.mem pa) r).2 else s)
  | .ordered a r kclass issuer icount elempos round =>
    let (n, s) := s.newId
    s.acceptUpdate
      { id := n, unit := farUnit p.key.ident, pa := s.ownPa a, aop := r.aop, szf := r.szf, operand := r.operand, dir := r.dir
        kclass := kclass, issuer := issuer, icount := icount, elempos := elempos, round := round, slice := p.slice, place := .sent
        remote := false, copy := none }
  | .increment idx v _ => some (s.raiseCtr (idx % 4096) v)
  | .rounds rank passed retired =>
    match s.launch? p.key.ident with
    | some _ => some (s.modLaunch p.key.ident fun l =>
        let old := ((l.peers.find? fun x => x.1 == rank).map Prod.snd).getD (0, false)
        { l with peers := (rank, max old.1 passed, old.2 || retired) :: l.peers.filter fun x => x.1 != rank })
    | none =>
      let mine (x : Word × Nat × Nat × Bool) : Bool := x.1 == p.key.ident && x.2.1 == rank
      let old := ((s.dealer.early.find? mine).map fun x => x.2.2).getD (0, false)
      some { s with dealer := { s.dealer with
        early := (p.key.ident, rank, max old.1 passed, old.2 || retired) :: s.dealer.early.filter fun x => !(mine x) } }

/-- The line that an atomic of another package would read here and that fails its check (R413). -/
def State.packetBad (s : State) (p : Packet) : Option (Option Nat × Nat) :=
  match p.payload with
  | .atomic a r => if s.servable (s.ownPa a) then s.badLine (locRun (.mem (s.ownPa a)) (szfSize r.szf)) else none
  | _ => none

/-- What such an atomic comes to (R414): a record that names its sender, and of a crew or cox core the end of its launch here. It is not
applied and not acknowledged, so that the sender's stream fails there (R406, log entry 121). -/
def State.packetCheck (s : State) (p : Packet) (x : Option Nat × Nat) : State :=
  match p.key.unitKind with
  | 2 => s.integrityRecord p.key.ident (channelSource (p.key.index / 32) (p.key.index % 32)) x
  | 3 => s.integrityRecord p.key.ident (postSource p.key.index) x
  | _ => s.integrityCheck (farUnit p.key.ident) x

/-- A high-water entry set. -/
def State.setHwm (s : State) (key : StreamKey) (slice : Nat) (n : Word) : State :=
  { s with fab := { s.fab with hwm := ⟨key, slice, n⟩ :: s.fab.hwm.filter fun x => !(x.key == key && x.slice == slice) } }

/-- The value that an atomic read of another package is answered with, from before it is applied: no data where there is no storage (R37 to
R39, R117). -/
def State.atomicAnswer (s : State) (p : Packet) : List Byte :=
  match p.payload with
  | .atomic a r =>
    let pa := s.ownPa a
    if s.servable pa then s.rdMem pa (szfSize r.szf) else []
  | _ => []

/-- A packet arrives at its slice: stale, without a free entry, next in its stream, seen before, or ahead of a gap (R407, R408); the value
of an atomic read goes back with the acknowledgment of its application (log entry 57). -/
def State.receive (s : State) (p : Packet) (answer : Bool) : State :=
  if s.stale p.key.ident then { s with fab := { s.fab with stale := s.fab.stale + 1 } }
  else
    let held := s.fab.hwm.find? fun x => x.key == p.key && x.slice == p.slice
    if held.isNone && 8192 ≤ (s.fab.hwm.filter fun x => x.slice == p.slice).length then s
    else
      let hwm : Word := (held.map HwmEntry.hwm).getD 0
      let s := s.setHwm p.key p.slice hwm
      let ack (s : State) (more : List Output) : State := { s with outputs := s.outputs ++ .ack p.key p.slice p.seq :: more }
      if p.seq = hwm + 1 then
        match s.packetBad p, s.applyPacket p with
        | some x, _ => s.packetCheck p x
        | none, some t => ack (t.setHwm p.key p.slice p.seq) (if answer then [.remoteRead p.key.pkg (s.atomicAnswer p)] else [])
        | none, none => s
      else if (hwm - p.seq).toNat < 2 ^ 31 then ack s []
      else s

/-- A packet comes from another package of the domain, for a slice or the trigger unit of this one. -/
def State.fromFar (s : State) (p : Packet) : Bool :=
  p.key.pkg != s.pkg && s.inDomain p.key.pkg && (p.slice == 48 || (s.clustersOf s.pkg).contains p.slice)

/-- The trigger unit takes remote increments and the counts of dealers, and the slices the rest (R406). -/
def rightPlace (p : Packet) : Bool :=
  match p.payload with
  | .increment .. | .rounds .. => p.slice == 48
  | _ => p.slice != 48

/-- A packet of another package, or one that no package of the domain sends here and that is dropped. -/
def State.takePacket (s : State) (p : Packet) (answer : Bool) : State := if s.fromFar p && rightPlace p then s.receive p answer else s

/-- REMOTE_INCREMENT (R134, R405, R407). -/
def execRemoteIncrement (p : Packet) (s : State) : Out := .next (s.takePacket p false)

/-- FABRIC_PACKET (R407). -/
def execFabricPacket (p : Packet) (s : State) : Out := .next (s.takePacket p false)

/-- The entries of a stream are freed. -/
def State.freeEntries (s : State) (gone : HwmEntry → Bool) : State :=
  { s with fab := { s.fab with hwm := s.fab.hwm.filter fun x => !(gone x) } }

/-- STREAM_END_MARK (R407). -/
def execStreamEndMark (key : StreamKey) (s : State) : Out := .next (s.freeEntries fun x => x.key == key)

/-- STREAM_ABORT_MARK (R407). -/
def execStreamAbortMark (key : StreamKey) (s : State) : Out := .next (s.freeEntries fun x => x.key == key)

/-- HWM_ENTRY_EXPIRY (R407). -/
def execHwmEntryExpiry (key : StreamKey) (slice : Nat) (s : State) : Out :=
  .next (s.freeEntries fun x => x.key == key && x.slice == slice)

/-! ### Acknowledgments (R406) -/

/-- Loads of the same core that were issued before a remote store, and have still to read a byte that it writes, read now all that they have
not read (R114, R122). -/
def State.readBefore (s : State) (id : Nat) (pas : List Nat) : State :=
  match s.flight.stores.find? fun o => o.id == id with
  | none => s
  | some st =>
    let ls := pas.map Loc.mem
    let read (o : LoadOp) : LoadOp :=
      if o.cache == st.cache && decide (o.id < id) && overlaps o.missing ls then
        { o with got := (o.locs.zip o.got).map fun x => x.2.or (some (s.rdLoc x.1 0)) }
      else o
    { s with flight := { s.flight with loads := s.flight.loads.map read } }

/-- The unit that a packet acts for. -/
def State.senderOf (s : State) (o : OutPacket) : UnitRef :=
  let far := farUnit o.pkt.key.ident
  match o.origin with
  | .store id => match s.flight.stores.find? fun x => x.id == id with
    | some x => x.unit
    | none => ((s.flight.updates.find? fun x => x.id == id).map OUpdate.unit).getD far
  | .atomic id _ => ((s.flight.atomics.find? fun x => x.id == id).map AtomOp.unit).getD far
  | .matrix id => ((s.eng.mats.findSome? fun m => m.ops.find? fun x => x.id == id).map MatOp.unit).getD far
  | _ => far

/-- The copy request that a packet acts for stops with a code. -/
def State.stopFor (s : State) (id code : Nat) : State :=
  match s.eng.copies.find? fun q => q.id == id with
  | some q => s.failCopy q code
  | none => s

/-- An atomic whose line on the other package fails its check (R414): a machine check of the launch, code 7 of the copy, a failed slot. -/
def State.farBad (s : State) (o : OutPacket) (x : Option Nat × Nat) : State :=
  match o.origin with
  | .store _ | .atomic .. => s.integrityCheck (s.senderOf o) x
  | .copy id => (s.integrityRecord o.pkt.key.ident (channelSource (o.pkt.key.index / 32) (o.pkt.key.index % 32)) x).stopFor id 7
  | .post slot => match s.post? slot with
    | some p =>
      let s := s.integrityRecord p.ident (postSource slot) x
      let (n, s) := s.fresh
      if p.state == .failed then s else s.failPost p (1 + Config.freeWord n % 8) 8 p.dst.toNat
    | none => s
  | _ => s

/-- A packet that the other package has applied shows in what this one knows of its memory (log entry 57); an atomic's lane has its old
value. -/
def State.farApply (s : State) (o : OutPacket) : State :=
  let base := o.dst * 2 ^ 44
  let before (s : State) (pas : List Nat) : State := match o.origin with
    | .store id => s.readBefore id pas
    | _ => s
  match o.pkt.payload with
  | .write a data =>
    let pas := (List.range data.length).map fun k => base + a + k
    (before s pas).wrMem (base + a) data
  | .atomic a r =>
    let s := before s ((List.range (szfSize r.szf)).map fun k => base + a + k)
    match s.badLine (locRun (.mem (base + a)) (szfSize r.szf)) with
    | some x => s.farBad o x
    | none =>
      let (old, s) := s.atomAt (.mem (base + a)) r
      match o.origin with
      | .atomic id k =>
        let put (x : AtomOp) : AtomOp :=
          if x.id == id then { x with lanes := x.lanes.mapIdx fun i y => if i = k then { y with old := some old } else y } else x
        { s with flight := { s.flight with atomics := s.flight.atomics.map put } }
      | _ => s
  | _ => s

/-- Packets to one slice of one package are applied there in their order: those that satisfy `upTo` have been (R407). -/
def State.showFar (s : State) (upTo : OutPacket → Bool) : State :=
  let s := (s.fab.out.filter fun o => upTo o && !o.shown).foldl State.farApply s
  { s with fab := { s.fab with out := s.fab.out.map fun o => if upTo o then { o with shown := true } else o } }

/-- A remote store or ordered update none of whose packets is outstanding has left the counts of its unit; the update waits at its slice
for its round. -/
def State.settleStore (s : State) (id : Nat) : State :=
  if s.fab.out.any fun p => p.origin == .store id then s
  else
    let s := s.dropStore id
    let keep (u : OUpdate) : OUpdate := if u.remote && u.id == id then { u with place := .held } else u
    { s with flight := { s.flight with updates := s.flight.updates.map keep } }

/-- A lane of a returning atomic has its answer; with the last one the operation is no longer in flight. -/
def State.settleAtom (s : State) (id lane : Nat) : State :=
  match s.flight.atomics.find? fun o => o.id == id with
  | none => s
  | some o =>
    let ws := match o.lanes[lane]? with
      | some a => o.writes a (a.old.getD 0)
      | none => []
    let s := if o.ret then s.modUnit o.unit fun u => u.fills ws else s
    if s.atomSent id then s else (s.dropAtom id).acquireDone o.unit o.cache o.wide

/-- An ordered update of a copy that its slice has accepted waits there for its round (R139, R411). -/
def State.holdUpdate (s : State) (id : Nat) : State :=
  { s with flight := { s.flight with
    updates := s.flight.updates.map fun u => if u.remote && u.id == id then { u with place := .held } else u } }

/-- What a packet acts for, once the packet has been acknowledged or dropped. -/
def State.settleOrigin (s : State) (o : Origin) : State :=
  match o with
  | .store id => s.settleStore id
  | .atomic id lane => s.settleAtom id lane
  | .copyUpdate _ id => s.holdUpdate id
  | _ => s

/-- FABRIC_ACK (R406): the packet is kept no longer; the packets before it to its slice have been applied too. -/
def execFabricAck (run : FarStream) (slice : Nat) (seq : BitVec 32) (s : State) : Out :=
  let toward (o : OutPacket) : Bool := o.pkt.key == run.key && o.dst == run.dst && o.pkt.slice == slice
  let mine (o : OutPacket) : Bool := toward o && o.pkt.seq == seq
  match s.fab.out.find? mine with
  | none => .next s
  | some o =>
    let s := s.showFar fun x => toward x && decide ((seq - x.pkt.seq).toNat < 2 ^ 31)
    let s : State := { s with fab := { s.fab with out := s.fab.out.filter fun x => !(mine x) } }
    .next ((s.settleOrigin o.origin).closeStream run.key)

/-! ### Timeouts (R404, R406) -/

/-- The physical address that a packet names. -/
def OutPacket.pa (o : OutPacket) : Nat :=
  o.dst * 2 ^ 44 + match o.pkt.payload with
    | .write a _ | .atomic a _ | .ordered a .. => a
    | .increment idx _ _ => 0x030000000000 + 2 ^ 16 * (idx / 256) + 16 * (idx % 256)
    | .rounds .. => 0

/-- The outcome of a failed stream for what its first lost packet acts for (R331, R406, log entry 65). -/
def State.dropFar (s : State) (o : OutPacket) : State :=
  let fail : Option Nat × Nat := (some o.pa, 5)
  match o.origin with
  | .store _ | .atomic .. => s.integrityCheck (s.senderOf o) fail
  | .priv => (s.integrityRecord o.pkt.key.ident o.pkt.key.index fail).endLaunch o.pkt.key.ident
  | .matrix id =>
    if s.eng.mats.any fun m => m.ops.any fun x => x.id == id then s.integrityCheck (s.senderOf o) fail else s
  | .copy id | .copyUpdate id _ => s.stopFor id (if s.lineBad o.pa then 7 else 10)
  | .post slot => match s.post? slot with
    | some p =>
      let (n, s) := s.fresh
      if p.state == .failed then s else s.failPost p (1 + Config.freeWord n % 8) 8 p.dst.toNat
    | none => s
  | .migration k => match s.xlat.migs[k]? with
    | some m => s.failMig k m ((o.pa - m.frame) / 64)
    | none => s
  | .plain => s

/-- Of the packets of a failed stream to one slice the first ones may have been applied, as many as the free choice takes (R407, log entry
10). -/
def State.showSome (s : State) (key : StreamKey) (dst slice : Nat) : State :=
  let (n, s) := s.fresh
  let run := s.fab.out.filter fun o => o.pkt.key == key && o.dst == dst && o.pkt.slice == slice && !o.shown
  let seqs := (run.take (Config.failedApplied n % (run.length + 1))).map fun o => o.pkt.seq
  s.showFar fun o => o.pkt.key == key && o.dst == dst && o.pkt.slice == slice && seqs.contains o.pkt.seq

/-- A stream fails (R406, R412): its packets are dropped, and it is closed with an abort mark. -/
def State.failStream (s : State) (key : StreamKey) : State :=
  let mine := s.fab.out.filter fun o => o.pkt.key == key
  let s := ((mine.map fun o => (o.dst, o.pkt.slice)).eraseDups).foldl (fun (s : State) x => s.showSome key x.1 x.2) s
  let lost := s.fab.out.filter fun o => o.pkt.key == key
  let never (u : OUpdate) : Bool := lost.any fun o => !o.shown && match o.origin with
    | .copyUpdate _ id => id == u.id
    | _ => false
  let s : State := { s with
    flight := { s.flight with updates := s.flight.updates.filter fun u => !(never u) }
    fab := { s.fab with
      out := s.fab.out.filter fun o => o.pkt.key != key
      streams := s.fab.streams.filter fun x => x.key != key }
    outputs := s.outputs ++ [.abortMark key] }
  let s := match lost.head? with
    | some o => s.dropFar o
    | none => s
  lost.foldl (fun (s : State) o => s.settleOrigin o.origin) s

/-- END_TO_END_TIMEOUT (R406): the packets of a stream to a slice of a package are sent again in order, or the stream fails. -/
def execEndToEndTimeout (run : FarStream) (slice : Nat) (s : State) : Out :=
  let mine (o : OutPacket) : Bool := o.pkt.key == run.key && o.dst == run.dst && o.pkt.slice == slice
  match s.fab.out.find? mine with
  | none => .next s
  | some o =>
    if max 1 s.fab.retryMax.toNat ≤ o.resends then .next (s.failStream run.key)
    else
      let again := s.fab.out.filter mine
      let up (x : OutPacket) : OutPacket := if mine x then { x with resends := o.resends + 1 } else x
      .next { s with
        fab := { s.fab with out := s.fab.out.map up }
        outputs := s.outputs ++ again.map fun x => x.origin.output x.dst (s.linkFor x.dst x.pkt.slice) x.pkt }

/-! ### Links, drain, identity table (R402, R404, R408, R409) -/

/-- The state with a link changed. -/
def State.putLink (s : State) (k : Nat) (l : Link) : State := { s with fab := { s.fab with links := s.fab.links.set k l } }

/-- LINK_FLIT_CRC_ERROR (R402): only a trained link carries flits. -/
def execLinkFlitCrcError (link : Nat) (s : State) : Out :=
  match s.fab.links[link]? with
  | none => .next s
  | some l =>
    if !l.en || l.gen = 0 then .next s
    else .next (s.putLink link { l with retry := if l.retry = 0xFFFFFFFF#32 then l.retry else l.retry + 1 })

/-- DAMHEDAN_LINK_TRAINING (R402, R404): a link that the part does not enable does not train. -/
def execDamhedanLinkTraining (link gen : Nat) (s : State) : Out :=
  match s.fab.links[link]? with
  | none => .next s
  | some l => if !l.en || gen = 0 || 2 < gen then .next s else .next (s.putLink link { l with gen := gen })

/-- DAMHEDAN_LINK_DOWN (R404, R409). -/
def execDamhedanLinkDown (link : Nat) (s : State) : Out :=
  match s.fab.links[link]? with
  | none => .next s
  | some l =>
    let s := s.putLink link { l with gen := 0 }
    .next { s with fab := { s.fab with draining := s.fab.draining.filter fun x => x != link } }

/-- The link is enabled and trained. -/
def State.linkUp (s : State) (k : Nat) : Bool :=
  match s.fab.links[k]? with
  | some l => l.en && l.gen != 0
  | none => false

/-- DRAIN (R409): a token goes out on every enabled, trained link; ignored while BUSY. -/
def execDrain (s : State) : Out :=
  if !(s.fab.draining.isEmpty) then .next s
  else
    let up := (List.range 16).filter s.linkUp
    .next { s with fab := { s.fab with draining := up }, outputs := s.outputs ++ up.map .drainToken }

/-- DRAIN_TOKEN_RETURN (R409): a token of this package is back on a link; or a token of the package at the far end has come and
returns behind every packet received on the link before it, which have been taken by then. -/
def execDrainTokenReturn (token : DrainToken) (s : State) : Out :=
  .next (if token.peer then (if s.linkUp token.link then { s with outputs := s.outputs ++ [.drainReturn token.link] } else s)
    else { s with fab := { s.fab with draining := s.fab.draining.filter fun x => x != token.link } })

/-- IDTAB_WRITE (R404, R407 to R409): a launch and generation that no valid entry names any more loses its high-water entries; a write
beyond the table has no effect. -/
def execIdtabWrite (n : Nat) (value : BitVec 64) (s : State) : Out :=
  if 1024 ≤ n then .next s
  else
    let old := tget 0 s.fab.idtab n
    let ident := old.extractLsb' 0 32
    let s : State := { s with fab := { s.fab with idtab := tset 0 s.fab.idtab n (value &&& 0x80000000FFFFFFFF#64) } }
    if old.getLsbD 63 && !(s.idKnown ident) then
      .next { (s.freeEntries fun x => x.key.ident == ident) with
        dealer := { s.dealer with early := s.dealer.early.filter fun x => x.1 != ident } }
    else .next s

end Sys2Proof.Machine
end

