-- ==== Sys2Proof/Machine/Preempt.lean ====
section
/-! DEFINITION. Pre-emption of gangs by the driver, and the save of a gang's context image (R68, R130, R391 to R394, R401). The image is the gang's own crews, cox core, workgroups and engines, kept in place in the state without a cluster. -/

namespace Sys2Proof.Machine

open Sys2Proof

/-! ### The driver's registers (R401) -/

/-- PREEMPTSTAT.BUSY: a named gang's image is not saved yet. -/
def State.preemptBusy (s : State) : Bool :=
  s.dealer.preempting.any fun x => match s.gang? x.1 x.2 with
    | some g => g.saving
    | none => false

/-- A command names gangs: they are to be saved, or NOTFOUND is set. -/
def State.preemptCmd (s : State) (ident : Word) (all : Bool) : State :=
  let live := match s.launch? ident with
    | some l => !l.cancelled
    | none => false
  let all := all || (s.lrec ident).persist
  let named := s.gangs.filter fun g =>
    live && g.ident == ident && !g.saved && (all || g.gang == s.dealer.preemptGang.toNat)
  if named.isEmpty then { s with dealer := { s.dealer with preemptNotFound := true } }
  else
    let s := named.foldl (fun (s : State) g => s.preempt g.ident g.gang) s
    { s with dealer := { s.dealer with preempting := named.map fun g => (g.ident, g.gang) } }

/-- A write of PREEMPTCMD: without GO, or while BUSY, it has no effect. -/
def State.preemptWrite (s : State) (cmd : BitVec 64) : State :=
  if cmd.getLsbD 63 && !(s.preemptBusy) then s.preemptCmd (cmd.extractLsb' 0 32) (cmd.getLsbD 62) else s

/-- PREEMPT_GANG: a write of PREEMPTCMD with GO, ALL 0. -/
def execPreemptGang (cmd : BitVec 64) (s : State) : Out := .next (s.preemptWrite cmd)

/-- PREEMPT_LAUNCH: a write of PREEMPTCMD with GO, ALL 1. -/
def execPreemptLaunch (cmd : BitVec 64) (s : State) : Out := .next (s.preemptWrite cmd)

/-! ### Stopping points (R391, R392, R364) -/

/-- An operation at the head of a queue is at a stopping point: no load of a macro or row buffer, nothing on its way, and not within
a tile of `VOCAB.REGEN`. -/
def MatOp.stopped (o : MatOp) : Bool :=
  !o.sent && match o.kind with
    | .mldb .. | .mlda .. => false
    | .vocab j => !j.regen || o.code != 0 || (j.block == 0 && !j.graded)
    | _ => true

/-- A unit belongs to the gang. -/
def ofGang (r : UnitRef) (ident : Word) (gang : Nat) : Bool := r.ident == ident && r.gang == gang

/-- The cores of a gang. -/
def State.gangCores (s : State) (ident : Word) (gang : Nat) : List (Nat × Nat) :=
  (s.wgs.filter fun w => w.ident == ident && w.gang == gang).map fun w => (w.wg, w.core)

/-- Every party and engine of a gang has reached a stopping point, and the release of R130 has been performed. -/
def State.saveReady (s : State) (g : Gang) : Bool :=
  let mine (r : UnitRef) : Bool := ofGang r g.ident g.gang
  !(s.shareHalted g.ident g.gang) &&
  !(s.flight.loads.any fun o => mine o.unit) && !(s.flight.producers.any fun o => mine o.unit) &&
  !(s.flight.limbs.any fun o => mine o.unit) && !(s.flight.stores.any fun o => mine o.unit) &&
  !(s.flight.atomics.any fun o => mine o.unit) && !(s.flight.updates.any fun u => mine u.unit && u.place == .sent) &&
  !(s.dealer.draws.any fun d => mine d.unit) &&
  !(s.eng.copies.any fun q => mine q.unit && match q.job with
    | some j => j.moving
    | none => false) &&
  s.eng.mats.all fun m => match m.queue with
    | o :: _ => !(mine o.unit) || o.stopped
    | [] => true

/-! ### The save (R391 to R393) -/

/-- A slot in the image: one that waits for walks executes again. -/
def Slot.saved (x : Slot) : Slot :=
  let x := { x with walked := [] }
  match x.st with
  | .blocked (.walk ..) => { x with st := .ready }
  | _ => x

/-- An operation in the image: the tile in progress and its panel requests are discarded (R356). -/
def MatOp.saved (o : MatOp) : MatOp :=
  match o.kind with
  | .vocab j => { o with kind := .vocab { j with block := 0, waiting := false, graded := false, window := [] } }
  | _ => o

/-- The macros and row buffers of the gang's cores are its own: its cluster's cox core serves it, and has not gone on to a gang placed
later (R98). -/
def State.ownsMacros (s : State) (g : Gang) : Bool :=
  g.hasCox && !(s.gangs.any fun x => x.hasCox && !x.saved && x.cluster == g.cluster && decide (g.order < x.order))

/-- A macro and a row buffer are verified as they are saved (R98, R414); of a slot marked reloadable only the source is saved (R393). -/
def State.verifyMatrix (s : State) (g : Gang) (m : Matrix) : State :=
  let bad := (m.macBad.filter fun l => !(m.reload.any fun r => r.slot == l / 2048)) ++ m.rowBad
  bad.foldl (fun (s : State) _ => s.integrityRecord g.ident (s.source (.cox g.ident g.gang)) (none, 3)) s

/-- The gang's parts leave their places. The matrix queue of a core can also hold operations of gangs placed beside it (R336),
which stay. -/
def State.saveGang (s : State) (g : Gang) : State :=
  let mine (r : UnitRef) : Bool := ofGang r g.ident g.gang
  let cores := s.gangCores g.ident g.gang
  let owns := s.ownsMacros g
  let s := cores.foldl (fun (s : State) x => s.writeBackPrivate (4 * g.cluster + x.2)) s
  let s := if owns then cores.foldl (fun (s : State) x => s.verifyMatrix g (s.matrix g.cluster x.2)) s else s
  let part (keeps : Bool) (m : Matrix) (ops : List MatOp) : Matrix := (if keeps then m else m.bare).withOps ops
  let image (x : Nat × Nat) : SavedMatrix :=
    let m := s.matrix g.cluster x.2
    ⟨g.ident, g.gang, x.1, part owns m ((m.ops.filter fun o => mine o.unit).map MatOp.saved)⟩
  let left (m : Matrix) : Matrix :=
    if m.cluster == g.cluster && cores.any fun x => x.2 == m.core then part (!owns) m (m.ops.filter fun o => !(mine o.unit)) else m
  let copies := (s.eng.copies.filter fun q => !(mine q.unit && q.panel)).map fun q => if mine q.unit then { q with cluster := 48 } else q
  { s with
    issuer := if (s.issuer.map fun i => mine i.unit).getD false then none else s.issuer
    crews := s.crews.map fun c =>
      if mine c.ref then { c with place := none, slot0 := c.slot0.saved, slot1 := c.slot1.saved } else c
    coxes := s.coxes.map fun c => if mine c.ref then { c with slot := c.slot.saved } else c
    gangs := s.gangs.map fun x => if x.ident == g.ident && x.gang == g.gang then { x with saving := false, saved := true } else x
    eng := { s.eng with
      copies := copies
      mats := s.eng.mats.map left
      saved := s.eng.saved ++ (cores.map image).filter fun x => g.hasCox || !x.m.queue.isEmpty } }

/-- PREEMPT_SAVE_DONE: the image is complete, and the gang is the first that its launch places again (R378, R401). -/
def execPreemptSaveDone (ident : Word) (gang : Nat) (s : State) : Out :=
  match s.gang? ident gang with
  | none => .refused .noSuchEvent
  | some g =>
    if !g.saving || g.saved || !(s.saveReady g) then .refused .noSuchEvent
    else
      let lr := s.lrec ident
      let i := (gang - lr.rankOf s.pkg) / lr.setSize
      let s := (s.saveGang g).modLaunch ident fun l => { l with returned := i :: l.returned }
      let s : State := { s with dealer := { s.dealer with preempting := s.dealer.preempting.filter fun x => x != (ident, gang) } }
      .next (s.kickAll g.cluster)

end Sys2Proof.Machine
end

