-- ==== Sys2Proof/Machine/Cycle.lean ====
section
/-! DEFINITION. The cycle of a scheduler partition: which crew and slot issue next, and what the cycle is charged to (R156, R157, R171, R243, R383, R384, R428). -/

namespace Sys2Proof.Machine

open Sys2Proof

/-! ### Partitions (R149, R419) -/

/-- The fields of a partition identity. -/
def pidCox (p : Nat) : Bool := nbit p 10
def pidCluster (p : Nat) : Nat := 12 * bits p 8 2 + bits p 4 4
def pidCore (p : Nat) : Nat := bits p 2 2
def pidPart (p : Nat) : Nat := bits p 0 2

/-- The identity names a partition or a cox core of the part. -/
def State.pidExists (s : State) (p : Nat) : Bool :=
  p < 2048 && bits p 4 4 < 12 && (s.clustersOf s.pkg).contains (pidCluster p) &&
  if pidCox p then p % 16 = 0 else pidCore p < s.coreCount (pidCluster p)

/-- The units resident on a partition. -/
def State.residents (s : State) (p : Nat) : List UnitSt :=
  if pidCox p then
    (s.coxes.filter fun c => !c.ended && match s.gang? c.ident c.gang with
      | some g => g.hasCox && !g.saved && g.cluster == pidCluster p
      | none => false).map UnitSt.cox
  else
    (s.crews.filter fun c => match c.place with
      | some q => q.cluster == pidCluster p && q.core == pidCore p && q.part == pidPart p
      | none => false).map UnitSt.crew

/-- Age, priority class and WAIT of a unit (R383). -/
def UnitSt.age : UnitSt → Nat
  | .crew c => c.age
  | .cox _ => 0
def UnitSt.waited : UnitSt → Nat
  | .crew c => c.wait
  | .cox _ => 0
def UnitSt.setWait (u : UnitSt) (n : Nat) : UnitSt :=
  match u with
  | .crew c => .crew { c with wait := n }
  | .cox c => .cox c
def State.prio (s : State) (u : UnitSt) : Nat := (s.lrec u.ref.ident).prio

/-! ### What a slot could do in this cycle -/

/-- A slot's turn: it can issue; its next instruction waits; its fetch block is not present; or it does not issue. -/
inductive Turn where
  | issue
  | wait (w : Wait)
  | fetch
  | off
  deriving DecidableEq, Repr

/-- An update of an `OATOM` lane of the unit waits at a slice whose holding places and overflow area are full (R139). -/
def State.stuck (s : State) (u : UnitSt) : Bool :=
  s.flight.updates.any fun o => o.unit == u.ref && o.place == .sent && !o.remote && o.copy.isNone && (s.acceptUpdate o).isNone

/-- The slot's instruction has issued and waits at its address for page walks, or as CPY and TRIG.POST wait; it does not issue again. -/
def Slot.onItsWay (x : Slot) : Bool :=
  x.counted && match x.st with
    | .blocked (.walk ..) => true
    | _ => x.pending

/-- The turn of slot `k` of a unit. -/
def State.turn (s : State) (u : UnitSt) (k : Nat) : Turn :=
  let sl := u.slot k
  if !(s.slotReady u k) || sl.frozen || s.stuck u || sl.onItsWay then .off
  else
    let s : State := { s with issuer := some ⟨u.ref, k⟩ }
    match s.fetched with
    | .noIssuer => .off
    | .noBlock => .fetch
    | .brk _ | .bad .. => .issue
    | .ok i => match s.gate i with
      | .wait _ w => .wait w
      | _ => .issue

/-- The slots of a unit that can issue. -/
def State.ready (s : State) (u : UnitSt) : List Nat := u.slots.filter fun k => s.turn u k == .issue

/-- Of two READY slots the one that did not issue last (R157). -/
def UnitSt.pickSlot (u : UnitSt) (ks : List Nat) : Option Nat :=
  match u, ks with
  | .crew c, [_, _] => some (if c.last1 then 0 else 1)
  | _, ks => ks.head?

/-! ### The choice (R383) -/

/-- The chosen unit among candidates. -/
def State.chooseUnit (s : State) (cs : List UnitSt) : Option UnitSt :=
  let late := cs.filter fun u => 56 ≤ u.waited
  if late.isEmpty then minOn (fun u => 7 - s.prio u) (sortOn UnitSt.age cs)
  else minOn (fun u => 2 ^ 64 - u.waited) (sortOn UnitSt.age late)

/-- Units that can issue with the slots that can; none of a gang that is being saved. -/
def State.readySlots (s : State) (us : List UnitSt) : List (UnitSt × List Nat) :=
  ((us.filter fun u => !(s.gangStopping u.ref)).map fun u => (u, s.ready u)).filter fun x => !x.2.isEmpty

/-- A slot other than slot `k` of the unit can issue. -/
def otherReady (rs : List (UnitSt × List Nat)) (u : UnitRef) (k : Nat) : Bool :=
  rs.any fun x => x.2.any fun j => x.1.ref != u || j != k

/-- The candidates; a slot that has yielded is none in the first cycle in which another can issue (R243, R383). -/
def State.candidates (s : State) (us : List UnitSt) : List (UnitSt × List Nat) :=
  let rs := s.readySlots us
  (rs.map fun x => (x.1, x.2.filter fun k => !((x.1.slot k).yielded && otherReady rs x.1.ref k))).filter fun x => !x.2.isEmpty

/-- What a partition's cycle chooses: the unit and its slot. -/
def State.chosen (s : State) (us : List UnitSt) : Option (UnitSt × Nat) :=
  let cs := s.candidates us
  match s.chooseUnit (cs.map Prod.fst) with
  | none => none
  | some u => match cs.find? fun x => x.1.ref == u.ref with
    | some x => (u.pickSlot x.2).map fun k => (u, k)
    | none => none

/-! ### The leaves (R428) -/

/-- The counter that a wait is charged to, as a place in the list of counters: FRONTEND 3, DEPEND 4, MEMORY 5, BARRIER 6, ENGINE 7,
SLOT2IDLE 8. -/
def Wait.leaf : Wait → Nat
  | .regs runs => if runs.any fun r => r.1 == .h then 7 else 4
  | .limbs | .floats => 4
  | .walk .. => 5
  | .barrier .. | .gangBarrier _ | .regroup _ | .ornd => 6
  | .engine .. | .byteBarrier .. | .copyWp .. | .channel .. | .matrixQueue .. | .target .. => 7
  | .release | .acquire | .draws | .atomics | .passes | .posting .. => 8

/-- The leaf of a slot. -/
def State.slotLeaf (s : State) (u : UnitSt) (k : Nat) : Nat :=
  if (u.slot k).frozen then 8
  else match s.turn u k with
    | .fetch => 3
    | .wait w => w.leaf
    | .issue => 8
    | .off => match (u.slot k).st with
      | .parked .. => 5
      | .blocked w => w.leaf
      | _ => 8

/-- The unit and slot charged with a cycle that issues nothing, and the leaf; no unit when none is resident. -/
def State.charged (s : State) (us : List UnitSt) : Option (UnitSt × Nat) × Nat :=
  match minOn (fun u => 7 - s.prio u) (sortOn UnitSt.age us) with
  | none => (none, 9)
  | some u =>
    let ls := (u.slots.filter fun k => (u.slot k).st != .empty).map fun k => (k, s.slotLeaf u k)
    match minOn Prod.snd ls with
    | some x => (some (u, x.1), x.2)
    | none => (some (u, 0), 8)

/-- The unit, slot and leaf of a partition's cycle. -/
def State.cycleOf (s : State) (p : Nat) : Option (UnitSt × Nat) × Nat :=
  let us := s.residents p
  match s.chosen us with
  | some (u, k) => (some (u, k), if (u.slot k).replayed then 2 else 1)
  | none => s.charged us

/-- The slots whose instructions go on by themselves, on a stopped partition too: what they waited for at their address has come (R52,
R322, R329, R422, R423, log entry 113). -/
def State.goingOn (s : State) : List Issuer :=
  (s.crews.map UnitSt.crew ++ s.coxes.map UnitSt.cox).flatMap fun u =>
    if s.placed u then
      (u.slots.filter fun k => (u.slot k).onItsWay && s.slotReady u k && !(u.slot k).frozen).map fun k => ⟨u.ref, k⟩
    else []

/-- Of the blocks that a slot has held since an invalidation only the one of its address stays once it is chosen (R70). -/
def Slot.trim (x : Slot) : Slot := { x with blocks := x.blocks.filter fun b => !b.kept || b.base == x.pc &&& ~~~(31#64) }

/-- The slot chosen to issue. -/
def State.chooseSlot (s : State) (i : Issuer) : State :=
  { s with issuer := some i }.modUnit i.unit fun u => u.setSlot i.slot (u.slot i.slot).trim

/-- A slot goes on with the instruction that it has issued, outside every cycle of its partition. -/
def State.goOn (s : State) (i : Issuer) : State :=
  { s with issuer := some i }.setPart (s.pid i.unit) { s.part (s.pid i.unit) with spare := 0 }

/-! ### The cycle -/

/-- A sample record (R427): the crew that the partition's cycle chooses or is charged to, and the leaf. -/
def State.sampleBytes (s : State) (pid : Nat) (who : Option (UnitSt × Nat)) (leaf : Nat) : List Byte :=
  let e := { EventInfo.of 4 0 pid 0 0 (pidCluster pid / 12) with leaf := leaf - 1 }
  s.eventBytes (match who with
    | some (u, k) => { e with
        place := s.placeOf u.ref, slot := k, ident := u.ref.ident, pc := (s.codeOff u.ref (u.slot k).pc).toNat }
    | none => e)

/-- The sample period of a partition in cycles (R421). -/
def PartDebug.period (d : PartDebug) : Nat := 2 ^ max 10 (min 24 d.sper.toNat)

/-- A cycle counted towards the next sample, which is taken when the period is over (R421, R427, log entry 106). -/
def PartDebug.sampled (d : PartDebug) (record : List Byte) : PartDebug :=
  if !d.sample then { d with since := 0 }
  else if d.since + 1 < d.period then { d with since := d.since + 1 }
  else { d with since := 0, samples := d.samples ++ [record] }

/-- The timer of a reservation waits: a crew of a gang that it would pre-empt is stopped (R378, R422). -/
def State.timerWaits (s : State) (r : Reservation) : Bool :=
  (s.lowerGangs (s.lrec r.ident).prio r.cluster).any fun g => s.shareHalted g.ident g.gang

/-- A die's counter advances by a number of cycles (R255). -/
def State.advance (s : State) (die d : Nat) : State :=
  { s with plat := { s.plat with dieCtr := tset 0 s.plat.dieCtr die (s.dieCtr die + BitVec.ofNat 64 d) } }

/-- The counters of a compute die and of the I/O dies advance (R255; by how much for each cycle of a partition is log entry 8), and with
the first the start of every reservation of the die whose timer waits. -/
def State.tick (s : State) (die : Nat) : State :=
  let (n, s) := s.fresh
  let (i, s) := s.fresh
  let (j, s) := s.fresh
  let d := (BitVec.ofNat 64 (Config.cycles n)).toNat
  let held (r : Reservation) : Reservation :=
    if dieOfCluster r.cluster == die && s.timerWaits r then { r with since := r.since + d } else r
  let s : State := { s with dealer := { s.dealer with reservations := s.dealer.reservations.map held } }
  ((s.advance die d).advance 4 (Config.cycles i)).advance 5 (Config.cycles j)

/-- A unit after a cycle: its WAIT, its slots that wait, its yields. -/
def State.afterCycle (s : State) (chosen : Option (UnitSt × Nat)) (cands : List UnitRef) (rs : List (UnitSt × List Nat)) (u : UnitSt) :
    UnitSt :=
  let here := match chosen with
    | some (v, _) => v.ref == u.ref
    | none => false
  let u := u.setWait (if here || !(cands.contains u.ref) then 0 else u.waited + 1)
  u.slots.foldl (fun v k =>
    let sl := v.slot k
    let sl := match s.turn u k with
      | .wait w => { sl with st := .blocked w }
      | _ => sl
    v.setSlot k { sl with yielded := sl.yielded && !(otherReady rs u.ref k) }) u

/-- PARTITION_CYCLE: at most one slot is chosen to issue, which the next step does; on a stopped partition nothing is chosen and
nothing is counted (R422, R428). The leaf that the cycle is charged to should the chosen slot issue nothing is kept. -/
def execPartitionCycle (pid : Nat) (s : State) : Out :=
  if !(s.pidExists pid) then .refused .noSuchEvent
  else
    let s := s.tick (pidCluster pid / 12)
    if (s.part pid).halted then .next s
    else
      let us := s.residents pid
      let (who, leaf) := s.cycleOf pid
      let chosen := s.chosen us
      let cands := (s.candidates us).map fun x => x.1.ref
      let rs := s.readySlots us
      let spare := if chosen.isSome then (s.charged us).2 else 0
      let record := s.sampleBytes pid who leaf
      let s' := us.foldl (fun (t : State) u => t.setUnit (s.afterCycle chosen cands rs u)) s
      let s' := s'.setPart pid { ((s'.part pid).charge leaf).sampled record with spare := spare }
      .next (match chosen with
        | some x => s'.chooseSlot ⟨x.1.ref, x.2⟩
        | none => s')

end Sys2Proof.Machine
end

