-- ==== Sys2Proof/Machine/Debug.lean ====
section
/-! DEFINITION. The debug block's commands: stops, steps, counters, the mailbox and samples (R421 to R423, R426 to R428). -/

namespace Sys2Proof.Machine

open Sys2Proof

/-- A stop or step record of a partition, for a slot when there is one (R422, R427). -/
def State.stopEvent (s : State) (pid why place : Nat) (who : Option (UnitSt × Nat)) : State :=
  let e := EventInfo.of 1 why pid place 0 (pidCluster pid / 12)
  s.eventPost (match who with
    | some (u, k) => { e with slot := k, ident := u.ref.ident, pc := (s.codeOff u.ref (u.slot k).pc).toNat }
    | none => e)

/-- DBG_STOP (R422): a write of DBGCTL with STOP; without effect on a stopped partition, and where there is none. -/
def execDbgStop (pid : Nat) (s : State) : Out :=
  if !(s.pidExists pid) then .next s
  else if (s.part pid).halted then .next s
  else .next ((s.haltPart pid 1 0 0 0).stopEvent pid 1 0 none)

/-- DBG_RESUME (R422). -/
def execDbgResume (pid : Nat) (s : State) : Out :=
  if !(s.pidExists pid) then .next s
  else
    let d := s.part pid
    if !d.halted then .next s else .next (s.setPart pid { d with halted := false, why := 0, num := 0, tag := 0, cplace := 0 })

/-- The unit at a place of a partition. -/
def State.unitAt (s : State) (pid place : Nat) : Option UnitSt :=
  (s.residents pid).find? fun u => pidCox pid || s.placeOf u.ref == place

/-- DBG_STEP (R423): the slot that would issue next for the crew of PLACE issues in the next step. -/
def execDbgStep (pid : Nat) (s : State) : Out :=
  if !(s.pidExists pid) then .next s
  else
    let d := s.part pid
    if !d.halted then .next s
    else
      let place := d.place.toNat
      let who := (s.unitAt pid place).bind fun u => (u.pickSlot (s.ready u)).map fun k => (u, k)
      let why := if who.isSome then 5 else 6
      let s := (s.haltPart pid why 0 0 place).stopEvent pid why place who
      let s := s.setPart pid { s.part pid with spare := 0 }
      .next (match who with
        | some (u, k) => s.chooseSlot ⟨u.ref, k⟩
        | none => s)

/-- CTRCLR (R428). -/
def execCtrclr (pid : Nat) (s : State) : Out :=
  .next (if s.pidExists pid then s.setPart pid { s.part pid with counters := List.replicate 10 0 } else s)

/-- SAMPLE_TICK (R427): the oldest sample taken of a partition is recorded. -/
def execSampleTick (pid : Nat) (s : State) : Out :=
  let d := s.part pid
  match d.samples with
  | [] => .refused .noSuchEvent
  | x :: rest => .next ((s.setPart pid { d with samples := rest }).ringHint .debug x)

/-! ### The mailbox (R426) -/

/-- MBCMD's bytes. -/
def State.mailbox (s : State) : List Byte := s.dbg.mbCmd.flatMap fun w => leBytes 8 w.toNat

/-- Fields of the command. -/
def mbPid (b : List Byte) : Nat := fldAt b 2 2
def mbPlace (b : List Byte) : Nat := fldAt b 4 1

/-- The command completes with a result (R398, R426). -/
def State.mbDone (s : State) (result : Nat) : State :=
  { s with dbg := { s.dbg with mbBusy := false, mbResult := BitVec.ofNat 8 result }, outputs := s.outputs ++ [.msix 4] }

/-- The crew that a command names on a stopped partition. -/
def State.mbCrew (s : State) : Option Crew :=
  let b := s.mailbox
  let pid := mbPid b
  if pidCox pid || !(s.pidExists pid) || !(s.part pid).halted then none
  else match s.unitAt pid (mbPlace b) with
    | some (.crew c) => some c
    | _ => none

/-- The instruction at a slot's address, as the block that it holds gives it. -/
def Slot.instr? (x : Slot) : Option Instr :=
  (x.block? x.pc).bind fun b => match decodeFields (b.words x.pc) with
    | .ok i => some i
    | .error _ => Option.none

/-- What the instruction of a slot that has issued and not completed is still to write, in its unfinished lanes (R57, R279). -/
def State.slotWrites (s : State) (u : UnitSt) (k : Nat) : List RegWrite :=
  let x := u.slot k
  match x.counted, x.instr? with
  | true, some i =>
    (instrDests i u.isCox (s.lrec u.ref.ident).single).flatMap fun d => (List.range d.count).flatMap fun n =>
      ((List.range 96).filter fun l => ((x.unfinished).getD x.mask).getLsbD l).map fun l => ⟨d.cls, d.first + n, l, 0⟩
  | _, _ => []

/-- Register writes on their way to a unit. -/
def State.writesTo (s : State) (r : UnitRef) : List RegWrite :=
  ((s.flight.producers.filter fun o => o.unit == r).flatMap Producer.writes) ++
  ((s.flight.limbs.filter fun o => o.unit == r).flatMap LimbOp.writes) ++
  ((s.flight.loads.filter fun o => o.unit == r).flatMap fun o => dataWrites o.vdata o.reg o.szf o.lanes fun _ _ => 0) ++
  ((s.flight.atomics.filter fun o => o.unit == r && o.ret).flatMap fun o => o.lanes.flatMap fun a => o.writes a 0) ++
  match s.unit? r with
  | some u => u.slots.flatMap (s.slotWrites u)
  | none => []

/-- The register classes of R214 with the numbers a crew of the launch has. -/
def classSizes (vregs : Nat) : List (RegClass × Nat) := [(.v, vregs), (.s, 128), (.p, 64), (.q, 16), (.h, 16), (.nf, 4)]

/-- The lanes of a register that are empty with a producer in flight; a handle is empty for the operation it is linked to. -/
def pendingLanes (u : UnitSt) (ws : List RegWrite) (cls : RegClass) (n : Nat) : Mask :=
  let here := ws.filter fun w => w.cls == cls && w.reg == n
  let lanes : Mask :=
    if cls == .h then BitVec.allOnes 96
    else if classPerLane cls then here.foldl (fun m w => m ||| BitVec.twoPow 96 w.lane) 0
    else if here.isEmpty then 0 else BitVec.allOnes 96
  u.emptyLanes cls n &&& lanes

/-- The list of pending writes that follows a crew's dump. -/
def State.pendingList (s : State) (c : Crew) : List Byte :=
  let u := UnitSt.crew c
  let ws := s.writesTo c.ref
  (classSizes (s.lrec c.ident).vregs).flatMap fun x => (List.range x.2).flatMap fun n =>
    let m := pendingLanes u ws x.1 n
    if m == 0 then [] else leBytes 1 (classNum x.1) ++ leBytes 1 n ++ leBytes 2 0 ++ leBytes 12 m.toNat

/-- MB_READ_CREW_STATE (R426, R429). -/
def execMbReadCrewState (s : State) : Out :=
  let b := s.mailbox
  if !s.dbg.mbBusy || fldAt b 0 1 ≠ 1 then .refused .noSuchEvent
  else match s.mbCrew with
    | none => .next (s.mbDone 1)
    | some c => .next ((s.l2Writes (s.hostPa (fldAt b 8 8)) (s.dumpOf c ++ s.pendingList c)).mbDone 0)

/-- MB_WRITE_REGISTER (R426). A number-format register takes no invalid value, which would be a bad command (R176, R177, log entry 114). -/
def execMbWriteRegister (s : State) : Out :=
  let b := s.mailbox
  if !s.dbg.mbBusy || fldAt b 0 1 ≠ 2 then .refused .noSuchEvent
  else match s.mbCrew with
    | none => .next (s.mbDone 1)
    | some c =>
      let reg := fldAt b 6 1
      let lane := fldAt b 7 1
      match (classSizes (s.lrec c.ident).vregs)[fldAt b 5 1]? with
      | none => .next (s.mbDone 2)
      | some (cls, n) =>
        if n ≤ reg || (classPerLane cls && 96 ≤ lane) then .next (s.mbDone 2)
        else
          let v := BitVec.ofNat 32 (fldAt b 8 8)
          let v := if cls == .nf then nfFields v else v
          if cls == .nf && !(nfValid v) then .next (s.mbDone 2)
          else .next ((s.modUnit c.ref fun u => u.fill ⟨cls, reg, if classPerLane cls then lane else 0, v⟩).mbDone 0)

end Sys2Proof.Machine
end

