-- ==== Sys2Proof/Machine/Scalar.lean ====
section
/-! DEFINITION. Scalar and uniform-predicate instructions (R226 to R233) with their 32-bit forms (R218, R229). -/

namespace Sys2Proof.Machine

/-! ### Values -/

/-- An integer clamped to a range. -/
def clampInt (i lo hi : Int) : Int := if i < lo then lo else if hi < i then hi else i

/-- The integer a word stands for under a type: signed for .I32, natural otherwise. -/
def wInt (ty : Nat) (w : Word) : Int := if ty = tyI32 then w.toInt else w.toNat

/-- The integer a double word stands for under a type. -/
def dInt (ty : Nat) (w : DWord) : Int := if ty = tyI64 then w.toInt else w.toNat

/-- A 32-bit sum or difference, wrapped, or clamped with SAT (R228). -/
def satWord (sat : Bool) (ty : Nat) (r : Int) : Word :=
  if sat && ty == tyI32 then BitVec.ofInt 32 (clampInt r (-(2 ^ 31)) (2 ^ 31 - 1))
  else if sat && ty == tyN32 then BitVec.ofInt 32 (clampInt r 0 (2 ^ 32 - 1))
  else BitVec.ofInt 32 r

/-- Shifts by a natural amount (R228). -/
def shlWord (a : Word) (b : Nat) : Word := if 32 ≤ b then 0 else a <<< b
def shrWord (a : Word) (b : Nat) : Word := if 32 ≤ b then 0 else a >>> b
def sarWord (a : Word) (b : Nat) : Word := a.sshiftRight (min b 31)

/-- A bit field of a word (R228). -/
def bfeWord (ty : Nat) (a b c : Word) : Word :=
  let pos := b.toNat % 32
  let len := min (c.toNat % 64) (32 - pos)
  let f := bits a.toNat pos len
  if len = 0 then 0 else if ty = tyI32 then BitVec.ofInt 32 (signed len f) else BitVec.ofNat 32 f

/-- Leading zero bits of an `n`-bit number. -/
def clzNat (n v : Nat) : Nat := if v = 0 then n else n - 1 - Nat.log2 v

/-- One bits of a number below 2^64. -/
def popNat (v : Nat) : Nat := ((List.range 64).filter fun k => nbit v k).length

/-- A condition of R231 on two integers. -/
def condInt (k : Nat) (a b : Int) : Bool :=
  match k with
  | 0 => a == b
  | 1 => a != b
  | 2 => decide (a < b)
  | 3 => decide (a ≤ b)
  | 4 => decide (a > b)
  | _ => decide (a ≥ b)

/-- Entry `2 a + b` of a truth table (R232). -/
def truth (fn : Nat) (a b : Bool) : Bool := nbit fn (2 * b2n a + b2n b)

/-! ### The instructions -/

/-- A two-source scalar operation of a 32-bit type. -/
def scalar2op (f : Nat → Word → Word → Word) (i : Instr) (s : State) : Out :=
  s.issue i fun c s => c.scalar s (f c.ty (c.s32 0) (c.s32 1))

/-- A 32-bit form with a 6-bit immediate (R229). -/
def scalarShort (f : Word → Word → Word) (i : Instr) (d a : BitVec 8) (imm : BitVec 6) (s : State) : Out :=
  s.issue i fun c s => .done (s.writeRegs c [⟨.s, d.toNat, 0, f (c.u.scal.sget a.toNat) (imm.zeroExtend 32)⟩])

/-- R218. -/
def execNop (s : State) : Out := s.issue .nop fun _ s => .done s
/-- R229. -/
def execSaddShort (d a : BitVec 8) (imm : BitVec 6) (s : State) : Out := scalarShort (· + ·) (.saddShort d a imm) d a imm s
/-- R229. -/
def execSsubShort (d a : BitVec 8) (imm : BitVec 6) (s : State) : Out := scalarShort (· - ·) (.ssubShort d a imm) d a imm s
/-- R229. -/
def execSshlShort (d a : BitVec 8) (imm : BitVec 6) (s : State) : Out :=
  scalarShort (fun x y => shlWord x y.toNat) (.sshlShort d a imm) d a imm s
/-- R229. -/
def execSshrShort (d a : BitVec 8) (imm : BitVec 6) (s : State) : Out :=
  scalarShort (fun x y => shrWord x y.toNat) (.sshrShort d a imm) d a imm s
/-- R218. -/
def execSmovShort (d a : BitVec 8) (s : State) : Out :=
  s.issue (.smovShort d a) fun c s => .done (s.writeRegs c [⟨.s, d.toNat, 0, c.u.scal.sget a.toNat⟩])
/-- R218: VMOV.F32, each lane of the mask. -/
def execVmovShort (d a : BitVec 8) (s : State) : Out :=
  s.issue (.vmovShort d a) fun c s => .done (s.writeRegs c ((lanesOf c.act).map fun l => ⟨.v, d.toNat, l, c.crew.vget a.toNat l⟩))
/-- R228. -/
def execSadd (o : Op) (s : State) : Out :=
  scalar2op (fun ty a b => satWord (nbit o.fn.toNat 0) ty (wInt ty a + wInt ty b)) (.sadd o) s
/-- R228. -/
def execSsub (o : Op) (s : State) : Out :=
  scalar2op (fun ty a b => satWord (nbit o.fn.toNat 0) ty (wInt ty a - wInt ty b)) (.ssub o) s
/-- R228. -/
def execSmul (o : Op) (s : State) : Out := scalar2op (fun _ a b => a * b) (.smul o) s
/-- R228: floor of the exact product over 2^32. -/
def execSmulh (o : Op) (s : State) : Out :=
  scalar2op (fun ty a b => BitVec.ofInt 32 (wInt ty a * wInt ty b / 2 ^ 32)) (.smulh o) s
/-- R228. -/
def execSand (o : Op) (s : State) : Out := scalar2op (fun _ a b => a &&& b) (.sand o) s
/-- R228. -/
def execSor (o : Op) (s : State) : Out := scalar2op (fun _ a b => a ||| b) (.sor o) s
/-- R228. -/
def execSxor (o : Op) (s : State) : Out := scalar2op (fun _ a b => a ^^^ b) (.sxor o) s
/-- R228. -/
def execSshl (o : Op) (s : State) : Out := scalar2op (fun _ a b => shlWord a b.toNat) (.sshl o) s
/-- R228. -/
def execSshr (o : Op) (s : State) : Out := scalar2op (fun _ a b => shrWord a b.toNat) (.sshr o) s
/-- R228. -/
def execSsar (o : Op) (s : State) : Out := scalar2op (fun _ a b => sarWord a b.toNat) (.ssar o) s
/-- R228. -/
def execSmin (o : Op) (s : State) : Out := scalar2op (fun ty a b => if wInt ty a ≤ wInt ty b then a else b) (.smin o) s
/-- R228. -/
def execSmax (o : Op) (s : State) : Out := scalar2op (fun ty a b => if wInt ty a ≤ wInt ty b then b else a) (.smax o) s
/-- R228. -/
def execSsel (o : Op) (s : State) : Out :=
  s.issue (.ssel o) fun c s => c.scalar s (if c.s32 2 == 1 then c.s32 0 else c.s32 1)
/-- R231. -/
def execScmp (o : Op) (s : State) : Out :=
  s.issue (.scmp o) fun c s => c.uniform s (condInt (c.fn % 8)
    (if is64 c.ty then dInt c.ty (c.src 0 0) else wInt c.ty (c.s32 0))
    (if is64 c.ty then dInt c.ty (c.src 1 0) else wInt c.ty (c.s32 1)))
/-- R228. -/
def execSbfe (o : Op) (s : State) : Out :=
  s.issue (.sbfe o) fun c s => c.scalar s (bfeWord c.ty (c.s32 0) (c.s32 1) (c.s32 2))
/-- R228. -/
def execSclz (o : Op) (s : State) : Out :=
  s.issue (.sclz o) fun c s => c.scalar s (BitVec.ofNat 32 (clzNat 32 (c.s32 0).toNat))
/-- R228. -/
def execSpopc (o : Op) (s : State) : Out :=
  s.issue (.spopc o) fun c s => c.scalar s (BitVec.ofNat 32 (popNat (c.s32 0).toNat))
/-- R230. -/
def execSaddp (o : Op) (s : State) : Out := s.issue (.saddp o) fun c s => c.scalar2 s (c.src 0 0 + c.src 1 0)
/-- R230. -/
def execSsubp (o : Op) (s : State) : Out := s.issue (.ssubp o) fun c s => c.scalar2 s (c.src 0 0 - c.src 1 0)
/-- R230: the amount is a 32-bit scalar. -/
def execSshlp (o : Op) (s : State) : Out :=
  s.issue (.sshlp o) fun c s =>
    c.scalar2 s (if 64 ≤ (c.s32 1).toNat then 0 else c.src 0 0 <<< (c.s32 1).toNat)
/-- R228. -/
def execSmov (o : Op) (s : State) : Out :=
  s.issue (.smov o) fun c s => if is64 c.ty then c.scalar2 s (c.src 0 0) else c.scalar s (c.s32 0)
/-- R232: in each acting lane; siblings whose results differ are a mismatch (R194). -/
def execPlop (o : Op) (s : State) : Out :=
  s.issue (.plop o) fun c s =>
    let f (l : Nat) : Bool := truth c.fn ((c.crew.pget o.sa.toNat).getLsbD l) ((c.crew.pget o.sb.toNat).getLsbD l)
    match c.mismatch fun l => (b2w (f l)).zeroExtend 64 with
    | some (l, x) => .mismatch l x
    | none => .done (s.writeRegs c (c.writesP c.d f))
/-- R232. -/
def execQlop (o : Op) (s : State) : Out :=
  s.issue (.qlop o) fun c s => c.uniform s (truth c.fn (c.u.scal.qget o.sa.toNat) (c.u.scal.qget o.sb.toNat))

/-- The lane that bit `i` of the scalar of PMASK and PSET stands for (R233); the thread form names the thread's first lane. -/
def partLane (fn i : Nat) : Nat := if fn % 4 = 3 then 3 * i else 32 * (fn % 4) + i

/-- R233. -/
def execPmask (o : Op) (s : State) : Out :=
  s.issue (.pmask o) fun c s =>
    let m := c.crew.pget o.sa.toNat &&& c.mask
    c.scalar s (BitVec.ofNat 32 (((List.range 32).filter fun i => m.getLsbD (partLane c.fn i)).foldl (fun a i => a + 2 ^ i) 0))
/-- R233: each active lane of the part; the other lanes keep value and full/empty bit. -/
def execPset (o : Op) (s : State) : Out :=
  s.issue (.pset o) fun c s =>
    let v := (c.s32 0).toNat
    let ls := (List.range 32).flatMap fun i =>
      if c.fn % 4 = 3 then [(3 * i, i), (3 * i + 1, i), (3 * i + 2, i)] else [(partLane c.fn i, i)]
    .done (s.writeRegs c ((ls.filter fun x => c.mask.getLsbD x.1).map fun x => ⟨.p, c.d, x.1, b2w (nbit v x.2)⟩))

end Sys2Proof.Machine
end

