-- ==== Sys2Proof/Machine/VecInt.lean ====
section
/-! DEFINITION. Vector integer and bit instructions, selects, moves and integer compares (R256 to R261). -/

namespace Sys2Proof.Machine

/-- The width of an integer or bit type. -/
def tyWidth (ty : Nat) : Nat := if is64 ty then 64 else 32

/-- The integer a source value stands for: signed for .I types, natural otherwise (R260). -/
def tyInt (ty : Nat) (v : DWord) : Int :=
  if ty = tyI32 then (v.extractLsb' 0 32).toInt
  else if ty = tyI64 then v.toInt
  else if is64 ty then v.toNat
  else (v.extractLsb' 0 32).toNat

/-- The integer reduced to the type's width (R260). -/
def ofInt (ty : Nat) (i : Int) : DWord := BitVec.ofNat 64 (wrap (tyWidth ty) i)

/-- The integer clamped to the type's range (R260). -/
def clampTy (ty : Nat) (i : Int) : DWord :=
  let n := tyWidth ty
  let r := if ty = tyI32 || ty = tyI64 then clampInt i (-(2 ^ (n - 1) : Nat)) ((2 ^ (n - 1) : Nat) - 1)
    else clampInt i 0 ((2 ^ n : Nat) - 1)
  ofInt ty r

/-- A lane-wise integer result of two sources. -/
def vecInt (i : Instr) (f : Nat → Int → Int → DWord) (s : State) : Out :=
  s.issue i fun c s => c.intResult s (is64 c.ty) fun l => f c.ty (tyInt c.ty (c.src 0 l)) (tyInt c.ty (c.src 1 l))

/-- A lane-wise integer result of one source. -/
def vecInt1 (i : Instr) (f : Nat → Int → DWord) (s : State) : Out :=
  s.issue i fun c s => c.intResult s (is64 c.ty) fun l => f c.ty (tyInt c.ty (c.src 0 l))

/-- A lane-wise bitwise result. -/
def vecBit (i : Instr) (f : DWord → DWord → DWord) (s : State) : Out :=
  s.issue i fun c s => c.intResult s (is64 c.ty) fun l => f (c.src 0 l) (c.src 1 l)

/-- A shift of a value of `n` bits: left, logical right, arithmetic right (R260). -/
def shiftVal (n : Nat) (kind : Nat) (a : Nat) (b : Nat) : DWord :=
  match kind with
  | 0 => if n ≤ b then 0 else BitVec.ofNat 64 (a * 2 ^ b % 2 ^ n)
  | 1 => if n ≤ b then 0 else BitVec.ofNat 64 (a / 2 ^ b)
  | _ => BitVec.ofNat 64 (wrap n (signed n a / (2 ^ min b (n - 1) : Nat)))

/-- A lane-wise shift; the amount is a 32-bit natural value. -/
def vecShift (i : Instr) (kind : Nat) (s : State) : Out :=
  s.issue i fun c s => c.intResult s (is64 c.ty) fun l =>
    let n := tyWidth c.ty
    shiftVal n kind ((c.src 0 l).toNat % 2 ^ n) (c.src32 1 l).toNat

/-- R260. -/
def execVadd (o : Op) (s : State) : Out := vecInt (.vadd o) (fun ty a b => ofInt ty (a + b)) s
/-- R260. -/
def execVsub (o : Op) (s : State) : Out := vecInt (.vsub o) (fun ty a b => ofInt ty (a - b)) s
/-- R260. -/
def execVmul (o : Op) (s : State) : Out := vecInt (.vmul o) (fun ty a b => ofInt ty (a * b)) s
/-- R260. -/
def execVmulh (o : Op) (s : State) : Out := vecInt (.vmulh o) (fun ty a b => ofInt ty (a * b / (2 ^ tyWidth ty : Nat))) s
/-- R260. -/
def execVmad (o : Op) (s : State) : Out :=
  s.issue (.vmad o) fun c s => c.intResult s (is64 c.ty) fun l =>
    ofInt c.ty (tyInt c.ty (c.src 0 l) * tyInt c.ty (c.src 1 l) + tyInt c.ty (c.src 2 l))
/-- R260. -/
def execVand (o : Op) (s : State) : Out := vecBit (.vand o) (· &&& ·) s
/-- R260. -/
def execVor (o : Op) (s : State) : Out := vecBit (.vor o) (· ||| ·) s
/-- R260. -/
def execVxor (o : Op) (s : State) : Out := vecBit (.vxor o) (· ^^^ ·) s
/-- R260. -/
def execVnot (o : Op) (s : State) : Out :=
  s.issue (.vnot o) fun c s => c.intResult s (is64 c.ty) fun l =>
    if is64 c.ty then ~~~(c.src 0 l) else (~~~(c.src32 0 l)).zeroExtend 64
/-- R260. -/
def execVshl (o : Op) (s : State) : Out := vecShift (.vshl o) 0 s
/-- R260. -/
def execVshr (o : Op) (s : State) : Out := vecShift (.vshr o) 1 s
/-- R260. -/
def execVsar (o : Op) (s : State) : Out := vecShift (.vsar o) 2 s
/-- R260. -/
def execVmin (o : Op) (s : State) : Out := vecInt (.vmin o) (fun ty a b => ofInt ty (if a ≤ b then a else b)) s
/-- R260. -/
def execVmax (o : Op) (s : State) : Out := vecInt (.vmax o) (fun ty a b => ofInt ty (if a ≤ b then b else a)) s
/-- R260. -/
def execVabs (o : Op) (s : State) : Out := vecInt1 (.vabs o) (fun ty a => ofInt ty (if a < 0 then -a else a)) s
/-- R260. -/
def execVneg (o : Op) (s : State) : Out := vecInt1 (.vneg o) (fun ty a => ofInt ty (-a)) s
/-- R260. -/
def execVadds (o : Op) (s : State) : Out := vecInt (.vadds o) (fun ty a b => clampTy ty (a + b)) s
/-- R260. -/
def execVsubs (o : Op) (s : State) : Out := vecInt (.vsubs o) (fun ty a b => clampTy ty (a - b)) s
/-- R260: one 32-bit register. -/
def execVclz (o : Op) (s : State) : Out :=
  s.issue (.vclz o) fun c s => c.intResult s false fun l =>
    let n := tyWidth c.ty
    BitVec.ofNat 64 (clzNat n ((c.src 0 l).toNat % 2 ^ n))
/-- R260: one 32-bit register. -/
def execVpopc (o : Op) (s : State) : Out :=
  s.issue (.vpopc o) fun c s => c.intResult s false fun l => BitVec.ofNat 64 (popNat ((c.src 0 l).toNat % 2 ^ tyWidth c.ty))
/-- R260. -/
def execVbfe (o : Op) (s : State) : Out :=
  s.issue (.vbfe o) fun c s => c.intResult s false fun l =>
    (bfeWord c.ty (c.src32 0 l) (c.src32 1 l) (c.src32 2 l)).zeroExtend 64
/-- A bit field of `d` replaced by low bits of `a` (R260). -/
def bfiWord (d a b c : Word) : Word :=
  let pos := b.toNat % 32
  let len := min (c.toNat % 64) (32 - pos)
  let m : Word := BitVec.ofNat 32 ((2 ^ len - 1) * 2 ^ pos)
  (d &&& ~~~m) ||| ((a <<< pos) &&& m)
/-- R260: the destination is read too. -/
def execVbfi (o : Op) (s : State) : Out :=
  s.issue (.vbfi o) fun c s => c.intResult s false fun l =>
    (bfiWord (c.crew.vget c.d l) (c.src32 0 l) (c.src32 1 l) (c.src32 2 l)).zeroExtend 64

/-- A value as a register lane holds it: bits [31:16] of a 16-bit float are zero (R257). -/
def laneValue (ty : Nat) (v : DWord) : DWord := if ty = tyF16 || ty = tyBF16 then v &&& 0xFFFF else v

/-- A result compared across siblings for an integer or bit type only (R194, R260). -/
def Ctx.typedResult (c : Ctx) (s : State) (f : Nat → DWord) : Eff :=
  if isInt c.ty then c.intResult s (is64 c.ty) f else c.laneResult s (is64 c.ty) fun l => laneValue c.ty (f l)

/-- R260. -/
def execVsel (o : Op) (s : State) : Out :=
  s.issue (.vsel o) fun c s => c.typedResult s fun l =>
    if (c.crew.pget o.sc.toNat).getLsbD l then c.src 0 l else c.src 1 l
/-- R260. -/
def execVmov (o : Op) (s : State) : Out := s.issue (.vmov o) fun c s => c.typedResult s fun l => c.src 0 l

/-- A predicate result, compared across siblings; in triple mode written by a producer (R170, R194, R259). -/
def Ctx.predResult (c : Ctx) (s : State) (f : Nat → Bool) : Eff :=
  match c.mismatch fun l => (b2w (f l)).zeroExtend 64 with
  | some (l, x) => .mismatch l x
  | none => .done (if c.single then s.writeRegs c (c.writesP c.d f) else s.produce c false (c.writesP c.d f))

/-- R261. -/
def execVcmp (o : Op) (s : State) : Out :=
  s.issue (.vcmp o) fun c s => c.predResult s fun l =>
    condInt (bits c.fn 3 3) (tyInt c.ty (c.src 0 l)) (tyInt c.ty (c.src 1 l))

end Sys2Proof.Machine
end

