-- ==== Sys2Proof/Machine/VecFloat.lean ====
section
/-! DEFINITION. Vector float arithmetic, compares, transcendentals, conversions, sibling access, digit counts, packed number formats and block quantisation (R262 to R275). -/

namespace Sys2Proof.Machine

/-- The encoding of a float source of a format in lane `l` (R257). -/
def Ctx.fsrc (c : Ctx) (f : Fmt) (k l : Nat) : Nat := (c.src k l).toNat % 2 ^ (1 + f.ew + f.fw)

/-- The register writes of a lane-wise result that is a number. -/
def Ctx.writesNat (c : Ctx) (wide : Bool) (f : Nat → Nat) : List RegWrite := c.writesV c.d wide fun l => BitVec.ofNat 64 (f l)

/-- A float result with its flags, by lane; `canc` lists the operands of a sum, `divs` the divisor's test (R196, R198, R262). -/
def Ctx.floatResult (c : Ctx) (s : State) (late : Bool) (f : Fmt) (ops : Option (List (Nat → Nat))) (divs : Option (Nat → Nat))
    (r : Nat → Nat × Nat) : Eff :=
  let x : Instab :=
    ⟨match ops with | some os => c.cancelled f os (fun l => (r l).1) | none => [], [],
     match divs with | some v => c.noDigits f v | none => []⟩
  c.floatEnd s late (c.writesNat (is64 c.ty) fun l => (r l).1) (c.flags fun l => (r l).2) x

/-- A two-source float instruction. -/
def vecFloat2 (i : Instr) (late sum div : Bool) (op : Fmt → Dir → Nat → Nat → Nat × Nat) (s : State) : Out :=
  s.issue i fun c s =>
    let f := fmtOf c.ty
    c.floatResult s late f (if sum then some [c.fsrc f 0, c.fsrc f 1] else none) (if div then some (c.fsrc f 1) else none)
      fun l => op f (c.dir l 0) (c.fsrc f 0 l) (c.fsrc f 1 l)

/-- A two-source instruction on sign bits: NaN operands keep their bits, no flags (R262). -/
def vecSign (i : Instr) (op : Fmt → Nat → Nat → Nat) (s : State) : Out :=
  s.issue i fun c s =>
    let f := fmtOf c.ty
    c.laneResult s (is64 c.ty) fun l => BitVec.ofNat 64 (op f (c.fsrc f 0 l) (c.fsrc f 1 l))

/-- R262. -/
def execVfadd (o : Op) (s : State) : Out := vecFloat2 (.vfadd o) false true false Fmt.add s
/-- R262. -/
def execVfsub (o : Op) (s : State) : Out := vecFloat2 (.vfsub o) false true false Fmt.sub s
/-- R262. -/
def execVfmul (o : Op) (s : State) : Out := vecFloat2 (.vfmul o) false false false Fmt.mul s
/-- R262. -/
def execVfma (o : Op) (s : State) : Out :=
  s.issue (.vfma o) fun c s =>
    let f := fmtOf c.ty
    c.floatResult s false f (some [c.fsrc f 0, c.fsrc f 1, c.fsrc f 2]) none
      fun l => f.fma (c.dir l 0) (c.fsrc f 0 l) (c.fsrc f 1 l) (c.fsrc f 2 l)
/-- R262: a special-function instruction (R259). -/
def execVfdiv (o : Op) (s : State) : Out := vecFloat2 (.vfdiv o) true false true Fmt.div s
/-- R262: a special-function instruction (R259). -/
def execVfsqrt (o : Op) (s : State) : Out :=
  s.issue (.vfsqrt o) fun c s =>
    let f := fmtOf c.ty
    c.floatResult s true f none none fun l => f.sqrt (c.dir l 0) (c.fsrc f 0 l)
/-- R262. -/
def execVfmin (o : Op) (s : State) : Out := vecFloat2 (.vfmin o) false false false (fun f _ a b => f.minMax false a b) s
/-- R262. -/
def execVfmax (o : Op) (s : State) : Out := vecFloat2 (.vfmax o) false false false (fun f _ a b => f.minMax true a b) s
/-- R262. -/
def execVfabs (o : Op) (s : State) : Out := vecSign (.vfabs o) (fun f a _ => f.mag a) s
/-- R262. -/
def execVfneg (o : Op) (s : State) : Out :=
  vecSign (.vfneg o) (fun f a _ => f.mag a + (if f.sign a then 0 else 2 ^ (f.ew + f.fw))) s
/-- R262. -/
def execVfcps (o : Op) (s : State) : Out :=
  vecSign (.vfcps o) (fun f a b => f.mag a + (if f.sign b then 2 ^ (f.ew + f.fw) else 0)) s

/-- The outcome of two siblings or more of three (R192). -/
def majority (a b d : Bool) : Bool := (a && b) || (a && d) || (b && d)

/-- R192, R263. -/
def execVfcmp (o : Op) (s : State) : Out :=
  s.issue (.vfcmp o) fun c s =>
    let f := fmtOf c.ty
    let r (l : Nat) : Bool × Nat := f.cmp (bits c.fn 3 3) (c.fsrc f 0 l) (c.fsrc f 1 l)
    let out (l : Nat) : Bool :=
      if c.single then (r l).1
      else let t := l / 3
           majority (r (3 * t)).1 (r (3 * t + 1)).1 (r (3 * t + 2)).1
    let split : List Nat := if c.single then []
      else c.threads.filter fun t => (r (3 * t)).1 != (r (3 * t + 1)).1 || (r (3 * t)).1 != (r (3 * t + 2)).1
    c.floatEnd s (!c.single) (c.writesP c.d out) (c.flags fun l => (r l).2) ⟨[], split, []⟩

/-! ### Transcendentals (R265, R266) -/

/-- A fast form. -/
def vecFast (i : Instr) (fn : TrFn) (div : Bool) (s : State) : Out :=
  s.issue i fun c s =>
    let f := fmtOf c.ty
    c.floatResult s true f none (if div then some (c.fsrc f 0) else none) fun l => trFast fn f (c.dir l 0) (c.fsrc f 0 l)

/-- A reproducible form: to nearest even in single-lane mode. -/
def vecRepro (i : Instr) (fn : TrFn) (div : Bool) (s : State) : Out :=
  s.issue i fun c s =>
    let f := fmtOf c.ty
    c.floatResult s true f none (if div then some (c.fsrc f 0) else none)
      fun l => trRepro fn f (if c.single then .near else c.dir l 0) (c.fsrc f 0 l)

/-- R265. -/
def execVfrcp (o : Op) (s : State) : Out := vecFast (.vfrcp o) .rcp true s
/-- R265. -/
def execVfrcpr (o : Op) (s : State) : Out := vecRepro (.vfrcpr o) .rcp true s
/-- R265. -/
def execVfrsq (o : Op) (s : State) : Out := vecFast (.vfrsq o) .rsq true s
/-- R265. -/
def execVfrsqr (o : Op) (s : State) : Out := vecRepro (.vfrsqr o) .rsq true s
/-- R265. -/
def execVexp2 (o : Op) (s : State) : Out := vecFast (.vexp2 o) .exp2 false s
/-- R265. -/
def execVexp2r (o : Op) (s : State) : Out := vecRepro (.vexp2r o) .exp2 false s
/-- R265. -/
def execVlog2 (o : Op) (s : State) : Out := vecFast (.vlog2 o) .log2 false s
/-- R265. -/
def execVlog2r (o : Op) (s : State) : Out := vecRepro (.vlog2r o) .log2 false s
/-- R265. -/
def execVsin (o : Op) (s : State) : Out := vecFast (.vsin o) .sin false s
/-- R265. -/
def execVsinr (o : Op) (s : State) : Out := vecRepro (.vsinr o) .sin false s
/-- R265. -/
def execVcos (o : Op) (s : State) : Out := vecFast (.vcos o) .cos false s
/-- R265. -/
def execVcosr (o : Op) (s : State) : Out := vecRepro (.vcosr o) .cos false s
/-- R265. -/
def execVtanh (o : Op) (s : State) : Out := vecFast (.vtanh o) .tanh false s
/-- R265. -/
def execVtanhr (o : Op) (s : State) : Out := vecRepro (.vtanhr o) .tanh false s

/-! ### Conversions (R267) -/

/-- The range and the width in its lane of an integer type by extended code (R210, R212). -/
def extRange (e : Nat) : Int × Int × Nat :=
  match e with
  | 1 => (-(2 ^ 31), 2 ^ 31 - 1, 32)
  | 4 => (-(2 ^ 63), 2 ^ 63 - 1, 64)
  | 5 => (0, 2 ^ 64 - 1, 64)
  | 16 => (-128, 127, 32)
  | 17 => (0, 255, 32)
  | 18 => (-32768, 32767, 32)
  | 19 => (0, 65535, 32)
  | _ => (0, 2 ^ 32 - 1, 32)

/-- A float encoding converted to an integer type: rounded toward zero and clamped; its flags. -/
def cvtFloatInt (f : Fmt) (e : Nat) (v : Nat) : Nat × Nat :=
  let (lo, hi, w) := extRange e
  match f.decode v with
  | .nan _ => (0, flNV)
  | .inf n => (wrap w (if n then lo else hi), flNV)
  | .fin n m ex =>
    let (t, nx) := roundAt .zero n m ex 0
    let i : Int := if n then -(t : Int) else t
    if i < lo then (wrap w lo, flNV) else if hi < i then (wrap w hi, flNV) else (wrap w i, if nx then flNX else 0)

/-- VCVT (R267). -/
def execVcvt (o : Op) (s : State) : Out :=
  s.issue (.vcvt o) fun c s =>
    let e := bits c.fn 3 5
    let wide := is64 e
    let sf := fmtOf c.ty
    let int (l : Nat) : Int := tyInt c.ty (c.src 0 l)
    if isFloat c.ty then
      if isFloat e then
        let df := fmtOf e
        let r (l : Nat) : Nat × Nat := df.ofFV (c.dir l 0) (sf.decode (c.fsrc sf 0 l))
        c.floatEnd s false (c.writesNat wide fun l => (r l).1) (c.flags fun l => (r l).2) Instab.none
      else
        let med (l : Nat) : Nat :=
          if c.single then c.fsrc sf 0 l
          else let (x0, x1, x2) := sibs (c.fsrc sf 0) (l / 3)
               (sf.median x0 x1 x2).getD sf.qnan
        let r (l : Nat) : Nat × Nat := cvtFloatInt sf e (med l)
        let split : List Nat := if c.single then []
          else c.threads.filter fun t =>
            let (x0, x1, x2) := sibs (fun l => (cvtFloatInt sf e (c.fsrc sf 0 l)).1) t
            x0 != x1 || x0 != x2
        c.floatEnd s false (c.writesNat wide fun l => (r l).1) (c.flags fun l => (r l).2) ⟨[], split, []⟩
    else if isFloat e then
      let df := fmtOf e
      let r (l : Nat) : Nat × Nat := df.round (c.dir l 0) (decide (int l < 0)) (int l).natAbs 0
      c.floatEnd s false (c.writesNat wide fun l => (r l).1) (c.flags fun l => (r l).2) Instab.none
    else if e = tyB32 || e = tyB64 then c.intResult s wide fun l => if e = tyB32 then (c.src32 0 l).zeroExtend 64 else c.src 0 l
    else
      let (lo, hi, w) := extRange e
      c.intResult s wide fun l => BitVec.ofNat 64 (wrap w (clampInt (int l) lo hi))

/-! ### Sibling access and digits -/

/-- R268. -/
def execVsibget (o : Op) (s : State) : Out :=
  s.issue (.vsibget o) fun c s => c.laneResult s (is64 c.ty) fun l =>
    let k := min (c.s32 1).toNat 2
    laneValue c.ty (c.src 0 (if c.single then l else 3 * (l / 3) + k))
/-- R269. -/
def execVsibmean (o : Op) (s : State) : Out :=
  s.issue (.vsibmean o) fun c s =>
    let f := fmtOf c.ty
    let r (l : Nat) : Nat × Nat :=
      if c.single then (c.fsrc f 0 l, 0)
      else let (x0, x1, x2) := sibs (c.fsrc f 0) (l / 3)
           f.mean x0 x1 x2
    c.floatEnd s false (c.writesNat (is64 c.ty) fun l => (r l).1) (c.flags fun l => (r l).2) Instab.none
/-- R270: a special-function instruction (R259). -/
def execVdigs (o : Op) (s : State) : Out :=
  s.issue (.vdigs o) fun c s =>
    let f := fmtOf c.ty
    .done (s.produce c false (c.writesNat false fun l => c.digits f (c.fsrc f 0) (threadOf c.single l)))

/-! ### Packed number formats (R271, R272) -/

/-- The digit count of three values of a format of precision `p` (R195). -/
def digitsFV (p : Nat) (same : Bool) (x0 x1 x2 : FV) : Nat :=
  let ub (v : FV) : Ub := match v with
    | .fin n m e => ⟨n, m, e⟩
    | _ => ⟨false, 0, 0⟩
  if x0.isNan || x1.isNan || x2.isNan then 0
  else if same then p
  else if x0.isInf || x1.isInf || x2.isInf then 0
  else
    let (m, sg) := meanDev (ub x0) (ub x1) (ub x2)
    if sg.m = 0 then p else if m.m = 0 then 0 else clampNat (({ m with neg := false }).div (ub4303.mul sg)).exp p

/-- The format of an instruction's TYPE .NFk (R176). -/
def Ctx.nfmt (c : Ctx) : NF := NF.ofWord (tget 0 c.crew.nf (c.ty - 12))

/-- Digits of element `e` of a container by lane (R196). -/
def nfDigits (f : NF) (v : Nat → Nat) (e t : Nat) : Nat :=
  let x (k : Nat) : Nat := f.elem (v (3 * t + k)) e
  digitsFV (f.mw + 1) (x 0 == x 1 && x 0 == x 2) (f.decode (x 0)) (f.decode (x 1)) (f.decode (x 2))

/-- An element-wise instruction on containers; `srcs` are the sources tested for cancellation. -/
def vecPacked (i : Instr) (srcs : Nat) (sum : Bool) (op : Dir → FV → FV → FV → FV × Nat) (s : State) : Out :=
  s.issue i fun c s =>
    let f := c.nfmt
    let v (k l : Nat) : Nat := (c.src32 k l).toNat
    let one (l e : Nat) : Nat × Nat :=
      let d := c.dir l e
      let x (k : Nat) : FV := f.decode (f.elem (v k l) e)
      let (r, fl) := op d (x 0) (x 1) (x 2)
      let (code, fl2) := f.pack d r
      (code, fl ||| fl2)
    let es := List.range f.count
    let res (l : Nat) : Nat := f.join (es.map fun e => (one l e).1)
    let canc : List Nat := if c.single || !sum then []
      else c.threads.filter fun t => es.any fun e =>
        decide (nfDigits f res e t < c.digMin) && (List.range srcs).all fun k => decide (c.digMin ≤ nfDigits f (v k) e t)
    c.floatEnd s false (c.writesNat false res) (c.flags fun l => es.foldl (fun a e => a ||| (one l e).2) 0) ⟨canc, [], []⟩

/-- R271. -/
def execVnfadd (o : Op) (s : State) : Out := vecPacked (.vnfadd o) 2 true (fun d x y _ => x.add d y) s
/-- R271. -/
def execVnfmul (o : Op) (s : State) : Out := vecPacked (.vnfmul o) 2 false (fun _ x y _ => x.mul y) s
/-- R271. -/
def execVnffma (o : Op) (s : State) : Out := vecPacked (.vnffma o) 3 true (fun d x y z => x.fma d y z) s

/-- R272: an element out of range leaves the destination as it is, with no flag. -/
def execVnfpack (o : Op) (s : State) : Out :=
  s.issue (.vnfpack o) fun c s =>
    let f := c.nfmt
    let j := (c.s32 1).toNat
    let old (l : Nat) : Nat := (c.crew.vget c.d l).toNat
    let r (l : Nat) : Nat × Nat :=
      if f.count ≤ j then (old l, 0)
      else
        let (code, fl) := f.pack (c.dir l j) (f32.decode (c.fsrc f32 0 l))
        (old l - f.elem (old l) j * 2 ^ (f.w * j) + code * 2 ^ (f.w * j), fl)
    c.floatEnd s false (c.writesNat false fun l => (r l).1) (c.flags fun l => (r l).2) Instab.none
/-- R272. -/
def execVnfunpk (o : Op) (s : State) : Out :=
  s.issue (.vnfunpk o) fun c s =>
    let f := c.nfmt
    let j := (c.s32 1).toNat
    c.laneResult s false fun l =>
      BitVec.ofNat 64 (if f.count ≤ j then 0x7FC00000 else (f32.ofFV .near (f.decode (f.elem (c.src32 0 l).toNat j))).1)

/-! ### Block quantisation (R273 to R275) -/

/-- A sign and a magnitude `m · 2^e` rounded to nearest even on the E2M1 grid, clamped to ±6 (R274). -/
def e2m1Code (neg : Bool) (m : Nat) (e : Int) : Nat :=
  let f : Fmt := ⟨2, 1, 1⟩
  if m = 0 then 0
  else
    let top := (Nat.log2 m : Int) + e
    let q := (max top 0) - 1
    let (t, _) := roundAt .near false m e q
    let mag := ((q + 1).toNat) * 2 ^ f.fw + t
    if mag = 0 then 0 else min mag 7 + (if neg then 8 else 0)

/-- A value rounded to nearest even to E4M3 of R181, clamped to ±448. -/
def e4m3Code (neg : Bool) (m : Nat) (e : Int) : Nat :=
  if m = 0 then (if neg then 128 else 0)
  else
    let top := (Nat.log2 m : Int) + e
    let q := (max top (-6)) - 3
    let (t, _) := roundAt .near false m e q
    min (((q + 9).toNat) * 8 + t) 0x7E + (if neg then 128 else 0)

/-- The order of two finite magnitudes. -/
def magLt (m1 : Nat) (e1 : Int) (m2 : Nat) (e2 : Int) : Bool :=
  decide (m1 * 2 ^ (e1 - min e1 e2).toNat < m2 * 2 ^ (e2 - min e1 e2).toNat)

/-- The block of 32 values (R274): codes, SCALE and SPECIAL. -/
def quantBlock (xs : List FV) : List Nat × Nat × Nat :=
  let fin (v : FV) : Bool × Nat × Int := match v with
    | .fin n m e => (n, m, e)
    | _ => (false, 0, 0)
  if xs.any fun v => v.isNan || v.isInf then (List.replicate 32 0, 0xFF, 0x7F)
  else if xs.all FV.isZero then (List.replicate 32 0, 127, 0)
  else
    let largest (skip : Nat) : Nat := (List.range 32).foldl (fun b t =>
      if t = skip then b
      else if b = 32 then t
      else
        let x := fin ((xs[b]?).getD (.fin false 0 0))
        let y := fin ((xs[t]?).getD (.fin false 0 0))
        if magLt x.2.1 x.2.2 y.2.1 y.2.2 then t else b) 32
    let js := largest 32
    let a := fin ((xs[js]?).getD (.fin false 0 0))
    let b := fin ((xs[largest js]?).getD (.fin false 0 0))
    let e0 : Int := if b.2.1 = 0 then (Nat.log2 a.2.1 : Int) + a.2.2 - 7 else (Nat.log2 b.2.1 : Int) + b.2.2 - 2
    let scale := (clampInt (e0 + 127) 0 254).toNat
    let e : Int := (scale : Int) - 127
    let codes := xs.zipIdx.map fun x =>
      if x.2 = js then 8 else let y := fin x.1
                              e2m1Code y.1 y.2.1 (y.2.2 - e)
    (codes, scale, e4m3Code a.1 a.2.1 (a.2.2 - e))

/-- The 18 bytes of a block (R181). -/
def blockBytes (codes : List Nat) (scale special : Nat) : List Nat :=
  ((List.range 16).map fun k => (codes[2 * k]?).getD 0 + 16 * (codes[2 * k + 1]?).getD 0) ++ [scale, special]

/-- VQBLK (R273 to R275). With .PERM the position is that of sibling 0, and position 0 for a thread that does not act (log entry 130). -/
def execVqblk (o : Op) (s : State) : Out :=
  s.issue (.vqblk o) fun c s =>
    let perm := nbit c.fn 3
    let acts (t : Nat) : Bool := c.act.getLsbD (if c.single then t else 3 * t)
    let val (t : Nat) : FV :=
      if !(acts t) then .fin false 0 0
      else if c.single then f32.decode (c.fsrc f32 0 t)
      else let (x0, x1, x2) := sibs (c.fsrc f32 0) t
           match f32.median x0 x1 x2 with
           | some v => f32.decode v
           | none => .nan false
    let lane (t : Nat) : Nat := if c.single then t else 3 * t
    let word (t : Nat) : Nat :=
      let g := t / 32 * 32
      let xs := (List.range 32).map fun k => val (g + (if perm then (if acts (g + k) then (c.src32 1 (lane (g + k))).toNat % 32 else 0) else k))
      let (codes, scale, special) := quantBlock xs
      let bs := blockBytes codes scale special
      let p := t % 32
      (codes[p]?).getD 0 * 65536 + (if p < 9 then (bs[2 * p]?).getD 0 + 256 * (bs[2 * p + 1]?).getD 0 else 0)
    c.intResult s false fun l => BitVec.ofNat 64 (word (threadOf c.single l))

/-! ### Lane-group small matrices (R280) -/

/-- The number of steps of a thread's group: the lowest acting thread's count, at most the group's size. -/
def Ctx.gmmLen (c : Ctx) (g t : Nat) : Nat :=
  match (c.threads.find? fun x => x / g == t / g) with
  | some x => min (c.src32 2 (if c.single then x else 3 * x)).toNat g
  | none => 0

/-- One step of a lane: the two factors, the accumulator before it, the result and its flags. -/
structure GmmStep where
  a : Nat
  b : Nat
  acc : Nat
  res : Nat
  fl : Nat
  deriving DecidableEq, Repr

/-- The steps of a lane, in order. -/
def Ctx.gmmSteps (c : Ctx) (g l : Nat) : List GmmStep :=
  let t := threadOf c.single l
  let at_ (x : Nat) : Nat := if c.single then x else 3 * x + l % 3
  ((List.range (c.gmmLen g t)).foldl (fun (st : Nat × List GmmStep) i =>
    let p := t / g * g + i
    let a := if c.act.getLsbD (at_ p) then c.fsrc f32 0 (at_ p) else 0
    let b := (c.crew.vget (c.op.sb.toNat + i) l).toNat
    let (r, fl) := f32.fma (c.dir l i) a b st.1
    (r, st.2 ++ [⟨a, b, st.1, r, fl⟩])) ((c.crew.vget c.d l).toNat, [])).2

/-- VGMM. -/
def execVgmm (o : Op) (s : State) : Out :=
  s.issue (.vgmm o) fun c s =>
    let g := 4 * 2 ^ (c.fn % 4)
    let lows := c.threads.filter fun t => (c.threads.find? fun x => x / g == t / g) == some t
    let split := if c.single then none
      else lows.find? fun t => c.src32 2 (3 * t) != c.src32 2 (3 * t + 1) || c.src32 2 (3 * t) != c.src32 2 (3 * t + 2)
    match split with
    | some t => .mismatch (3 * t) (c.src32 2 (3 * t), c.src32 2 (3 * t + 1), c.src32 2 (3 * t + 2))
    | none =>
      let st (l : Nat) : List GmmStep := c.gmmSteps g l
      let res (l : Nat) : Nat := match (st l).getLast? with
        | some x => x.res
        | none => (c.crew.vget c.d l).toNat
      let fl (l : Nat) : Nat := (st l).foldl (fun a x => a ||| x.fl) 0
      let canc : List Nat := if c.single then []
        else c.threads.filter fun t => (List.range (c.gmmLen g t)).any fun i =>
          let dig (v : GmmStep → Nat) : Nat := c.digits f32 (fun l => (((st l)[i]?).map v).getD 0) t
          decide (dig GmmStep.res < c.digMin) && decide (c.digMin ≤ dig GmmStep.a) && decide (c.digMin ≤ dig GmmStep.b) &&
            decide (c.digMin ≤ dig GmmStep.acc)
      c.floatEnd s false (c.writesNat false res) (c.flags fl) ⟨canc, [], []⟩

end Sys2Proof.Machine
end

