-- ==== Sys2Proof/Machine/Lane.lean ====
section
/-! DEFINITION. Cross-lane, vote, regrouping and bit instructions (R281 to R298), and the fusion of two crews (R167, R293). -/

namespace Sys2Proof.Machine

/-- The lowest thread of a list whose siblings hold different values of source `k`, in triple mode. -/
def Ctx.splitSrc (c : Ctx) (k : Nat) (ts : List Nat) : Option (Nat × (Word × Word × Word)) :=
  if c.single then none
  else (ts.find? fun t => c.src32 k (3 * t) != c.src32 k (3 * t + 1) || c.src32 k (3 * t) != c.src32 k (3 * t + 2)).map fun t =>
    (3 * t, (c.src32 k (3 * t), c.src32 k (3 * t + 1), c.src32 k (3 * t + 2)))

/-- A result left to a producer, compared across siblings for an integer or bit type only (R194, R282, R285). -/
def Ctx.typedProduce (c : Ctx) (s : State) (f : Nat → DWord) : Eff :=
  if isInt c.ty then c.intProduce s (is64 c.ty) f
  else .done (s.produce c false (c.writesV c.d (is64 c.ty) fun l => laneValue c.ty (f l)))

/-- R286. -/
def execVshfl (o : Op) (s : State) : Out :=
  s.issue (.vshfl o) fun c s =>
    match c.splitSrc 1 c.threads with
    | some (l, x) => .mismatch l x
    | none => c.typedProduce s fun l =>
      match c.shflFrom (threadOf c.single l) (c.src32 1 l).toNat with
      | some t => if c.acts t then c.src 0 (c.peer t l) else c.src 0 l
      | none => c.src 0 l

/-- R287. -/
def execVbcast (o : Op) (s : State) : Out :=
  s.issue (.vbcast o) fun c s =>
    match (if c.fn % 8 = 0 then c.splitSrc 1 c.groupLows else none) with
    | some (l, x) => .mismatch l x
    | none => c.typedProduce s fun l =>
      match c.bcastFrom (threadOf c.single l) with
      | some x => c.src 0 (c.peer x l)
      | none => c.src 0 l

/-- The combination of an integer or bit scan (R288). -/
def scanInt (op ty : Nat) (a b : DWord) : DWord :=
  match op with
  | 0 => ofInt ty (tyInt ty a + tyInt ty b)
  | 1 => if tyInt ty a ≤ tyInt ty b then a else b
  | 2 => if tyInt ty a ≤ tyInt ty b then b else a
  | 3 => a &&& b
  | 4 => a ||| b
  | _ => a ^^^ b

/-- The identity of an exclusive integer or bit scan (R288). -/
def scanIdent (op ty : Nat) : DWord :=
  let n := tyWidth ty
  let sgn := ty == tyI32 || ty == tyI64
  match op with
  | 1 => BitVec.ofNat 64 (if sgn then 2 ^ (n - 1) - 1 else 2 ^ n - 1)
  | 2 => if sgn then BitVec.ofNat 64 (2 ^ (n - 1)) else 0
  | 3 => BitVec.ofNat 64 (2 ^ n - 1)
  | _ => 0

/-- The combination of the values of a list of threads in order, the sibling of lane `l`. -/
def Ctx.foldInt (c : Ctx) (l : Nat) (ts : List Nat) : Option DWord :=
  ts.foldl (fun a t => match a with
    | none => some (c.src 0 (c.peer t l))
    | some x => some (scanInt (c.fn % 8) c.ty x (c.src 0 (c.peer t l)))) none

/-- One pass of the .F32 forms over a list of threads (R289): the result, its flags, and for each addition the accumulator, the
value and the result. -/
def Ctx.foldF32 (c : Ctx) (l : Nat) (ts : List Nat) : Option Nat × Nat × List (Nat × Nat × Nat × Nat) :=
  ts.foldl (fun (a : Option Nat × Nat × List (Nat × Nat × Nat × Nat)) t =>
    let v := c.fsrc f32 0 (c.peer t l)
    match a.1 with
    | none => (some v, a.2)
    | some x =>
      let (r, fl) := match c.fn % 8 with
        | 0 => f32.add (c.dir (c.peer t l) 0) x v
        | 1 => f32.minMax false x v
        | _ => f32.minMax true x v
      (some r, a.2.1 ||| fl, a.2.2 ++ [(t, x, v, r)])) (none, 0, [])

/-- The threads whose additions cancel in a pass over a group (R289): each is named by the thread added. -/
def Ctx.scanCancel (c : Ctx) (ts : List Nat) : List Nat :=
  if c.single || c.fn % 8 ≠ 0 then []
  else
    let st (k : Nat) : List (Nat × Nat × Nat × Nat) := (c.foldF32 k ts).2.2
    ((List.range ts.length).filterMap fun i =>
      let x (k : Nat) (f : Nat × Nat × Nat × Nat → Nat) : Nat := (((st k)[i]?).map f).getD 0
      let dig (f : Nat × Nat × Nat × Nat → Nat) : Nat := f32.digits (x 0 f) (x 1 f) (x 2 f)
      match (st 0)[i]? with
      | some e =>
        if decide (dig (fun e => e.2.2.2) < c.digMin) && decide (c.digMin ≤ dig (fun e => e.2.1)) &&
            decide (c.digMin ≤ dig (fun e => e.2.2.1)) then some e.1 else none
      | none => none)

/-- A scan or reduction: `upto` lists the threads combined for a thread. -/
def scanOp (i : Instr) (upto : Ctx → Nat → List Nat) (s : State) : Out :=
  s.issue i fun c s =>
    let op := c.fn % 8
    if c.ty = tyF32 then
      let ident := match op with
        | 1 => f32.infBits false
        | 2 => f32.infBits true
        | _ => 0
      let r (l : Nat) : Nat := (c.foldF32 l (upto c (threadOf c.single l))).1.getD ident
      let groups := (c.threads.filter fun t => (c.mates t).head? == some t).map c.mates
      let lanes := groups.flatMap fun g => (if c.single then [0] else [0, 1, 2]).map fun k => (c.foldF32 k g).2.1
      c.floatEnd s true (c.writesNat false r) (lanes.foldl (· ||| ·) 0) ⟨groups.flatMap c.scanCancel, [], []⟩
    else c.intProduce s (is64 c.ty) fun l => (c.foldInt l (upto c (threadOf c.single l))).getD (scanIdent op c.ty)

/-- R288, R289. -/
def execVscan (o : Op) (s : State) : Out :=
  scanOp (.vscan o) (fun c t => (c.mates t).filter fun x => if nbit c.fn 7 then x < t else x ≤ t) s
/-- R288, R289. -/
def execVred (o : Op) (s : State) : Out := scanOp (.vred o) (fun c t => c.mates t) s

/-- R290. -/
def execVote (o : Op) (s : State) : Out :=
  s.issue (.vote o) fun c s =>
    let p := c.crew.pget o.sa.toNat
    match (c.mismatch fun l => (b2w (p.getLsbD l)).zeroExtend 64) with
    | some (l, x) => .mismatch l x
    | none =>
      let v (t : Nat) : Bool := p.getLsbD (if c.single then t else 3 * t)
      let r (l : Nat) : Bool :=
        let ts := c.mates (threadOf c.single l)
        match c.fn % 8 with
        | 0 => ts.all v
        | 1 => ts.any v
        | 2 => !(ts.any v)
        | _ => ts.all v || !(ts.any v)
      .done (s.produce c false (c.writesP c.d r))

/-- R291. -/
def execBallot (o : Op) (s : State) : Out :=
  s.issue (.ballot o) fun c s =>
    let p := c.crew.pget o.sa.toNat
    match (c.mismatch fun l => (b2w (p.getLsbD l)).zeroExtend 64) with
    | some (l, x) => .mismatch l x
    | none =>
      let m := p &&& c.act
      .done (s.produce c false
        (if c.single then scalarWrites c.d [m.extractLsb' 0 32, m.extractLsb' 32 32, m.extractLsb' 64 32]
         else scalarWrites c.d [BitVec.ofNat 32 (threads3 m)]))

/-! ### Bit instructions -/

/-- The product of two 8 × 8 bit matrices over GF(2) (R296). -/
def gf2mm (a b : Nat) : Nat :=
  ((List.range 64).filter fun n =>
    let i := n / 8
    let j := n % 8
    ((List.range 8).filter fun k => nbit a (8 * i + k) && nbit b (8 * k + j)).length % 2 == 1).foldl (fun x n => x + 2 ^ n) 0

/-- Bits deposited under a mask, or extracted (R297). -/
def bitDep (n a m : Nat) : Nat :=
  ((List.range n).filter fun i => nbit m i && nbit a (((List.range i).filter fun k => nbit m k).length)).foldl (fun x i => x + 2 ^ i) 0
def bitExt (n a m : Nat) : Nat :=
  (((List.range n).filter fun i => nbit m i).zipIdx.filter fun x => nbit a x.1).foldl (fun y x => y + 2 ^ x.2) 0

/-- R296. Its destination is left to a producer, as those of VBDEP, VBEXT and VBPERM are (log entry 127). -/
def execVgf2mm (o : Op) (s : State) : Out :=
  s.issue (.vgf2mm o) fun c s => c.intProduce s true fun l => BitVec.ofNat 64 (gf2mm (c.src 0 l).toNat (c.src 1 l).toNat)
/-- R297 (log entry 127). -/
def execVbdep (o : Op) (s : State) : Out :=
  s.issue (.vbdep o) fun c s => c.intProduce s (is64 c.ty) fun l =>
    BitVec.ofNat 64 (bitDep (tyWidth c.ty) (c.src 0 l).toNat (c.src 1 l).toNat)
/-- R297 (log entry 127). -/
def execVbext (o : Op) (s : State) : Out :=
  s.issue (.vbext o) fun c s => c.intProduce s (is64 c.ty) fun l =>
    BitVec.ofNat 64 (bitExt (tyWidth c.ty) (c.src 0 l).toNat (c.src 1 l).toNat)
/-- R298 (log entry 127). -/
def execVbperm (o : Op) (s : State) : Out :=
  s.issue (.vbperm o) fun c s => c.intProduce s true fun l =>
    let idx := (List.range 12).foldl (fun a m => a + (c.crew.vget (o.sb.toNat + m) l).toNat * 2 ^ (32 * m)) 0
    BitVec.ofNat 64 (((List.range 64).filter fun j => nbit (c.src 0 l).toNat (bits idx (6 * j) 6)).foldl (fun a j => a + 2 ^ j) 0)

/-! ### Regrouping (R167, R292, R293) -/

/-- R292: the crew waits for its partner, unless the partner has retired. -/
def execRegrp (o : Op) (s : State) : Out :=
  s.issue (.regrp o) fun c s =>
    let b := (c.s32 1).toNat
    let r := c.iss.unit
    if b / 32 ≠ 0 || c.lr.nCrews ≤ b || b == c.crew.crew then .trap (ctlTrap 10)
    else if (s.unit? (.crew r.ident r.gang (wgOf r) b)).isNone then .done (s.writeRegs c [⟨.q, c.d, 0, 0⟩])
    else .wait (.regroup b)

/-- The slot of a crew that waits at a REGRP naming a partner; one that is FROZEN does not wait (R156, R292). -/
def Crew.regroups (x : Crew) (partner : Nat) : Option Nat :=
  [0, 1].find? fun k => (x.slot k).st == .blocked (.regroup partner) && !(x.slot k).frozen

/-- The context of the instruction at which a slot waits, as the block it holds gives it. -/
def State.waiting (s : State) (r : UnitRef) (k : Nat) : Option Ctx :=
  match s.unit? r with
  | none => none
  | some u =>
    match (u.slot k).block? (u.slot k).pc with
    | none => none
    | some b =>
      match decodeFields (b.words (u.slot k).pc) with
      | .ok i => some (s.ctxOf i ⟨r, k⟩ u)
      | .error _ => none

/-- Nothing of the unit is outstanding (R167): engine counters zero, no unfinished ordered update, no producer. -/
def State.drained (s : State) (u : UnitSt) : Bool :=
  let r := u.ref
  let x := u.scal
  x.cpy == 0 && x.net == 0 && x.mat == 0 && x.voc == 0 && s.roundQuiet u &&
  !(s.flight.loads.any fun o => o.unit == r) && !(s.flight.producers.any fun o => o.unit == r) &&
  !(s.flight.limbs.any fun o => o.unit == r) && !(s.flight.atomics.any fun o => o.unit == r && o.ret)

/-- The vector registers that a crew's live-register mask names (R292). -/
def Ctx.liveRegs (c : Ctx) : Nat → Bool := fun v => (c.u.scal.sget (c.op.sa.toNat + v / 32)).getLsbD (v % 32)

/-- Where a thread of the fused crew comes from: whether from the higher crew, and its old number. -/
def fuseOrder (single : Bool) (ma mb : Mask) : List (Bool × Nat) :=
  (threadsIn single ma).map (false, ·) ++ (threadsIn single mb).map (true, ·)

/-- The fused crew (R167, R293): `a` the lower crew. -/
def fuseCrew (single : Bool) (vregs : Nat) (ca cb : Ctx) : Crew :=
  let a := ca.crew
  let b := cb.crew
  let order := fuseOrder single ca.mask cb.mask
  let per := if single then 1 else 3
  -- The lane a new lane comes from: none at and above the fused crew's lane count.
  let src (l : Nat) : Option (Bool × Nat × Nat) := (order[l / per]?).map fun x => (x.1, x.2, x.2 * per + l % per)
  let moved (x : Bool × Nat × Nat) (l : Nat) : Bool := x.1 || x.2.1 != l / per
  let ucr (x : Bool) : Crew := if x then b else a
  let keeps (v l : Nat) : Option (Crew × Nat) :=
    match src l with
    | none => none
    | some x => if !(moved x l) || (if x.1 then cb else ca).liveRegs v then some (ucr x.1, x.2.2) else none
  let v := (List.range vregs).flatMap fun n => (List.range 96).filterMap fun l =>
    match keeps n l with
    | some (x, ol) => if x.vget n ol == 0 then none else some (96 * n + l, x.vget n ol)
    | none => none
  let vEmpty := (List.range vregs).filterMap fun n =>
    let m := maskOf ((List.range 96).filter fun l => match keeps n l with
      | some (x, ol) => (tget 0 x.vEmpty n).getLsbD ol
      | none => false)
    if m == 0 then none else some (n, m)
  let pTab (f : Crew → Tab Mask) : Tab Mask := (List.range 64).filterMap fun n =>
    let m := maskOf ((List.range 96).filter fun l => match src l with
      | some x => (tget 0 (f (ucr x.1)) n).getLsbD x.2.2
      | none => false)
    if m == 0 then none else some (n, m)
  let stays (l : Nat) : Bool := match src l with
    | some x => !(moved x l)
    | none => false
  let regBad := a.regBad.filterMap fun e =>
    let bits := (List.range 16).foldl (fun m j =>
      if e.1 < 128 || stays ((16 * (e.1 - 128) + j) % 96) then m else m &&& ~~~(BitVec.twoPow 16 j)) e.2
    if bits == 0 then none else some (e.1, bits)
  let lanes := order.length * per
  let u := (UnitSt.crew { a with v := v, vEmpty := vEmpty, p := pTab Crew.p, pEmpty := pTab Crew.pEmpty }).fill
    ⟨.q, ca.d, 0, 1⟩
  let scal := { u.scal with round := if a.scal.round.toNat < b.scal.round.toNat then b.scal.round else a.scal.round }
  match u with
  | .cox _ => a
  | .crew x =>
    { x with
      scal := scal
      arithStat := a.arithStat ||| b.arithStat
      threads := order.map fun y => (((ucr y.1).threads[y.2]?).getD ⟨0, 0, 0, 0⟩)
      lanes := lanes
      exited := 0
      regBad := regBad
      slot0 := { Slot.start ca.nextPc (fullMask lanes) with link := ca.slot.link }
      slot1 := Slot.none }

/-- A line of a crew's area that a fusion reads fails its check (R84, R414): of its state block, or of a live register of a thread that
moves; `hi` says that it is the higher crew. -/
def Ctx.fuseBad (c : Ctx) (order : List (Bool × Nat)) (hi : Bool) : Bool :=
  c.crew.blockBad || order.zipIdx.any fun y => y.1.1 == hi && (hi || y.1.2 != y.2) && (laneSet c.single y.1.2).any fun l =>
    (List.range c.lr.vregs).any fun v => c.liveRegs v && c.crew.lineBad v l

/-- A crew waiting at REGRP traps there (R292). -/
def State.regrpTrap (s : State) (c : Ctx) (t : TrapInfo) : State :=
  { (s.finish c (.trap t)) with issuer := s.issuer }

/-- The instruction at which a crew waited has issued (R155, R293). -/
def State.regrpIssue (s : State) (c : Ctx) : State :=
  { (s.issued c) with issuer := s.issuer }

/-- REGRP_FUSE: the rendezvous of crews `a` and `b` (R292, R293). -/
def execRegrpFuse (a b : UnitRef) (s : State) : Out :=
  match s.unit? a, s.unit? b with
  | some (.crew x), some (.crew y) =>
    match x.regroups y.crew, y.regroups x.crew with
    | some ka, some kb =>
      if x.place.isNone || y.place.isNone || y.crew ≤ x.crew || x.ident != y.ident || x.gang ≠ y.gang || x.wg ≠ y.wg ||
          !(s.drained (.crew x)) || !(s.drained (.crew y)) then .refused .noSuchEvent
      else match s.waiting a ka, s.waiting b kb with
      | some ca, some cb =>
        let bad (c : Ctx) : Option TrapInfo :=
          if (c.crew.slot0.st != .empty && c.crew.slot1.st != .empty) || c.crew.bracket.isSome then some (ctlTrap 10)
          else if c.crew.limbN ≠ 0 then some (TrapInfo.of 4 2)
          else none
        if ca.pc ≠ cb.pc then .next ((s.regrpTrap ca (ctlTrap 10)).regrpTrap cb (ctlTrap 10))
        else match bad ca, bad cb with
        | some t, some t' => .next ((s.regrpTrap ca t).regrpTrap cb t')
        | some t, none => .next (s.regrpTrap ca t)
        | none, some t => .next (s.regrpTrap cb t)
        | none, none =>
          let s := (s.regrpIssue ca).regrpIssue cb
          let n := if ca.single then 96 else 32
          let order := fuseOrder ca.single ca.mask cb.mask
          if n < order.length then
            let no (c : Ctx) (s : State) : State := s.writeRegs c [⟨.q, c.d, 0, 0⟩]
            .next (no cb (no ca s))
          else
            match s.unit? a, s.unit? b with
            | some (.crew x'), some (.crew y') =>
              if ca.fuseBad order false then .next (s.integrityCheck a (none, 2))
              else if cb.fuseBad order true then .next (s.integrityCheck b (none, 2))
              else if order.isEmpty then .next ((s.retireCrew x').retireCrew y')
              else
                let f := fuseCrew ca.single ca.lr.vregs { ca with u := .crew x' } { cb with u := .crew y' }
                .next ((s.setCrew f).retireCrew y')
            | _, _ => .next s
      | _, _ => .refused .noSuchEvent
    | _, _ => .refused .noSuchEvent
  | _, _ => .refused .noSuchEvent

end Sys2Proof.Machine
end

