-- ==== Sys2Proof/Machine/Limb.lean ====
section
/-! DEFINITION. Limb instructions (R168, R299 to R307) and their landing. -/

namespace Sys2Proof.Machine

/-- A legal segment size for the mode (R300). -/
def limbSizeOk (single : Bool) (n : Nat) : Bool :=
  if single then 2 ≤ n && n ≤ 96 && 96 % n == 0 else [2, 4, 8, 16, 32].contains n

/-- R300. -/
def execLbind (o : Op) (s : State) : Out :=
  s.issue (.lbind o) fun c s =>
    let n := (c.s32 0).toNat
    if !(limbSizeOk c.single n) || c.other.st != .empty || c.crew.bracket.isSome then .trap (ctlTrap 11)
    else if splitsSegment c.single n c.mask then .trap (TrapInfo.of 4 4)
    else .done (s.modCrew c.iss.unit fun x => { x with limbN := n, limbChi := false, limbCarry := 0 })
/-- R300. -/
def execLfree (s : State) : Out :=
  s.issue .lfree fun c s => .done (s.modCrew c.iss.unit fun x => { x with limbN := 0, limbChi := false, limbCarry := 0 })

/-- The acting segments of a bound crew, in ascending order (R301). -/
def Ctx.segments (c : Ctx) : List Nat :=
  let n := c.crew.limbN
  (List.range (segCount c.single n)).filter fun k => c.act &&& segLanes c.single n k != 0

/-- The siblings of a crew's threads. -/
def Ctx.siblings (c : Ctx) : List Nat := if c.single then [0] else [0, 1, 2]

/-- The lane of sibling `s` of a thread. -/
def Ctx.laneAt (c : Ctx) (t s : Nat) : Nat := if c.single then t else 3 * t + s

/-- The value of a segment of a source in sibling `s` (R302). -/
def Ctx.segVal (c : Ctx) (src k s : Nat) : Nat :=
  let n := c.crew.limbN
  (List.range n).foldl (fun a i => a + (c.src32 src (c.laneAt (k * n + i) s)).toNat * 2 ^ (32 * i)) 0

/-- What a limb instruction makes of a segment in a sibling: the limbs for `Vd`, the limb for `Vh`, `out`, and the bit for `Pco`
or `Pd` of each limb. -/
structure SegRes where
  limbs : Option Nat
  high : Option Nat
  out : Option Bool
  preds : Option (List Bool)
  deriving DecidableEq, Repr

/-- What limb `j` of a segment of `n` limbs receives: its word of `Vd`, its predicate bit, and in the top thread the word of `Vh` and
the segment's `out`. -/
def SegRes.limb (r : SegRes) (n j : Nat) : Option Word × Option Word × Option Bool × Option Bool :=
  (r.limbs.map fun v => BitVec.ofNat 32 (v / 2 ^ (32 * j)), if j + 1 = n then r.high.map (BitVec.ofNat 32) else none,
    r.preds.bind fun ps => ps[j]?, if j + 1 = n then r.out else none)

/-- The lowest lane of an acting segment whose siblings' results differ, with the three results in it: of the first of its destinations
that differ (R194, R301, R390). -/
def Ctx.limbMismatch (c : Ctx) (res : Nat → Nat → SegRes) : Option (Nat × (Word × Word × Word)) :=
  let n := c.crew.limbN
  if c.single then none
  else c.segments.findSome? fun k => (List.range n).findSome? fun j =>
    let x (sb : Nat) := (res k sb).limb n j
    let three (f : Nat → Word) : Option (Nat × (Word × Word × Word)) :=
      if f 0 != f 1 || f 0 != f 2 then some (c.laneAt (k * n + j) 0, f 0, f 1, f 2) else none
    (three fun sb => ((x sb).1).getD 0).or ((three fun sb => ((x sb).2.1).getD 0).or
      ((three fun sb => b2w (((x sb).2.2.1).getD false)).or (three fun sb => b2w (((x sb).2.2.2).getD false))))

/-- A limb instruction (R301): its traps, after its sources have become full (log entry 132), its sibling comparison, and its results left
to their landing. `pd` is the predicate it writes. -/
def limbOp (i : Instr) (pd : Ctx → Nat) (f : Ctx → Nat → Nat → SegRes) (s : State) (slow : Bool := false) : Out :=
  s.issue i fun c s =>
    let n := c.crew.limbN
    if n = 0 then .trap (ctlTrap 12)
    else if splitsSegment c.single n c.act then .trap (TrapInfo.of 4 3)
    else
      let res (k sb : Nat) : SegRes := f c k sb
      match c.limbMismatch res with
      | some (l, x) => .mismatch l x
      | none =>
        let ws := c.segments.flatMap fun k => c.siblings.flatMap fun sb =>
          let r := res k sb
          (match r.limbs with
            | some v => (List.range n).map fun j => ⟨.v, c.d, c.laneAt (k * n + j) sb, BitVec.ofNat 32 (v / 2 ^ (32 * j))⟩
            | none => []) ++
          (match r.high with
            | some v => [⟨.v, c.fn, c.laneAt (k * n + n - 1) sb, BitVec.ofNat 32 v⟩]
            | none => []) ++
          (match r.preds with
            | some ps => ps.zipIdx.map fun x => ⟨.p, pd c, c.laneAt (k * n + x.2) sb, b2w x.1⟩
            | none => [])
        let outs := c.segments.filterMap fun k => ((res k 0).out).map fun b => (k, b)
        let (id, s) := s.newId
        let s := s.modUnit c.iss.unit fun u => u.empties ws
        .done { s with flight := { s.flight with limbs := s.flight.limbs ++ [⟨id, c.iss.unit, slow, ws, outs⟩] } }

/-- `Pco`: `out` in the top thread, 0 in the others (R307). -/
def topOut (n : Nat) (out : Bool) : List Bool := (List.range n).map fun j => out && j + 1 == n

/-- The carry in of LADD and LSUB (R302). -/
def Ctx.carryIn (c : Ctx) (k sb : Nat) : Nat :=
  if nbit c.fn 6 then b2n ((c.crew.pget c.op.sc.toNat).getLsbD (c.laneAt (k * c.crew.limbN) sb)) else 0

/-- R302. -/
def execLadd (o : Op) (s : State) : Out :=
  limbOp (.ladd o) (fun c => c.fn % 64) (fun c k sb =>
    let n := c.crew.limbN
    let v := c.segVal 0 k sb + c.segVal 1 k sb + c.carryIn k sb
    let out := decide (2 ^ (32 * n) ≤ v)
    ⟨some (v % 2 ^ (32 * n)), none, some out, some (topOut n out)⟩) s
/-- R302. -/
def execLsub (o : Op) (s : State) : Out :=
  limbOp (.lsub o) (fun c => c.fn % 64) (fun c k sb =>
    let n := c.crew.limbN
    let v : Int := (c.segVal 0 k sb : Int) - c.segVal 1 k sb - c.carryIn k sb
    let out := decide (v < 0)
    ⟨some (wrap (32 * n) v), none, some out, some (topOut n out)⟩) s
/-- R303. -/
def execLmuls (o : Op) (s : State) : Out :=
  limbOp (.lmuls o) (fun _ => 0) (fun c k sb =>
    let n := c.crew.limbN
    let v := c.segVal 0 k sb * (c.src32 1 (c.laneAt (k * n) sb)).toNat + c.segVal 2 k sb
    let hi := v / 2 ^ (32 * n)
    ⟨some (v % 2 ^ (32 * n)), some hi, some (hi != 0), none⟩) s true
/-- R304. -/
def execLshl (o : Op) (s : State) : Out :=
  limbOp (.lshl o) (fun c => c.fn % 64) (fun c k sb =>
    let n := c.crew.limbN
    let a := c.segVal 0 k sb
    let b := (c.s32 1).toNat
    let (v, out) := if 32 * n ≤ b then (0, a != 0) else (a * 2 ^ b % 2 ^ (32 * n), a / 2 ^ (32 * n - b) != 0)
    ⟨some v, none, some out, some (topOut n out)⟩) s
/-- R304. -/
def execLshr (o : Op) (s : State) : Out :=
  limbOp (.lshr o) (fun c => c.fn % 64) (fun c k sb =>
    let n := c.crew.limbN
    let a := c.segVal 0 k sb
    let b := (c.s32 1).toNat
    let (v, out) := if 32 * n ≤ b then (0, a != 0) else (a / 2 ^ b, a % 2 ^ b != 0)
    ⟨some v, none, some out, some (topOut n out)⟩) s
/-- R305. -/
def execLcmp (o : Op) (s : State) : Out :=
  limbOp (.lcmp o) Ctx.d (fun c k sb =>
    ⟨none, none, none, some (List.replicate c.crew.limbN (condInt (c.fn % 8) (c.segVal 0 k sb) (c.segVal 1 k sb)))⟩) s
/-- R306. `.ROT` takes the last segment of 32 threads, or 96 lanes, in a crew of fewer threads too (log entry 132). -/
def execLcarry (o : Op) (s : State) : Out :=
  limbOp (.lcarry o) Ctx.d (fun c k sb =>
    let n := c.crew.limbN
    let last := segCount c.single n - 1
    let from_ : Option Nat := if k = 0 then (if nbit c.fn 0 then some last else none) else some (k - 1)
    let b := match from_ with
      | some j => c.segments.contains j && (c.crew.pget o.sa.toNat).getLsbD (c.laneAt (j * n + n - 1) sb)
      | none => false
    ⟨none, none, none, some ((List.range n).map fun j => b && j == 0)⟩) s

/-- LIMB_LANDING: a limb instruction that has issued lands (R301, R307). -/
def execLimbLanding (id : Nat) (s : State) : Out :=
  match s.flight.limbs.find? fun o => o.id == id with
  | none => .refused .noSuchEvent
  | some o => if s.limbReady o then .next (s.landLimb o) else .refused .noSuchEvent

/-- PRODUCER_FILL: a long-latency producer writes one of its destination lanes and marks it full (R170). -/
def execProducerFill (id lane : Nat) (s : State) : Out :=
  match s.flight.producers.find? fun o => o.id == id with
  | none => .refused .noSuchEvent
  | some o =>
    let now := o.writes.filter fun w => w.lane == lane
    if now.isEmpty then .refused .noSuchEvent
    else
      let rest := o.writes.filter fun w => w.lane != lane
      let ps := s.flight.producers.filterMap fun x =>
        if x.id == id then (if rest.isEmpty then none else some { x with writes := rest }) else some x
      let s := { s with flight := { s.flight with producers := ps } }
      .next (s.modUnit o.unit fun u =>
        let u := u.fills now
        if o.net then u.setScal (u.scal.lower 1) else u)

end Sys2Proof.Machine
end

