-- ==== Sys2Proof/Machine/Platform.lean ====
section
/-! DEFINITION. The host link and the platform: BAR2, CXL, requests of other packages, supply sensors, firmware and attestation (R37, R395 to R397, R403, R415 to R418). -/

namespace Sys2Proof.Machine

open Sys2Proof

/-! ### Accesses from outside (R37, R395 to R397, R414) -/

/-- The byte at a LOCAL address as the host reads it: all ones where nothing stands (R397). -/
def State.hostByte (s : State) (l : Nat) : Byte :=
  let pa := s.ownPa l
  if targetOf (l % 2 ^ 44) == .trigger then
    if 4096 ≤ l % 2 ^ 16 then 0xFF#8
    else if l % 16 < 4 then (tget 0 s.ctrs (ctrIndex pa)).extractLsb' (8 * (l % 16)) 8
    else 0
  else if s.backed pa then tget 0 s.mem pa
  else 0xFF#8

/-- The lines of a run of LOCAL addresses that fail their check (R413). -/
def State.badLines (s : State) (l n : Nat) : List Nat :=
  ((List.range n).map fun k => s.ownPa (l + k) / 64).eraseDups.filter fun line => s.lineBad (64 * line)

/-- The machine-check records for lines that failed at a reader that is no launch's (R414). -/
def State.reportBad (s : State) (lines : List Nat) : State :=
  lines.foldl (fun (s : State) n => s.integrityRecord 0 0 (some (64 * n), s.whereOf (64 * n))) s

/-- The home slices of a run of LOCAL addresses take its lines (R397). -/
def State.takeRun (s : State) (l n : Nat) : State :=
  (((List.range n).map fun k => s.ownPa (l + k) / 64).eraseDups).foldl (fun (s : State) x => s.l2Take (64 * x) Rank.plain) s

/-- The host reads: a line that fails its check is all ones, and the completer aborts (R414). -/
def State.hostRead (s : State) (l n : Nat) : State :=
  let bad := s.badLines l n
  let data := (List.range n).map fun k => if bad.contains (s.ownPa (l + k) / 64) then 0xFF#8 else s.hostByte (l + k)
  let s := (s.takeRun l n).reportBad bad
  { s with outputs := s.outputs ++ (.hostRead data :: if bad.isEmpty then [] else [.hostAbort]) }

/-- The host writes: dropped where nothing stands; a write of 4 or 8 bytes to a trigger counter raises it (R35, R397). -/
def State.hostWrite (s : State) (l : Nat) (data : List Byte) : State :=
  let pa := s.ownPa l
  if targetOf (l % 2 ^ 44) == .trigger then
    if l % 16 = 0 && l % 2 ^ 16 < 4096 && (data.length = 4 || data.length = 8) then
      s.raiseCtr (ctrIndex pa) (BitVec.ofNat 32 (leNat (data.take 4)))
    else s
  else data.zipIdx.foldl (fun (s : State) x =>
    let a := s.ownPa (l + x.2)
    if s.backed a && targetOf (paLocal a) != .trigger then s.l2Write a [x.1] else s) s

/-- BAR2_ACCESS (R397): what lies beyond the window, and a write whose data has another length, reaches no memory. -/
def execBar2Access (off n : Nat) (data : Option (List Byte)) (s : State) : Out :=
  let l := s.plat.apwin.toNat * 2 ^ 30 + off
  if n = 0 || 2 ^ 30 < off + n then .next s
  else match data with
    | none => .next (s.hostRead l n)
    | some bs => .next (if bs.length = n then s.hostWrite l bs else s)

/-- The lines that the host holds from now on, or no longer. -/
def State.hostHolds (s : State) (l n : Nat) (holds : Bool) : State :=
  let lines := ((List.range n).map fun k => s.ownPa (l + k) / 64).eraseDups
  let others := s.plat.hostLines.filter fun x => !(lines.contains x)
  { s with plat := { s.plat with hostLines := if holds then lines ++ others else others } }

/-- CXL_MEM_ACCESS (R395): offered from revision 3 on, for the installed tier-2 memory. A line that the host has read it may hold, until
it writes it back or the device invalidates it. -/
def execCxlMemAccess (addr n : Nat) (data : Option (List Byte)) (s : State) : Out :=
  let l := 0x010000000000 + addr
  if n = 0 || s.plat.cxlRev < 3 || bits s.plat.unitcnt.toNat 20 12 * 2 ^ 30 < addr + n then .next s
  else match data with
    | none => .next ((s.hostRead l n).hostHolds l n true)
    | some bs => .next (if bs.length = n then (s.hostHolds l n false).hostWrite l bs else s)

/-- HOST_SNOOP (R396): the home slice answers for a line of host memory, with its data when it holds the line, which it writes back when
dirty; a line that fails its check is not sent (R413, R414). With `write` the host takes the line for a write of its own, and the slice
gives it up. -/
def execHostSnoop (snoop : Snoop) (s : State) : Out :=
  if 2 ^ 37 ≤ snoop.line then .next s
  else
    let pa := s.hostPa (64 * snoop.line)
    let held := (s.l2Find (pa / 64)).isSome
    let data := if held && !(s.lineBad pa) then s.rdMem pa 64 else []
    let t : State := if held && s.lineBad pa then s.reportBad [pa / 64] else s
    let t : State := { t with outputs := t.outputs ++ [.snoopAnswer snoop.line data] }
    .next (match snoop.write, t.l2Find (pa / 64) with
      | some bs, some x => (if s.lineBad pa then t.l2Drop (pa / 64) else t.l2Evict x).wrMem pa (bs.take 64)
      | some bs, none => t.wrMem pa (bs.take 64)
      | none, some x => if x.dirty && !(s.lineBad pa) then t.setL2 (t.caches.l2.map fun y => if y.line == x.line then { y with dirty := false, under := none } else y) else t
      | none, none => t)

/-- REMOTE_READ_REQUEST (R37 to R39, R117, R407): answered with no data where this package has no storage or a line fails its check; an
atomic read is a packet of a stream. -/
def execRemoteReadRequest (src addr n : Nat) (atomic : Option Packet) (s : State) : Out :=
  match atomic with
  | some p => .next (s.takePacket p true)
  | none =>
    if src = s.pkg || !(s.inDomain src) then .next s
    else
      let answer (s : State) (d : List Byte) : State := { s with outputs := s.outputs ++ [.remoteRead src d] }
      let pas := (List.range n).map fun k => s.ownPa (addr + k)
      let bad := s.badLines addr n
      if !(pas.all s.servable) then .next (answer s [])
      else if bad.isEmpty then .next (answer (s.takeRun addr n) (pas.map fun pa => tget 0 s.mem pa))
      else .next (answer (s.reportBad bad) [])

/-! ### The links' training and the supply (R395, R416) -/

/-- The widest of the widths that both ends support (R395). -/
def linkWidth (host : Nat) : Nat := if 16 ≤ host then 16 else if 8 ≤ host then 8 else if 4 ≤ host then 4 else 0

/-- CXL_LINK_TRAINING (R395): the highest revision, rate and width of both ends. -/
def execCxlLinkTraining (hostRev hostRate hostWidth : Nat) (s : State) : Out :=
  let rev := min 4 hostRev
  let width := linkWidth hostWidth
  if rev < 2 || width = 0 then .next { s with plat := { s.plat with cxlRev := 0, cxlRate := 0, cxlWidth := 0 } }
  else .next { s with plat := { s.plat with cxlRev := rev, cxlRate := min (Config.linkRate rev) hostRate, cxlWidth := width } }

/-- SUPPLY_DROOP (R416): a die the part does not have has no sensors. -/
def execSupplyDroop (die : Nat) (s : State) : Out :=
  .next (if 4 ≤ die then s else { s with plat := { s.plat with droop := setBit s.plat.droop die true } })

/-- SUPPLY_RECOVERY (R416). -/
def execSupplyRecovery (die : Nat) (s : State) : Out :=
  .next (if 4 ≤ die then s else { s with plat := { s.plat with droop := setBit s.plat.droop die false } })

/-! ### Firmware (R403, R415, R417, R418) -/

/-- The words of a table by package. -/
def tableOf (mask : DWord) (ws : List DWord) : Tab DWord :=
  (ws.take 256).zipIdx.foldl (fun t x => tset 0 t x.2 (x.1 &&& mask)) []

/-- What firmware writes. -/
def State.configure (s : State) (c : FwConfig) : State :=
  let unitcnt := c.unitcnt &&& 0xFFFFFFF0FFFFFFFF#64
  { s with
    plat := { s.plat with
      step := c.step, pkgnum := c.pkgnum, unitcnt := unitcnt, corecnt0 := c.corecnt0, corecnt1 := c.corecnt1 &&& 0xFFFFFFFF#64 }
    fab := { s.fab with
      route := tableOf 0x1FFFF#64 c.routes, clmap := tableOf 0xFFFFFFFFFFFF#64 c.clmaps
      links := s.fab.links.mapIdx fun k l => { l with en := unitcnt.getLsbD (48 + k) } } }

/-- The words that measurement block 9 covers. -/
def State.configWords (s : State) : List Nat :=
  ((List.range 256).flatMap fun p => [(tget 0 s.fab.route p).toNat, (tget 0 s.fab.clmap p).toNat]) ++ [s.plat.unitcnt.toNat]

/-- FIRMWARE_BOOT (R417, R418): every image must be signed and no older than the fuses; otherwise the part stays in recovery. It boots once. -/
def execFirmwareBoot (images : List FwImage) (cfg : FwConfig) (s : State) : Out :=
  if s.plat.booted || s.plat.recovery then .next s
  else if images.isEmpty || images.any fun i => !i.signed || i.version < s.plat.fuse then
    .next { s with plat := { s.plat with recovery := true } }
  else
    let s := s.configure cfg
    let fuse := images.foldl (fun n i => if i.raises then max n i.version else n) s.plat.fuse
    let version := ((images.getLast?).map FwImage.version).getD 0
    let blocks := (images.take 8).zipIdx.foldl (fun t x => tset 0 t (x.2 + 1) x.1.digest) []
    .next { s with plat := { s.plat with
      booted := true, fuse := fuse, fwsvn := BitVec.ofNat 16 version
      measurements := tset 0 blocks 9 (Config.configDigest s.configWords) } }

/-! ### Attestation (R418) -/

/-- An answer, and the phase of the exchange after it. -/
def State.spdmAnswer (s : State) (phase code : Nat) (data : List Nat) : State :=
  { s with plat := { s.plat with spdmPhase := phase }, outputs := s.outputs ++ [.spdm code data] }

/-- An error answer. -/
def State.spdmError (s : State) : State := s.spdmAnswer s.plat.spdmPhase 0x7F []

/-- A certificate slot holds a chain: slot 0 always, the others once they have been provisioned. -/
def State.certHeld (s : State) (slot : Nat) : Bool := slot = 0 || s.plat.certs.any fun x => x.1 == slot

/-- SPDM_REQUEST (R418): version, capabilities and algorithms in turn; every authenticated request is an error unless the device's
extended algorithm has been negotiated. Response codes are those of SPDM (log entry 22). -/
def execSpdmRequest (req : SpdmRequest) (s : State) : Out :=
  let phase := s.plat.spdmPhase
  let auth (ok : Bool) (go : State) : Out := .next (if phase = 3 && ok then go else s.spdmError)
  match req with
  | .getVersion => .next (s.spdmAnswer 1 0x04 [0x12, 0x13])
  | .getCapabilities => .next (if phase = 1 then s.spdmAnswer 2 0x61 [] else s.spdmError)
  | .negotiateAlgorithms ext => .next (if phase = 2 then s.spdmAnswer (if ext then 3 else 4) 0x63 [b2n ext] else s.spdmError)
  | .getDigests => auth true (s.spdmAnswer 3 0x01 ((List.range 8).filter s.certHeld))
  | .getCertificate slot => auth (slot < 8 && s.certHeld slot) (s.spdmAnswer 3 0x02 [tget 0 s.plat.certs slot])
  | .setCertificate slot chain =>
    let t : State := { s with plat := { s.plat with certs := tset 0 s.plat.certs slot chain } }
    auth (1 ≤ slot && slot < 8) (t.spdmAnswer 3 0x6E [slot])
  | .challenge slot => auth (slot < 8 && s.certHeld slot) (s.spdmAnswer 3 0x03 [slot])
  | .getMeasurements block =>
    let get (k : Nat) : Nat := tget 0 s.plat.measurements k
    if block = 0 then auth true (s.spdmAnswer 3 0x60 [9])
    else if block = 255 then auth true (s.spdmAnswer 3 0x60 ((List.range 9).map fun k => get (k + 1)))
    else auth (block ≤ 9) (s.spdmAnswer 3 0x60 [get block])

/-! ### Check values that go bad (R413) -/

/-- A line of memory goes bad where it lies: beneath its slice, when that holds the line. -/
def State.strikeMemory (s : State) (line : Nat) : State :=
  match s.l2Find line with
  | none => if s.backed (64 * line) && targetOf (paLocal (64 * line)) != .trigger then s.markBad line else s
  | some x =>
    let bytes := match x.under with
      | some u => u.1
      | none => s.rdMem (64 * line) 64
    s.setL2 (s.caches.l2.map fun y => if y.line == line then { y with under := some (bytes, BitVec.allOnes 64) } else y)

/-- A line of a slice goes bad there; memory beneath it keeps what it held. -/
def State.strikeSlice (s : State) (line : Nat) : State :=
  match s.l2Find line with
  | none => s
  | some x =>
    let under := x.under.or (some (s.rdMem (64 * line) 64, tget 0 s.checks line))
    (s.setL2 (s.caches.l2.map fun y => if y.line == line then { y with upset := true, under := under } else y)).markBad line

/-- A line of host memory that was not forwarded: memory holds what it held beneath it, which its slice covers where it has taken the
line and written it since (log entry 122). -/
def State.strikeDropped (s : State) (line : Nat) (bytes : List Byte) (check : BitVec 64) : State :=
  if ((s.l2Find line).map L2Line.dirty).getD false then
    s.setL2 (s.caches.l2.map fun y => if y.line == line then { y with under := some (bytes, check) } else y)
  else { s with mem := putBytes s.mem (64 * line) bytes, checks := tset 0 s.checks line check }

/-- A check value goes bad, or one that has failed shows (R413); where no such data is held nothing happens. -/
def State.strike (s : State) (u : Upset) : State :=
  let cs := s.caches
  match u with
  | .memory line => s.strikeMemory line
  | .l2 line => s.strikeSlice line
  | .l1 c n => s.setL1 (cs.l1.map fun x => if x.cache == c && x.line == n then { x with bad := true } else x)
  | .instr c a n =>
    { s with caches := { cs with il := cs.il.map fun x => if x.cache == c && x.asid == a && x.line == n then { x with bad := true } else x } }
  | .walk d a l k =>
    { s with caches := { cs with walkCache := cs.walkCache.map fun x =>
      if x.die == d && x.asid == a && x.level == l && x.key == k then { x with bad := true } else x } }
  | .pool i g w acc n => s.modWg i g w fun x =>
    if acc then { x with accBad := tset 0 x.accBad n (BitVec.allOnes 64) } else { x with spBad := tset 0 x.spBad n (BitVec.allOnes 64) }
  | .registers i g w c n =>
    if 128 + 6 * (s.lrec i).vregs ≤ n then s
    else s.modCrew (.crew i g w c) fun x => { x with regBad := tset 0 x.regBad n (BitVec.allOnes 16) }
  | .control i g w => s.modWg i g w fun x => { x with ctlBad := true }
  | .cimMacro cl co n => if 16384 ≤ n then s else s.setMatrix { s.matrix cl co with macBad := n :: (s.matrix cl co).macBad }
  | .rows cl co n => if 1024 ≤ n then s else s.setMatrix { s.matrix cl co with rowBad := n :: (s.matrix cl co).rowBad }
  | .copy id => { s with eng := { s.eng with copies := s.eng.copies.map fun q => if q.id == id then { q with upset := true } else q } }
  | .post k => { s with eng := { s.eng with posts := s.eng.posts.map fun p => if p.slot == k then { p with upset := true } else p } }
  | .unsent i source pa wher =>
    let s := s.integrityRecord i source (some pa, wher)
    if i = 0 then s else s.endLaunch i
  | .dropped line bytes check wher => (s.strikeDropped line bytes check).integrityRecord 0 0 (some (64 * line), wher)

end Sys2Proof.Machine
end

