-- ==== Sys2Proof/Machine/Registers.lean ====
section
/-! DEFINITION. The register space of BAR0 (R8, R397): what each register reads as, and what a write of it does (R49, R50, R54, R61, R63, R72, R78, R366, R399, R401, R404, R415, R420, R421, R425, R426). -/

namespace Sys2Proof.Machine

open Sys2Proof

/-- A register by its name. -/
inductive Reg where
  | ident | apwin | unitcnt | corecnt0 | corecnt1
  /-- Word 0 base, 1 control, 2 put, 3 get, 4 status of a ring. -/
  | ring (i : RingId) (k : Nat)
  | asctx (n k : Nat)
  | replayAddr | replayCmd | replayStat
  | invAddr | invCmd | invStat
  /-- Word 0 source, 1 destination, 2 control, 3 status of a migration slot. -/
  | mig (slot k : Nat)
  | preemptGang | preemptCmd | preemptStat
  /-- Word 0 base, 1 control, 2 tail, 3 head of a submission queue. -/
  | queue (q k : Nat)
  | route (p : Nat) | clmap (p : Nat) | linkStat (i : Nat)
  | etoCtl | staleCnt | drainCmd | drainStat | idtab (n : Nat)
  | dumpBase | mbCmd (k : Nat) | mbDoor | mbStat
  | dbgCtl (pid : Nat) | dbgStat (pid : Nat) | abp (pid n : Nat) | counter (pid k : Nat)
  | watch (n k : Nat)
  deriving DecidableEq, Repr

/-- The register at an offset of the platform block. -/
def platformReg (o : Nat) : Option Reg :=
  if o = 0x00 then some .ident
  else if o = 0x08 then some .apwin
  else if o = 0x10 then some .unitcnt
  else if o = 0x18 then some .corecnt0
  else if o = 0x20 then some .corecnt1
  else if 0x100 ≤ o && o ≤ 0x120 then some (.ring .machineCheck ((o - 0x100) / 8))
  else if 0x140 ≤ o && o ≤ 0x160 then some (.ring .signal ((o - 0x140) / 8))
  else none

/-- The register at an offset of the translation block (R49). -/
def xlatReg (o : Nat) : Option Reg :=
  if o < 0x800 then some (.asctx (o / 32) (o % 32 / 8))
  else if o ≤ 0x820 then some (.ring .fault ((o - 0x800) / 8))
  else if 0x840 ≤ o && o ≤ 0x860 then some (.ring .access ((o - 0x840) / 8))
  else if o = 0x880 then some .replayAddr
  else if o = 0x888 then some .replayCmd
  else if o = 0x890 then some .replayStat
  else if o = 0x8C0 then some .invAddr
  else if o = 0x8C8 then some .invCmd
  else if o = 0x8D0 then some .invStat
  else if 0x900 ≤ o && o < 0xB00 then some (.mig ((o - 0x900) / 32) (o % 32 / 8))
  else none

/-- The register at an offset of the dealer's block (R366, R401). -/
def dealerReg (o : Nat) : Option Reg :=
  if o = 0x00 then some .preemptGang
  else if o = 0x08 then some .preemptCmd
  else if o = 0x10 then some .preemptStat
  else if 0x1000 ≤ o && o < 0x2000 then some (.queue ((o - 0x1000) / 32) (o % 32 / 8))
  else none

/-- The register at an offset of the fabric block (R404). -/
def fabricReg (o : Nat) : Option Reg :=
  if o < 0x800 then some (.route (o / 8))
  else if o < 0x1000 then some (.clmap ((o - 0x800) / 8))
  else if o < 0x1080 then some (.linkStat ((o - 0x1000) / 8))
  else if o = 0x1080 then some .etoCtl
  else if o = 0x1088 then some .staleCnt
  else if o = 0x1090 then some .drainCmd
  else if o = 0x1098 then some .drainStat
  else if 0x2000 ≤ o && o < 0x4000 then some (.idtab ((o - 0x2000) / 8))
  else none

/-- The register at an offset of a partition block (R421, R428). -/
def partReg (pid o : Nat) : Option Reg :=
  if o = 0 then some (.dbgCtl pid)
  else if o = 8 then some (.dbgStat pid)
  else if o < 0x30 then some (.abp pid ((o - 0x10) / 8))
  else if 0x40 ≤ o && o ≤ 0x88 then some (.counter pid ((o - 0x40) / 8))
  else none

/-- The register at an offset of the debug block (R420). -/
def debugReg (o : Nat) : Option Reg :=
  if o ≤ 0x20 then some (.ring .debug (o / 8))
  else if o = 0x40 then some .dumpBase
  else if 0x80 ≤ o && o < 0xC0 then some (.mbCmd ((o - 0x80) / 8))
  else if o = 0xC0 then some .mbDoor
  else if o = 0xC8 then some .mbStat
  else if 0x10000 ≤ o && o < 0x90000 then partReg ((o - 0x10000) / 256) (o % 256)
  else if 0x90000 ≤ o && o < 0x90200 then some (.watch ((o - 0x90000) / 32) (o % 32 / 8))
  else none

/-- The register at an offset of BAR0 (R397). -/
def regAt (o : Nat) : Option Reg :=
  if o % 8 ≠ 0 then none
  else if o < 0x10000 then platformReg o
  else if o < 0x20000 then xlatReg (o - 0x10000)
  else if o < 0x30000 then dealerReg (o - 0x20000)
  else if o < 0x40000 then fabricReg (o - 0x30000)
  else if 0x100000 ≤ o && o < 0x1000000 then debugReg (o - 0x100000)
  else none

/-! ### Reading -/

/-- A field at a bit position. -/
def fieldAt (v lo : Nat) : Nat := v * 2 ^ lo

/-- Units that hold records (R61): by SOURCE of a fault and of a machine-check record, by SLOT of a signal. -/
def heldUnits (i : RingId) (held : List (List Byte)) : Nat :=
  let unit (b : List Byte) : Nat := match i with
    | .fault => fldAt b 36 4
    | .signal => fldAt b 8 2
    | _ => fldAt b 4 4
  ((held.map unit).eraseDups).length

/-- What a word of a ring's registers reads as (R61, R78, R420). -/
def ringRead (i : RingId) (r : Ring) (k : Nat) : Nat :=
  match k with
  | 0 => r.base.toNat
  | 1 => fieldAt (b2n r.en) 63 + r.log2size.toNat
  | 2 => r.put.toNat
  | 3 => r.get.toNat
  | _ => match i with
    | .access => min r.drop (2 ^ 32 - 1)
    | .debug => fieldAt (min r.drop 65535) 32 + b2n r.full
    | _ => fieldAt (min (heldUnits i r.held) 65535) 32 + b2n r.full

/-- What a register reads as; WO fields and reserved bits read zero (R8). A W1S command bit reads 0 as soon as it has been written, which is
the model's reading (log entry 126). -/
def State.regRead (s : State) (g : Reg) : DWord :=
  BitVec.ofNat 64 <| match g with
  | .ident => fieldAt 0x9603 32 + fieldAt s.plat.step.toNat 16 + s.plat.fwsvn.toNat
  | .apwin => fieldAt s.plat.apwin.toNat 30
  | .unitcnt => s.plat.unitcnt.toNat
  | .corecnt0 => s.plat.corecnt0.toNat
  | .corecnt1 => s.plat.corecnt1.toNat
  | .ring i k => ringRead i (s.ring i) k
  | .asctx n k => (tget 0 s.xlat.asctx (4 * n + k)).toNat
  | .replayAddr => s.xlat.replayAddr.toNat
  | .replayCmd | .invCmd | .preemptCmd | .drainCmd | .mbDoor => 0
  | .replayStat => fieldAt s.xlat.nrskip.toNat 32 + fieldAt (b2n s.xlat.badCmd) 1
  | .invAddr => s.xlat.invAddr.toNat
  | .invStat => fieldAt (b2n s.xlat.invDropped) 1 + b2n s.xlat.invBusy.isSome
  | .mig n k => match s.xlat.migs[n]?, k with
    | some m, 0 => m.src.toNat
    | some m, 1 => m.dst.toNat
    | some m, 3 => fieldAt m.state.toNat 60 + m.line.toNat
    | _, _ => 0
  | .preemptGang => s.dealer.preemptGang.toNat
  | .preemptStat => fieldAt (b2n s.dealer.preemptNotFound) 1 + b2n s.preemptBusy
  | .queue n k => match s.dealer.queues[n]?, k with
    | some q, 0 => fieldAt q.base 12
    | some q, 1 => fieldAt (b2n q.en) 63 + fieldAt (b2n q.ovr) 15 + fieldAt q.asid.toNat 8 + q.log2size.toNat
    | some q, 2 => q.tail.toNat
    | some q, _ => q.head.toNat
    | none, _ => 0
  | .route p => (tget 0 s.fab.route p).toNat
  | .clmap p => (tget 0 s.fab.clmap p).toNat
  | .linkStat n => match s.fab.links[n]? with
    | some l => fieldAt l.retry.toNat 32 + fieldAt l.gen 1 + b2n l.en
    | none => 0
  | .etoCtl => fieldAt s.fab.retryMax.toNat 32 + s.fab.eto.toNat
  | .staleCnt => s.fab.stale.toNat
  | .drainStat => b2n (!s.fab.draining.isEmpty)
  | .idtab n => (tget 0 s.fab.idtab n).toNat
  | .dumpBase => s.dbg.dumpBase.toNat
  | .mbCmd k => ((s.dbg.mbCmd[k]?).getD 0).toNat
  | .mbStat => fieldAt s.dbg.mbResult.toNat 8 + b2n s.dbg.mbBusy
  | .dbgCtl pid =>
    let d := s.part pid
    fieldAt d.place.toNat 58 + fieldAt (b2n d.claim) 57 + fieldAt (b2n d.sample) 56 + fieldAt d.sper.toNat 51
  | .dbgStat pid =>
    let d := s.part pid
    fieldAt (b2n d.halted) 63 + fieldAt d.why.toNat 59 + fieldAt d.num.toNat 55 + fieldAt d.tag.toNat 48 + fieldAt d.cplace.toNat 45
  | .abp pid n => (((s.part pid).abp[n]?).getD 0).toNat
  | .counter pid k => (((s.part pid).counters[k]?).getD 0).toNat
  | .watch n k => match s.dbg.watches[n]?, k with
    | some w, 0 => w.w0.toNat
    | some w, 1 => w.w1.toNat
    | some w, 2 => w.w2.toNat
    | some _, _ => b2n (s.eng.copies.any fun q => q.phase == .watched n)
    | none, _ => 0

/-! ### Writing -/

/-- A command's next state; where the command does not apply, nothing changes. -/
def State.orStay (s : State) (o : Out) : State :=
  match o with
  | .next s => s
  | _ => s

/-- A write of a word of a ring's registers (R61, R78, R420). -/
def State.ringRegWrite (s : State) (i : RingId) (k : Nat) (v : DWord) : State :=
  let r := s.ring i
  match k with
  | 0 => s.setRing i { r with base := v &&& 0xFFFFFFFFFFFFF000#64 }
  | 1 => s.setRing i { r with en := v.getLsbD 63, log2size := v.extractLsb' 0 5 }
  | 3 => s.setRing i { r with get := v.extractLsb' 0 32 }
  | 4 => if i != .access && v.getLsbD 0 then s.setRing i { r with full := false } else s
  | _ => s

/-- A write of a word of ASCTX: its RW bits; a ROOT that comes with the first enabling is in use from then on (R50, log entry 110). -/
def State.asctxWrite (s : State) (n k : Nat) (v : DWord) : State :=
  let mask : DWord := match k with
    | 0 => 0x000FFFFFFFFFF001#64
    | 1 => 0x800FFFFF0FFF00FF#64
    | 2 => 0x000000009F9F0000#64
    | _ => 0
  let s : State := { s with xlat := { s.xlat with asctx := tset 0 s.xlat.asctx (4 * n + k) (v &&& mask) } }
  if k = 0 && !(s.xlat.roots.any fun x => x.1 == n) then s.takeRoot n else s

/-- A write of a migration slot's word (R72). -/
def State.migWrite (s : State) (n k : Nat) (v : DWord) : State :=
  match s.xlat.migs[n]? with
  | none => s
  | some m =>
    match k with
    | 0 => s.setMig n { m with src := v &&& 0x3FFFFFFFFFFF0000#64 }
    | 1 => s.setMig n { m with dst := v &&& 0x000FFFFFFFFF0000#64 }
    | 2 => s.orStay (execMigrate n v s)
    | _ => s

/-- A write of a submission queue's word (R366). -/
def State.queueWrite (s : State) (n k : Nat) (v : DWord) : State :=
  match s.dealer.queues[n]? with
  | none => s
  | some q =>
    let put (q : SubQueue) : State := { s with dealer := { s.dealer with queues := s.dealer.queues.set n q } }
    match k with
    | 0 => put { q with base := bits v.toNat 12 40 }
    | 1 => put { q with en := v.getLsbD 63, ovr := q.ovr && !(v.getLsbD 15), asid := v.extractLsb' 8 6, log2size := v.extractLsb' 0 5 }
    | 2 => s.orStay (execSubmissionTailWrite n v s)
    | _ => s

/-- A write of INVCMD (R54). -/
def State.invWrite (s : State) (v : DWord) : State :=
  if !(v.getLsbD 63) then s
  else match bits v.toNat 60 3 with
    | 0 => s.startInv 0 (bits v.toNat 0 32)
    | 1 => s.startInv 1 0
    | 2 => s.startInv 2 0
    | _ => { s with xlat := { s.xlat with invDropped := true } }

/-- A write of DBGCTL (R421): its RW fields, then CTRCLR, STOP, RESUME and STEP. -/
def State.dbgWrite (s : State) (pid : Nat) (v : DWord) : State :=
  if !(s.pidExists pid) then s
  else
    let s := s.setPart pid { s.part pid with
      place := v.extractLsb' 58 3, claim := v.getLsbD 57, sample := v.getLsbD 56, sper := v.extractLsb' 51 5 }
    let s := if v.getLsbD 50 then s.orStay (execCtrclr pid s) else s
    let s := if v.getLsbD 63 then s.orStay (execDbgStop pid s) else s
    let s := if v.getLsbD 62 then s.orStay (execDbgResume pid s) else s
    if v.getLsbD 61 then s.orStay (execDbgStep pid s) else s

/-- A write of MBDOOR (R426): the command starts, or is refused as a bad one; ignored while BUSY. -/
def State.doorWrite (s : State) (v : DWord) : State :=
  if !(v.getLsbD 0) || s.dbg.mbBusy then s
  else
    let op := fldAt s.mailbox 0 1
    if op = 1 || op = 2 then { s with dbg := { s.dbg with mbBusy := true } } else s.mbDone 2

/-- A write of a watchpoint's word (R425). -/
def State.watchWrite (s : State) (n k : Nat) (v : DWord) : State :=
  match s.dbg.watches[n]? with
  | none => s
  | some w =>
    let put (w : Watch) : State := { s with dbg := { s.dbg with watches := s.dbg.watches.set n w } }
    match k with
    | 0 => put { w with w0 := v }
    | 1 => put { w with w1 := v &&& 0xC0FFFFFFFFFFFFFF#64 }
    | 2 => put { w with w2 := v }
    | _ => if v.getLsbD 63 then s.orStay (execWatchResume n s) else s

/-- A write of a register: each field by its access code (R8); a command register starts its command. -/
def State.regWrite (s : State) (g : Reg) (v : DWord) : State :=
  match g with
  | .apwin => { s with plat := { s.plat with apwin := v.extractLsb' 30 14 } }
  | .ring i k => s.ringRegWrite i k v
  | .asctx n k => s.asctxWrite n k v
  | .replayAddr => { s with xlat := { s.xlat with replayAddr := v &&& 0x3FFFFFFFFFFF0000#64 } }
  | .replayCmd => s.command v
  | .replayStat => if v.getLsbD 1 then { s with xlat := { s.xlat with badCmd := false } } else s
  | .invAddr => { s with xlat := { s.xlat with invAddr := v &&& 0x3FFFFFFFFFFF0000#64 } }
  | .invCmd => s.invWrite v
  | .invStat => if v.getLsbD 1 then { s with xlat := { s.xlat with invDropped := false } } else s
  | .mig n k => s.migWrite n k v
  | .preemptGang => { s with dealer := { s.dealer with preemptGang := v.extractLsb' 0 32 } }
  | .preemptCmd => s.preemptWrite v
  | .preemptStat => if v.getLsbD 1 then { s with dealer := { s.dealer with preemptNotFound := false } } else s
  | .queue n k => s.queueWrite n k v
  | .etoCtl => { s with fab := { s.fab with retryMax := v.extractLsb' 32 8, eto := v.extractLsb' 0 32 } }
  | .drainCmd => if v.getLsbD 63 then s.orStay (execDrain s) else s
  | .idtab n => s.orStay (execIdtabWrite n v s)
  | .dumpBase => { s with dbg := { s.dbg with dumpBase := v &&& 0xFFFFFFFFFFFFF001#64 } }
  | .mbCmd k => { s with dbg := { s.dbg with mbCmd := s.dbg.mbCmd.set k v } }
  | .mbDoor => s.doorWrite v
  | .dbgCtl pid => s.dbgWrite pid v
  | .abp pid n =>
    if s.pidExists pid then s.setPart pid { s.part pid with abp := (s.part pid).abp.set n (v &&& 0xBFFFFFFFFFFFFFFC#64) } else s
  | .watch n k => s.watchWrite n k v
  | .ident | .unitcnt | .corecnt0 | .corecnt1 | .route _ | .clmap _ | .linkStat _ | .staleCnt | .drainStat | .mbStat | .dbgStat _
  | .counter _ _ => s

/-- REGISTER_WRITE (R8, R397): at an offset with no register nothing changes. -/
def execRegisterWrite (off : Nat) (value : BitVec 64) (s : State) : Out :=
  match regAt off with
    | some g => .next (s.regWrite g value)
    | none => .next s

end Sys2Proof.Machine
end

