-- ==== Sys2Proof/Machine/Sweep.lean ====
section
/-! DEFINITION. Tensor-iterator sweeps (R276 to R279). -/

namespace Sys2Proof.Machine

open Sys2Proof

/-- A field of a record. -/
def recNat (r : List Byte) (off n : Nat) : Nat := leNat ((r.drop off).take n)

/-- A signed 32-bit field. -/
def recInt32 (r : List Byte) (off : Nat) : Int := signed 32 (recNat r off 4)

/-- The SZF code of a sweep's type. -/
def sweepSzf (ty : Nat) : Nat := if ty = tyF16 then 8 else if ty = tyBF16 then 9 else 10

/-- A source B is read by the operation (R276). -/
def sweepB (op : Nat) : Bool := op != 0 && op != 5

/-- The status of a sweep record that is not run (R278): none when it is; of several defects the lowest (log entry 131). -/
def sweepStatus (r : List Byte) : Option Nat :=
  let op := recNat r 0 1
  let ext (k : Nat) : Nat := recNat r (40 + 4 * k) 4
  let badExt (n : Nat) : Bool := n == 0 || decide (2 ^ 24 < n)
  let priv (off : Nat) : Bool := aperture (recNat r off 8) == .priv
  if recNat r 1 7 ≠ 0 || recNat r 12 4 ≠ 0 || recNat r 76 4 ≠ 0 then some 1
  else if 5 < op then some 2
  else if badExt (ext 0) || badExt (ext 1) || badExt (ext 2) || 2 ^ 32 < ext 0 * ext 1 * ext 2 then some 3
  else if priv 16 || (sweepB op && priv 24) || priv 32 then some 4
  else none

/-- The address of element `e` at an end: base, step of dimension 0, strides (R276, R277). -/
def sweepAddr (r : List Byte) (base strides step e : Nat) : Int :=
  let e0 := recNat r 40 4
  let e1 := recNat r 44 4
  (recNat r base 8 : Int) + ((e % e0) * step : Nat) + (e / e0 % e1 : Nat) * recInt32 r strides +
    (e / e0 / e1 : Nat) * recInt32 r (strides + 4)

/-- The bytes by which dimension 0 steps at an end: the storage size of an element at the base address (R276); none while the page
of a global base is not known. -/
def Ctx.sweepStep (c : Ctx) (s : State) (q : Req) (base : Nat) : Option Nat :=
  match aperture base with
  | .global =>
    if c.tripleFloat q then match c.pageOf s base with
      | some (.ok _ _ sf _ _ _) => some ((tripleForm q.szf sf).size q.szf)
      | _ => none
    else some (szfSize q.szf)
  | _ => some ((c.spForm q).size q.szf)

/-- One byte as a load of the unit reads it now: through the L1, or with its stores on the way (R89, R125). -/
def State.readByteNow (s : State) (cache : Nat) (l : Loc) (normal : Bool) : Byte :=
  match l with
  | .mem pa =>
    match (if normal then s.l1Find cache (pa / 64) else none) with
    | some x => x.data.getD (pa % 64) 0
    | none => ((s.overlay cache pa [tget 0 s.mem pa]).head?).getD 0
  | l => s.rdLoc l 0

/-- The bytes of one element read at once, as a load of default policy, and a line that fails its check (R77, R89, R312, R414). -/
def Ctx.readNow (c : Ctx) (s : State) (x : Found) : (List Byte × Option (Option Nat × Nat)) × State :=
  let cache := s.cacheOf c.iss.unit
  match aperture x.a.addr with
  | .scratchpad => ((s.rdLocs x.locs, s.badLine x.locs), s)
  | .priv =>
    let ((bs, bad), s) := s.privReads cache (x.locs.zip ((c.vaBytes s x.q x.a).map c.backing))
    ((bs, bad.map fun pa => (some pa, 0)), s)
  | _ =>
    let near := x.normalLines
    let held (n : Nat) : Bool := near.contains n && (s.l1Find cache n).isSome
    let away := x.locs.filter fun l => !((l.line.map held).getD false)
    let bad := ((s.l1Bad cache (x.locs.filter fun l => l.within near)).map fun pa => (some pa, 0)).or (s.badLine away)
    let s := s.reachLines c.lr.asid (s.clusterOf c.iss.unit) ((c.vaPas s x).filter fun y => !(held (y.2 / 64))) Rank.plain
    let s := s.askLines away
    let s := near.foldl (fun s n =>
      if s.mayFill cache n then s.fillLine cache n else s.l1Touch cache n) s
    ((x.locs.map fun l => s.readByteNow cache l (l.within near), bad), s)

/-- The result of one element in a lane, with its flags (R276, R277). -/
def sweepValue (f : Fmt) (d : Dir) (op scal a b : Nat) : Nat × Nat :=
  match op with
  | 0 => (a, 0)
  | 1 => f.add d a b
  | 2 => f.mul d a b
  | 3 => f.fma d a scal b
  | 4 => f.minMax true a b
  | _ => f.mul d a scal

/-- SCAL as an operand of a sweep's type, with the flags of its conversion (R174, R191, R276). -/
def sweepScal (f : Fmt) (d : Dir) (op scal : Nat) : Nat × Nat :=
  let (v, fl) := f.ofFV d (f32.decode scal)
  (v, if op == 3 || op == 5 then fl else 0)

/-- The accesses of one element: A, B where it is read, and D. -/
structure Elem where
  thread : Nat
  a : Acc
  b : Option Acc
  d : Acc
  deriving DecidableEq, Repr

def Elem.mask (x : Elem) : Mask := maskOf x.a.lanes

/-- What the elements of a step have left: the state, the stores still to be made, flags, lanes whose sums have cancelled, and a line that
failed its check. -/
structure Swept where
  s : State
  stores : List (Found × List Byte)
  flags : Nat
  held : Mask
  bad : Option (Option Nat × Nat)

/-- One element: A and B read, the result formed. The cancellation test takes SCAL as converted to the sweep's type (log entry 64). -/
def Ctx.sweepElem (c : Ctx) (sw : Sweep) (ql qs : Req) (y : Swept) (x : Elem) : Swept :=
  let r := sw.record
  let op := recNat r 0 1
  let f := szfFmt ql.szf
  let get (s : State) (a : Acc) : (List Nat × Option (Option Nat × Nat)) × State :=
    match c.reach s ql a with
    | .ok locs mts =>
      let ((bs, bad), s) := c.readNow s ⟨ql, a, locs, mts⟩
      let form := c.formOf s ql a
      ((a.lanes.zipIdx.map fun z => (form.load ql.szf bs z.2 z.1).toNat, bad), s)
    | _ => (([], none), s)
  let ((va, bada), s) := get y.s x.a
  let ((vb, badb), s) := match x.b with
    | some b => get s b
    | none => (([], none), s)
  let dir (l : Nat) : Dir := c.dir l (sw.step % 2 ^ 16)
  let scal (l : Nat) : Nat × Nat := sweepScal f (dir l) op (recNat r 8 4)
  let av (k : Nat) : Nat := (va[k]?).getD 0
  let bv (k : Nat) : Nat := (vb[k]?).getD 0
  let res := x.a.lanes.zipIdx.map fun z =>
    let (v, fl) := sweepValue f (dir z.1) op (scal z.1).1 (av z.2) (bv z.2)
    (v, fl ||| (scal z.1).2)
  let rv (k : Nat) : Nat := ((res[k]?).map Prod.fst).getD 0
  let sc (k : Nat) : Nat := (scal ((x.a.lanes[k]?).getD 0)).1
  let dig (v : Nat → Nat) : Nat := f.digits (v 0) (v 1) (v 2)
  let ops := if op = 1 then [av, bv] else [av, sc, bv]
  let canc := !c.single && (op == 1 || op == 3) && decide (dig rv < c.digMin) && ops.all fun v => decide (c.digMin ≤ dig v)
  let stores := match c.reach s qs x.d with
    | .ok locs mts => [(⟨qs, x.d, locs, mts⟩, (c.formOf s qs x.d).store qs.szf (res.map fun z => BitVec.ofNat 64 z.1))]
    | _ => []
  { s := s, stores := y.stores ++ stores, flags := res.foldl (fun fl z => fl ||| z.2) y.flags
    held := if canc then y.held ||| x.mask else y.held, bad := y.bad.or (bada.or badb) }

/-- The slot keeps a sweep. -/
def State.keepSweep (s : State) (c : Ctx) (sw : Option Sweep) : State :=
  s.modUnit c.iss.unit fun u => u.setSlot c.iss.slot { u.slot c.iss.slot with sweep := sw }

/-- The sweep ends: status 0, and the instability trap when an enabled condition held in it (R264, R277, R278). -/
def Ctx.sweepEnd (c : Ctx) (s : State) (sw : Sweep) : Eff :=
  let s := (s.keepSweep c none).writeRegs c [⟨.s, c.d, 0, 0⟩]
  if c.ctl.getLsbD 8 && sw.held != 0 then
    .after s { kind := 1, sub := 1, code := 0, addr := 0, lanes := some sw.held }
  else .done s

/-- The step of dimension 0 at an end, once the form at its base is known; 0 until then. -/
def Ctx.strideAt (c : Ctx) (s : State) (q : Req) (r : List Byte) (off old : Nat) : Nat :=
  if old = 0 then (c.sweepStep s q (recNat r off 8)).getD 0 else old

/-- The element of a thread in a step: none while its place depends on a step of dimension 0 that is not known. -/
def sweepElemAt (single : Bool) (sw : Sweep) (t e : Nat) : Option Elem :=
  let r := sw.record
  let b := sweepB (recNat r 0 1)
  let ls := laneSet single t
  let (sa, sb, sd) := sw.strides
  if e % recNat r 40 4 ≠ 0 && (sa = 0 || (b && sb = 0) || sd = 0) then none
  else some
    { thread := t, a := ⟨ls, sweepAddr r 16 52 sa e⟩, b := if b then some ⟨ls, sweepAddr r 24 60 sb e⟩ else none
      d := ⟨ls, sweepAddr r 32 68 sd e⟩ }

/-- One step of a sweep (R277, R279). While the form at a base is not known, because its page does not translate, the elements whose
places do not depend on it are checked and none is accessed (log entry 108). Of an element's accesses A comes before B and B before D (log
entry 131). -/
def Ctx.sweepRun (c : Ctx) (s : State) (sw : Sweep) : Eff :=
  let r := sw.record
  let szf := sweepSzf c.ty
  let ql : Req := ⟨.ld, szf, 0, false, true⟩
  let qs : Req := ⟨.st, szf, 0, false, true⟩
  let ts := threadsIn c.single sw.act
  let total := recNat r 40 4 * recNat r 44 4 * recNat r 48 4
  let first := sw.step * ts.length
  let (sa, sb, sd) := sw.strides
  let sw := { sw with strides := (c.strideAt s ql r 16 sa, c.strideAt s ql r 24 sb, c.strideAt s qs r 32 sd) }
  let here := (ts.zipIdx.filter fun x => decide (first + x.2 < total)).map fun x => (x.1, sweepElemAt c.single sw x.1 (first + x.2))
  let unknown := here.any fun x => x.2.isNone
  let pend := (here.filterMap Prod.snd).filter fun x => match c.slot.unfinished with
    | some m => x.mask &&& m != 0
    | none => true
  let accs (x : Elem) : List (Req × Acc) := [(ql, x.a)] ++ (x.b.map fun b => (ql, b)).toList ++ [(qs, x.d)]
  let xs := pend.flatMap accs
  let mask := if unknown then sw.act else pend.foldl (fun m x => m ||| x.mask) 0
  let s := s.keepSweep c (some sw)
  match c.prechecks xs with
  | some f => c.precheckEff s f
  | none =>
    match c.watched s xs with
    | some (n, addr, lane) => .watch n addr lane
    | none =>
      match c.missing s xs with
      | p :: ps =>
        let pages := p :: ps
        .stay (pages.foldl (fun s p => s.askWalk c.iss.unit c.lr.asid p) s) (.blocked (.walk 1 c.lr.asid pages)) (some mask)
      | [] =>
        let s := c.promote s ((xs.flatMap fun x => c.pages s x.1 x.2).eraseDups)
        let bad (x : Elem) : Option (Req × Acc × Reach) := (accs x).findSome? fun y => match c.reach s y.1 y.2 with
          | .ok .. => none
          | z => some (y.1, y.2, z)
        let fails := pend.filterMap bad
        let y : Swept := (if unknown then [] else pend.filter fun x => (bad x).isNone).foldl (c.sweepElem sw ql qs) ⟨s, [], 0, 0, none⟩
        match y.bad with
        | some x => .done (y.s.integrityCheck c.iss.unit x)
        | none =>
          let s := (c.storeEach y.s y.stores).orStat c ((Instab.mk (threadsIn c.single y.held) [] []).stat y.flags)
          let sw := { sw with held := sw.held ||| y.held }
          let e := c.parkOn (s.keepSweep c (some sw)) fails fun s =>
            let sw := { sw with step := sw.step + 1 }
            if total ≤ sw.step * ts.length then c.sweepEnd s sw else .stay (s.keepSweep c (some sw)) .ready none
          match unknown, e with
          | true, .stay s st _ => .stay s st (some mask)
          | _, e => e

/-- R276 to R279: a sweep reads its record at issue, then runs a step at each issue of its slot until it is done. -/
def execVti (o : Op) (s : State) : Out :=
  s.issue (.vti o) fun c s =>
    let s' := s.modUnit c.iss.unit fun u => u.markEmpty .s c.d (BitVec.allOnes 96)
    match c.slot.sweep with
    | some sw => c.sweepRun s' sw
    | none =>
      if c.threads.isEmpty then c.scalar s 0
      else c.record s 16 80 fun wg off =>
        let r := s.spBytes c.iss.unit wg off 80
        match sweepStatus r with
        | some k => c.scalar s (BitVec.ofNat 32 k)
        | none => c.sweepRun s' ⟨c.issuedAs, 0, r, c.act, 0, (0, 0, 0)⟩

end Sys2Proof.Machine
end

