-- ==== Sys2Proof/Machine/System.lean ====
section
/-! DEFINITION. System registers: SYSR and SYSW of every register of the map (R41, R83, R151 to R154, R190, R191, R254, R255, R307, R387). -/

namespace Sys2Proof.Machine

/-- CREWPOS (R153); a cox core reads only its cluster's fields. -/
def State.crewPos (s : State) (u : UnitSt) : Nat :=
  let pos (cl : Nat) : Nat :=
    (3 * (cl / 12) + cl % 12 / 4) * 2 ^ 28 + (cl / 12) * 2 ^ 26 + (cl % 12) * 2 ^ 22
  match u with
  | .crew c => match c.place with
    | some p => pos p.cluster + p.core * 2 ^ 20 + p.part * 2 ^ 18 + p.place * 2 ^ 15 + c.wg * 256 + c.crew
    | none => c.wg * 256 + c.crew
  | .cox c => pos (s.clusterOf c.ref)

/-- MEMWIN (R41). -/
def State.memWin (s : State) (u : UnitSt) (lr : LaunchRec) : Nat :=
  s.plat.pkgnum.toNat * 2 ^ 56 + (if u.isCox then 0 else lr.privSize / 4 % 65536) * 2 ^ 32 + lr.spGran * 2 ^ 16

/-- ENGCNT (R255). -/
def Scal.engCnt (x : Scal) : DWord := x.voc ++ x.mat ++ x.net ++ x.cpy

/-- SLOTINFO (R255). -/
def State.slotInfo (s : State) (u : UnitSt) (k : Nat) : Nat :=
  s.otherCode u k * 256 + (match u with | .crew c => 16 * b2n c.bracket.isSome | .cox _ => 0) + k

/-- LINK of a slot. -/
def UnitSt.link (u : UnitSt) (k : Nat) : Word := (u.slot k).link

/-- The value of a system register held once per crew, cox core, slot or launch (R255): `s` and `c` stand before the SYSR. -/
def State.sysScalar (s : State) (c : Ctx) (n : Nat) : DWord :=
  let w (v : Word) : DWord := v.zeroExtend 64
  let x := c.u.scal
  match n with
  | 0x00 => w c.crew.arithCtl
  | 0x01 => w c.crew.arithStat
  | 0x02 => BitVec.ofNat 64 (s.memWin c.u c.lr)
  | 0x04 => w c.lr.poolPart
  | 0x06 => c.lr.seed
  | 0x08 => BitVec.ofNat 64 (s.crewPos c.u)
  | 0x09 => BitVec.ofNat 64 c.iss.unit.gang
  | 0x0A => BitVec.ofNat 64 c.lr.gangCount
  | 0x0B => w c.lr.shape
  | 0x0C => c.lr.codeBase &&& 0x00FFFFFFFFFFFFFF#64
  | 0x0E => s.dieCtr (s.dieOf c.iss.unit)
  | 0x10 => w (c.u.link c.iss.slot)
  | 0x11 => w x.round
  | 0x12 => w c.crew.limbStat
  | 0x14 => x.engCnt
  | 0x16 => BitVec.ofNat 64 (s.slotInfo c.u c.iss.slot)
  | 0x18 => w (tget 0 c.crew.nf 0)
  | 0x19 => w (tget 0 c.crew.nf 1)
  | 0x1A => w (tget 0 c.crew.nf 2)
  | 0x1B => w (tget 0 c.crew.nf 3)
  | _ => if 0x20 ≤ n && n ≤ 0x29 then w ((x.trap.words[n - 0x20]?).getD 0) else 0

/-- The value of a system register held per lane (R151, R152, R255). -/
def Ctx.sysLane (c : Ctx) (n l : Nat) : DWord :=
  let t := threadOf c.single l
  match n with
  | 0x80 => (c.tid t).zeroExtend 64
  | 0x81 => BitVec.ofNat 64 (t + (if c.single then 0 else l % 3 * 256))
  | _ => BitVec.ofNat 64 (c.icount t)

/-- SYSR (R254). -/
def execSysr (o : Op) (s : State) : Out :=
  s.issue (.sysr o) fun c s' =>
    let n := c.fn
    if 0x80 ≤ n then
      .done (s'.writeRegs c ((List.range c.crew.lanes).flatMap fun l =>
        let v := c.sysLane n l
        ⟨.v, c.d, l, v.extractLsb' 0 32⟩ :: (if sysWide n then [⟨.v, c.d + 1, l, v.extractLsb' 32 32⟩] else [])))
    else if sysWide n then c.scalar2 s' (s.sysScalar c n)
    else c.scalar s' ((s.sysScalar c n).extractLsb' 0 32)

/-- A valid value of ARITHCTL (R190). -/
def arithCtlValid (v : Word) : Bool :=
  let n := v.toNat
  bits n 22 10 == 0 && bits n 11 5 == 0 && bits n 3 5 == 0 && bits n 0 3 ≤ 4

/-- What a SYSW writes (R254, R255): none when the value is invalid (cause 8). -/
def Ctx.sysWrite (c : Ctx) (n : Nat) (v : Word) (u : UnitSt) : Option UnitSt :=
  let k := c.iss.slot
  let x := u.scal
  match n, u with
  | 0x00, .crew y => if arithCtlValid v then some (.crew { y with arithCtl := v }) else none
  | 0x01, .crew y => some (.crew { y with arithStat := y.arithStat &&& ~~~v })
  | 0x10, u => some (u.setSlot k { u.slot k with link := v })
  | 0x12, .crew y => some (.crew { y with
      limbChi := y.limbChi && !(v.getLsbD 24), limbCarry := y.limbCarry &&& ~~~(v.extractLsb' 0 24) })
  | 0x20, u => some (u.setScal { x with trap := { x.trap with skipBp := v.getLsbD 8 } })
  | 0x21, u => some (u.setScal { x with trap := { x.trap with resume := v } })
  | n, .crew y =>
    if 0x18 ≤ n && n ≤ 0x1B then
      (if nfValid v then some ((UnitSt.crew y).fill ⟨.nf, n - 0x18, 0, nfFields v⟩) else none)
    else some (.crew y)
  | _, u => some u

/-- SYSW (R254). -/
def execSysw (o : Op) (s : State) : Out :=
  s.issue (.sysw o) fun c s =>
    match c.sysWrite c.fn (c.s32 0) c.u with
    | none => .trap (illegalTrap 8 (firstWord c.i))
    | some _ => .done (s.modUnit c.iss.unit fun u => (c.sysWrite c.fn (c.s32 0) u).getD u)

end Sys2Proof.Machine
end

