-- ==== Sys2Proof/Machine/Dispatch.lean ====
section
/-! DEFINITION. The dispatch: one arm per constructor of Instr, a direct call of its meaning. -/

namespace Sys2Proof.Machine

open Sys2Proof

def exec (i : Instr) (s : State) : Host.Outcome State Fault Refusal :=
  match i with
  | .nop => Sys2Proof.Machine.execNop s
  | .saddShort d a imm => Sys2Proof.Machine.execSaddShort d a imm s
  | .ssubShort d a imm => Sys2Proof.Machine.execSsubShort d a imm s
  | .sshlShort d a imm => Sys2Proof.Machine.execSshlShort d a imm s
  | .sshrShort d a imm => Sys2Proof.Machine.execSshrShort d a imm s
  | .smovShort d a => Sys2Proof.Machine.execSmovShort d a s
  | .vmovShort d a => Sys2Proof.Machine.execVmovShort d a s
  | .yield => Sys2Proof.Machine.execYield s
  | .exit => Sys2Proof.Machine.execExit s
  | .join => Sys2Proof.Machine.execJoin s
  | .bktOpen => Sys2Proof.Machine.execBktOpen s
  | .bktClose => Sys2Proof.Machine.execBktClose s
  | .ret => Sys2Proof.Machine.execRet s
  | .tret => Sys2Proof.Machine.execTret s
  | .bkpt tag => Sys2Proof.Machine.execBkpt tag s
  | .bar n => Sys2Proof.Machine.execBar n s
  | .ornd => Sys2Proof.Machine.execOrnd s
  | .dpark d => Sys2Proof.Machine.execDpark d s
  | .dresume a => Sys2Proof.Machine.execDresume a s
  | .dprune d a => Sys2Proof.Machine.execDprune d a s
  | .gbar => Sys2Proof.Machine.execGbar s
  | .lfree => Sys2Proof.Machine.execLfree s
  | .sadd o => Sys2Proof.Machine.execSadd o s
  | .ssub o => Sys2Proof.Machine.execSsub o s
  | .smul o => Sys2Proof.Machine.execSmul o s
  | .smulh o => Sys2Proof.Machine.execSmulh o s
  | .sand o => Sys2Proof.Machine.execSand o s
  | .sor o => Sys2Proof.Machine.execSor o s
  | .sxor o => Sys2Proof.Machine.execSxor o s
  | .sshl o => Sys2Proof.Machine.execSshl o s
  | .sshr o => Sys2Proof.Machine.execSshr o s
  | .ssar o => Sys2Proof.Machine.execSsar o s
  | .smin o => Sys2Proof.Machine.execSmin o s
  | .smax o => Sys2Proof.Machine.execSmax o s
  | .ssel o => Sys2Proof.Machine.execSsel o s
  | .scmp o => Sys2Proof.Machine.execScmp o s
  | .sbfe o => Sys2Proof.Machine.execSbfe o s
  | .sclz o => Sys2Proof.Machine.execSclz o s
  | .spopc o => Sys2Proof.Machine.execSpopc o s
  | .saddp o => Sys2Proof.Machine.execSaddp o s
  | .ssubp o => Sys2Proof.Machine.execSsubp o s
  | .sshlp o => Sys2Proof.Machine.execSshlp o s
  | .smov o => Sys2Proof.Machine.execSmov o s
  | .plop o => Sys2Proof.Machine.execPlop o s
  | .qlop o => Sys2Proof.Machine.execQlop o s
  | .pmask o => Sys2Proof.Machine.execPmask o s
  | .pset o => Sys2Proof.Machine.execPset o s
  | .sysr o => Sys2Proof.Machine.execSysr o s
  | .sysw o => Sys2Proof.Machine.execSysw o s
  | .trap o => Sys2Proof.Machine.execTrap o s
  | .waitEng o => Sys2Proof.Machine.execWaitEng o s
  | .hwait o => Sys2Proof.Machine.execHwait o s
  | .htest o => Sys2Proof.Machine.execHtest o s
  | .hcancel o => Sys2Proof.Machine.execHcancel o s
  | .hpass o => Sys2Proof.Machine.execHpass o s
  | .bra o => Sys2Proof.Machine.execBra o s
  | .brc o => Sys2Proof.Machine.execBrc o s
  | .brd o => Sys2Proof.Machine.execBrd o s
  | .call o => Sys2Proof.Machine.execCall o s
  | .brx o => Sys2Proof.Machine.execBrx o s
  | .callx o => Sys2Proof.Machine.execCallx o s
  | .draw o => Sys2Proof.Machine.execDraw o s
  | .vadd o => Sys2Proof.Machine.execVadd o s
  | .vsub o => Sys2Proof.Machine.execVsub o s
  | .vmul o => Sys2Proof.Machine.execVmul o s
  | .vmulh o => Sys2Proof.Machine.execVmulh o s
  | .vmad o => Sys2Proof.Machine.execVmad o s
  | .vand o => Sys2Proof.Machine.execVand o s
  | .vor o => Sys2Proof.Machine.execVor o s
  | .vxor o => Sys2Proof.Machine.execVxor o s
  | .vshl o => Sys2Proof.Machine.execVshl o s
  | .vshr o => Sys2Proof.Machine.execVshr o s
  | .vsar o => Sys2Proof.Machine.execVsar o s
  | .vmin o => Sys2Proof.Machine.execVmin o s
  | .vmax o => Sys2Proof.Machine.execVmax o s
  | .vabs o => Sys2Proof.Machine.execVabs o s
  | .vneg o => Sys2Proof.Machine.execVneg o s
  | .vadds o => Sys2Proof.Machine.execVadds o s
  | .vsubs o => Sys2Proof.Machine.execVsubs o s
  | .vclz o => Sys2Proof.Machine.execVclz o s
  | .vpopc o => Sys2Proof.Machine.execVpopc o s
  | .vbfe o => Sys2Proof.Machine.execVbfe o s
  | .vbfi o => Sys2Proof.Machine.execVbfi o s
  | .vsel o => Sys2Proof.Machine.execVsel o s
  | .vmov o => Sys2Proof.Machine.execVmov o s
  | .vcmp o => Sys2Proof.Machine.execVcmp o s
  | .vcvt o => Sys2Proof.Machine.execVcvt o s
  | .vsibget o => Sys2Proof.Machine.execVsibget o s
  | .vsibmean o => Sys2Proof.Machine.execVsibmean o s
  | .vdigs o => Sys2Proof.Machine.execVdigs o s
  | .vnot o => Sys2Proof.Machine.execVnot o s
  | .vfadd o => Sys2Proof.Machine.execVfadd o s
  | .vfsub o => Sys2Proof.Machine.execVfsub o s
  | .vfmul o => Sys2Proof.Machine.execVfmul o s
  | .vfma o => Sys2Proof.Machine.execVfma o s
  | .vfdiv o => Sys2Proof.Machine.execVfdiv o s
  | .vfsqrt o => Sys2Proof.Machine.execVfsqrt o s
  | .vfmin o => Sys2Proof.Machine.execVfmin o s
  | .vfmax o => Sys2Proof.Machine.execVfmax o s
  | .vfabs o => Sys2Proof.Machine.execVfabs o s
  | .vfneg o => Sys2Proof.Machine.execVfneg o s
  | .vfcps o => Sys2Proof.Machine.execVfcps o s
  | .vfcmp o => Sys2Proof.Machine.execVfcmp o s
  | .vfrcp o => Sys2Proof.Machine.execVfrcp o s
  | .vfrcpr o => Sys2Proof.Machine.execVfrcpr o s
  | .vfrsq o => Sys2Proof.Machine.execVfrsq o s
  | .vfrsqr o => Sys2Proof.Machine.execVfrsqr o s
  | .vexp2 o => Sys2Proof.Machine.execVexp2 o s
  | .vexp2r o => Sys2Proof.Machine.execVexp2r o s
  | .vlog2 o => Sys2Proof.Machine.execVlog2 o s
  | .vlog2r o => Sys2Proof.Machine.execVlog2r o s
  | .vsin o => Sys2Proof.Machine.execVsin o s
  | .vsinr o => Sys2Proof.Machine.execVsinr o s
  | .vcos o => Sys2Proof.Machine.execVcos o s
  | .vcosr o => Sys2Proof.Machine.execVcosr o s
  | .vtanh o => Sys2Proof.Machine.execVtanh o s
  | .vtanhr o => Sys2Proof.Machine.execVtanhr o s
  | .vnfadd o => Sys2Proof.Machine.execVnfadd o s
  | .vnfmul o => Sys2Proof.Machine.execVnfmul o s
  | .vnffma o => Sys2Proof.Machine.execVnffma o s
  | .vnfpack o => Sys2Proof.Machine.execVnfpack o s
  | .vnfunpk o => Sys2Proof.Machine.execVnfunpk o s
  | .vqblk o => Sys2Proof.Machine.execVqblk o s
  | .vti o => Sys2Proof.Machine.execVti o s
  | .vgmm o => Sys2Proof.Machine.execVgmm o s
  | .vshfl o => Sys2Proof.Machine.execVshfl o s
  | .vbcast o => Sys2Proof.Machine.execVbcast o s
  | .vscan o => Sys2Proof.Machine.execVscan o s
  | .vred o => Sys2Proof.Machine.execVred o s
  | .vote o => Sys2Proof.Machine.execVote o s
  | .ballot o => Sys2Proof.Machine.execBallot o s
  | .regrp o => Sys2Proof.Machine.execRegrp o s
  | .vgf2mm o => Sys2Proof.Machine.execVgf2mm o s
  | .vbdep o => Sys2Proof.Machine.execVbdep o s
  | .vbext o => Sys2Proof.Machine.execVbext o s
  | .vbperm o => Sys2Proof.Machine.execVbperm o s
  | .lbind o => Sys2Proof.Machine.execLbind o s
  | .ladd o => Sys2Proof.Machine.execLadd o s
  | .lsub o => Sys2Proof.Machine.execLsub o s
  | .lmuls o => Sys2Proof.Machine.execLmuls o s
  | .lshl o => Sys2Proof.Machine.execLshl o s
  | .lshr o => Sys2Proof.Machine.execLshr o s
  | .lcmp o => Sys2Proof.Machine.execLcmp o s
  | .lcarry o => Sys2Proof.Machine.execLcarry o s
  | .ldVV o => Sys2Proof.Machine.execLdVV o s
  | .ldVS o => Sys2Proof.Machine.execLdVS o s
  | .ldSS o => Sys2Proof.Machine.execLdSS o s
  | .stVV o => Sys2Proof.Machine.execStVV o s
  | .stVS o => Sys2Proof.Machine.execStVS o s
  | .stSS o => Sys2Proof.Machine.execStSS o s
  | .prfV o => Sys2Proof.Machine.execPrfV o s
  | .prfS o => Sys2Proof.Machine.execPrfS o s
  | .atomVV o => Sys2Proof.Machine.execAtomVV o s
  | .atomVS o => Sys2Proof.Machine.execAtomVS o s
  | .atomSS o => Sys2Proof.Machine.execAtomSS o s
  | .atomrVV o => Sys2Proof.Machine.execAtomrVV o s
  | .atomrVS o => Sys2Proof.Machine.execAtomrVS o s
  | .atomrSS o => Sys2Proof.Machine.execAtomrSS o s
  | .casVV o => Sys2Proof.Machine.execCasVV o s
  | .casVS o => Sys2Proof.Machine.execCasVS o s
  | .casSS o => Sys2Proof.Machine.execCasSS o s
  | .oatomVV o => Sys2Proof.Machine.execOatomVV o s
  | .oatomVS o => Sys2Proof.Machine.execOatomVS o s
  | .cpy o => Sys2Proof.Machine.execCpy o s
  | .cpywp o => Sys2Proof.Machine.execCpywp o s
  | .binit o => Sys2Proof.Machine.execBinit o s
  | .bwait o => Sys2Proof.Machine.execBwait o s
  | .trigPost o => Sys2Proof.Machine.execTrigPost o s
  | .trigCancel o => Sys2Proof.Machine.execTrigCancel o s
  | .trigRead o => Sys2Proof.Machine.execTrigRead o s
  | .trigAdd o => Sys2Proof.Machine.execTrigAdd o s
  | .mldb o => Sys2Proof.Machine.execMldb o s
  | .mlda o => Sys2Proof.Machine.execMlda o s
  | .mma o => Sys2Proof.Machine.execMma o s
  | .mzero o => Sys2Proof.Machine.execMzero o s
  | .mdrain o => Sys2Proof.Machine.execMdrain o s
  | .mstat o => Sys2Proof.Machine.execMstat o s
  | .vocabStream o => Sys2Proof.Machine.execVocabStream o s
  | .vocabRegen o => Sys2Proof.Machine.execVocabRegen o s
  | .vmeld o => Sys2Proof.Machine.execVmeld o s
  | .vheaprd o => Sys2Proof.Machine.execVheaprd o s
  | .loadReturn id lane => Sys2Proof.Machine.execLoadReturn id lane s
  | .producerFill id lane => Sys2Proof.Machine.execProducerFill id lane s
  | .limbLanding id => Sys2Proof.Machine.execLimbLanding id s
  | .storeAck id => Sys2Proof.Machine.execStoreAck id s
  | .atomicPerform id => Sys2Proof.Machine.execAtomicPerform id s
  | .fetchBlockArrive u slot block => Sys2Proof.Machine.execFetchBlockArrive u slot block s
  | .pageWalkComplete id => Sys2Proof.Machine.execPageWalkComplete id s
  | .heldRecordWrite ring => Sys2Proof.Machine.execHeldRecordWrite ring s
  | .invalidateRange count => Sys2Proof.Machine.execInvalidateRange count s
  | .replay cmd => Sys2Proof.Machine.execReplay cmd s
  | .cancelLaunch cmd => Sys2Proof.Machine.execCancelLaunch cmd s
  | .migrate slot ctl => Sys2Proof.Machine.execMigrate slot ctl s
  | .migrationComplete slot => Sys2Proof.Machine.execMigrationComplete slot s
  | .pinHoldExpiry asid page => Sys2Proof.Machine.execPinHoldExpiry asid page s
  | .submissionTailWrite queue value => Sys2Proof.Machine.execSubmissionTailWrite queue value s
  | .reservationTimeout ident => Sys2Proof.Machine.execReservationTimeout ident s
  | .launchComplete ident => Sys2Proof.Machine.execLaunchComplete ident s
  | .oatomUpdateAccept id => Sys2Proof.Machine.execOatomUpdateAccept id s
  | .roundClose ident => Sys2Proof.Machine.execRoundClose ident s
  | .roundApply ident slice => Sys2Proof.Machine.execRoundApply ident slice s
  | .roundWordWrite ident => Sys2Proof.Machine.execRoundWordWrite ident s
  | .regrpFuse a b => Sys2Proof.Machine.execRegrpFuse a b s
  | .copyAccept cluster chan => Sys2Proof.Machine.execCopyAccept cluster chan s
  | .copyStep cluster chan => Sys2Proof.Machine.execCopyStep cluster chan s
  | .copyComplete cluster chan => Sys2Proof.Machine.execCopyComplete cluster chan s
  | .matrixOpComplete cluster core => Sys2Proof.Machine.execMatrixOpComplete cluster core s
  | .vocabTileCommit cluster core => Sys2Proof.Machine.execVocabTileCommit cluster core s
  | .triggerRaise id => Sys2Proof.Machine.execTriggerRaise id s
  | .postedTransferComplete slot => Sys2Proof.Machine.execPostedTransferComplete slot s
  | .remoteIncrement p => Sys2Proof.Machine.execRemoteIncrement p s
  | .fabricPacket p => Sys2Proof.Machine.execFabricPacket p s
  | .fabricAck run slice seq => Sys2Proof.Machine.execFabricAck run slice seq s
  | .streamEndMark key => Sys2Proof.Machine.execStreamEndMark key s
  | .streamAbortMark key => Sys2Proof.Machine.execStreamAbortMark key s
  | .endToEndTimeout run slice => Sys2Proof.Machine.execEndToEndTimeout run slice s
  | .hwmEntryExpiry key slice => Sys2Proof.Machine.execHwmEntryExpiry key slice s
  | .linkFlitCrcError link => Sys2Proof.Machine.execLinkFlitCrcError link s
  | .drainTokenReturn token => Sys2Proof.Machine.execDrainTokenReturn token s
  | .idtabWrite n value => Sys2Proof.Machine.execIdtabWrite n value s
  | .preemptGang cmd => Sys2Proof.Machine.execPreemptGang cmd s
  | .preemptLaunch cmd => Sys2Proof.Machine.execPreemptLaunch cmd s
  | .preemptSaveDone ident gang => Sys2Proof.Machine.execPreemptSaveDone ident gang s
  | .dbgStop pid => Sys2Proof.Machine.execDbgStop pid s
  | .dbgResume pid => Sys2Proof.Machine.execDbgResume pid s
  | .dbgStep pid => Sys2Proof.Machine.execDbgStep pid s
  | .ctrclr pid => Sys2Proof.Machine.execCtrclr pid s
  | .watchResume n => Sys2Proof.Machine.execWatchResume n s
  | .sampleTick pid => Sys2Proof.Machine.execSampleTick pid s
  | .hostSnoop snoop => Sys2Proof.Machine.execHostSnoop snoop s
  | .bar2Access off n data => Sys2Proof.Machine.execBar2Access off n data s
  | .cxlLinkTraining hostRev hostRate hostWidth => Sys2Proof.Machine.execCxlLinkTraining hostRev hostRate hostWidth s
  | .supplyDroop die => Sys2Proof.Machine.execSupplyDroop die s
  | .supplyRecovery die => Sys2Proof.Machine.execSupplyRecovery die s
  | .firmwareBoot images cfg => Sys2Proof.Machine.execFirmwareBoot images cfg s
  | .spdmRequest req => Sys2Proof.Machine.execSpdmRequest req s
  | .registerWrite off value => Sys2Proof.Machine.execRegisterWrite off value s
  | .partitionCycle pid => Sys2Proof.Machine.execPartitionCycle pid s
  | .cxlMemAccess addr n data => Sys2Proof.Machine.execCxlMemAccess addr n data s
  | .remoteReadRequest src addr n atomic => Sys2Proof.Machine.execRemoteReadRequest src addr n atomic s
  | .damhedanLinkTraining link gen => Sys2Proof.Machine.execDamhedanLinkTraining link gen s
  | .damhedanLinkDown link => Sys2Proof.Machine.execDamhedanLinkDown link s
  | .invalidateAsid => Sys2Proof.Machine.execInvalidateAsid s
  | .invalidateAll => Sys2Proof.Machine.execInvalidateAll s
  | .invalidationDone => Sys2Proof.Machine.execInvalidationDone s
  | .launchAccept => Sys2Proof.Machine.execLaunchAccept s
  | .gangPlacement => Sys2Proof.Machine.execGangPlacement s
  | .drawAnswer => Sys2Proof.Machine.execDrawAnswer s
  | .drain => Sys2Proof.Machine.execDrain s
  | .mbReadCrewState => Sys2Proof.Machine.execMbReadCrewState s
  | .mbWriteRegister => Sys2Proof.Machine.execMbWriteRegister s

end Sys2Proof.Machine
end

