-- ==== Sys2Proof/Machine/Due.lean ====
section
/-! DEFINITION. The device's own events that are due: operations in flight, units, engines and the dealer that can move. Events that come from outside the package (commands, packets, timeouts, accesses of the host) arrive through the inbox. -/

namespace Sys2Proof.Machine

open Sys2Proof

/-- The units that issue. -/
def State.units (s : State) : List UnitRef := s.crews.map Crew.ref ++ s.coxes.map Cox.ref

/-- Fetches that a slot may ask for: the block of its address, and the one after. -/
def State.fetchEvents (s : State) : List Instr :=
  s.units.flatMap fun r => match s.unit? r with
    | some u => if !(s.placed u) then [] else u.slots.flatMap fun k =>
      let b := blockBase (u.slot k).pc
      [.fetchBlockArrive r k b, .fetchBlockArrive r k (b + 32)]
    | none => []

/-- Operations in flight that may reach their points of coherence. -/
def State.flightEvents (s : State) : List Instr :=
  s.flight.loads.map (fun o => .loadReturn o.id ((o.lanes.head?).getD 0)) ++
  s.flight.producers.flatMap (fun o => o.writes.map fun w => .producerFill o.id w.lane) ++
  s.flight.limbs.map (fun o => .limbLanding o.id) ++
  s.flight.stores.flatMap (fun o => [.storeAck o.id, .triggerRaise o.id]) ++
  s.eng.raises.map (fun r => .triggerRaise r.id) ++
  s.flight.atomics.map (fun o => .atomicPerform o.id) ++
  s.flight.updates.map (fun o => .oatomUpdateAccept o.id) ++
  s.caches.walks.map fun w => .pageWalkComplete w.id

/-- Crews that may fuse. -/
def State.regroupEvents (s : State) : List Instr :=
  s.crews.flatMap fun a => (s.crews.filter fun b =>
    a.ident == b.ident && a.gang == b.gang && a.wg == b.wg && decide (a.crew < b.crew)).map fun b => .regrpFuse a.ref b.ref

/-- The engines and the translation block. -/
def State.engineEvents (s : State) : List Instr :=
  s.eng.copies.flatMap (fun q => [.copyAccept q.cluster q.chan, .copyStep q.cluster q.chan, .copyComplete q.cluster q.chan]) ++
  s.eng.mats.flatMap (fun m => [.matrixOpComplete m.cluster m.core, .vocabTileCommit m.cluster m.core]) ++
  s.eng.posts.map (fun p => .postedTransferComplete p.slot) ++
  [RingId.fault, .access, .machineCheck, .signal, .debug].map .heldRecordWrite ++
  [.invalidationDone, .mbReadCrewState, .mbWriteRegister] ++
  (List.range 16).map .migrationComplete ++
  s.xlat.pins.map fun p => .pinHoldExpiry p.asid p.page

/-- The dealer. -/
def State.dealerEvents (s : State) : List Instr :=
  [.launchAccept, .gangPlacement, .drawAnswer] ++
  s.dealer.reservations.map (fun r => .reservationTimeout r.ident) ++
  s.dealer.launches.flatMap (fun l =>
    [.launchComplete l.lr.ident, .roundClose l.lr.ident, .roundWordWrite l.lr.ident] ++
    (s.clustersOf s.pkg).map fun cl => .roundApply l.lr.ident cl) ++
  s.gangs.map fun g => .preemptSaveDone g.ident g.gang

/-- The partitions of the part (R149, R419): four of each core, and each cluster's cox core. -/
def State.partitions (s : State) : List Nat :=
  (s.clustersOf s.pkg).flatMap fun cl =>
    pidOf true cl 0 0 :: (List.range (s.coreCount cl)).flatMap fun co => (List.range 4).map fun p => pidOf false cl co p

/-- The cycles and samples of the partitions. -/
def State.cycleEvents (s : State) : List Instr :=
  s.partitions.flatMap fun p => if (s.part p).samples.isEmpty then [.partitionCycle p] else [.partitionCycle p, .sampleTick p]

/-- An outcome is a next state. -/
def isNext (o : Out) : Bool :=
  match o with
  | .next _ => true
  | _ => false

/-- Every event of the device that can come next. -/
def State.due (s : State) : List Instr :=
  (s.fetchEvents ++ s.flightEvents ++ s.regroupEvents ++ s.engineEvents ++ s.dealerEvents ++ s.cycleEvents).filter fun e =>
    isNext (exec e s)

/-- The events that are left to a part in recovery, where only the Hecen port is served: those of the debug block (R417, R419). -/
def State.debugDue (s : State) : List Instr :=
  ([.mbReadCrewState, .mbWriteRegister, .heldRecordWrite .debug] : List Instr).filter fun e => isNext (exec e s)

/-- An event that comes by the Hecen port: a command or a register of the debug block (R397, R419). -/
def byHecen (e : Instr) : Bool :=
  match e with
  | .dbgStop _ | .dbgResume _ | .dbgStep _ | .ctrclr _ | .watchResume _ => true
  | .registerWrite off _ => decide (0x100000 ≤ off)
  | _ => false

/-- What the package does next by itself: an event, or the rest of an instruction that has issued. -/
inductive Move where
  | event (e : Instr)
  | goOn (i : Issuer)
  deriving DecidableEq, Repr

/-- What may come next. -/
def State.moves (s : State) : List Move :=
  if s.plat.recovery then s.debugDue.map .event else s.due.map .event ++ s.goingOn.map .goOn

/-- What comes next, as the free choice takes it (log entry 1). -/
def State.nextMove (s : State) : Option Move × State :=
  let (n, s) := s.fresh
  (s.moves[Config.pick n % s.moves.length]?, s)

end Sys2Proof.Machine
end

