-- ==== Sys2Proof/Machine/Step.lean ====
section
/-! DEFINITION. One step of the machine: an event that the outside has sent, the instruction of the slot chosen to issue, or an event of the device that is due; and how a word is placed where the next step fetches it. -/

namespace Sys2Proof.Machine

open Sys2Proof

/-- The instruction that the chosen slot issues, its trap, or its missing block. -/
def State.issueStep (s : State) : Host.Outcome State Fault Refusal :=
  match s.fetched with
  | .noIssuer => .next { s with issuer := none }
  | .noBlock => .next { s with issuer := none }
  | .brk n => .next (s.takeBreak n)
  | .bad k w => .next (s.fetchTrap (illegalTrap k w))
  | .ok i => exec i s

/-- One step (log entry 1): the slot chosen to issue issues; else a check value goes bad that is about to; else an event that the outside
has sent lands, in recovery only one that comes by the Hecen port (R417, R419); else the package moves by itself. -/
def step (s : State) : Host.Outcome State Fault Refusal :=
  match s.issuer with
  | some _ => s.issueStep
  | none =>
    match s.upsets, s.inbox with
    | u :: rest, _ => .next ({ s with upsets := rest }.strike u)
    | [], e :: rest =>
      let s : State := { s with inbox := rest }
      if s.plat.recovery && !(byHecen e) then .next s else exec e s
    | [], [] => match s.nextMove with
      | (some (.event e), s) => exec e s
      | (some (.goOn i), s) => (s.goOn i).issueStep
      | (none, s) => .next s

/-- The launch under which a placed word runs: one gang of one workgroup of one crew with a cox section, 256 vector registers,
triple mode, no private memory, on this package alone, its code at address 0. -/
def probeRec : LaunchRec :=
  { LaunchRec.zero with ident := 0x1000, shape := 1, gangCount := 1, coxOff := 32, poolPart := 0x1010061F, pkgN := 1 }

/-- The state with the launch of `probeRec` placed and one of its units READY and chosen to issue; every unit and launch of `s`
stays. -/
def State.withProbe (s : State) (cox : Bool) (bytes : List Byte) : State :=
  let blk : FetchBlock := ⟨if cox then 32 else 0, bytes ++ List.replicate (32 - bytes.length) 0, false⟩
  let hold (x : Slot) : Slot := { x with blocks := [blk] }
  let c := Crew.start probeRec 0 0 0 ⟨0, 0, 0, 0⟩ 0
  let x := Cox.start probeRec 0
  let c := if cox then c else { c with slot0 := hold c.slot0 }
  let x := if cox then { x with slot := hold x.slot } else x
  { s with
    inbox := []
    upsets := []
    issuer := some ⟨if cox then x.ref else c.ref, 0⟩
    crews := c :: s.crews
    coxes := x :: s.coxes
    wgs := Workgroup.start probeRec 0 0 0 0 0 :: s.wgs
    gangs := ⟨probeRec.ident, 0, 0, 0, false, false, true⟩ :: s.gangs
    dealer := { s.dealer with launches :=
      { Launch.start probeRec 0 0 0 with nextGang := 1, framesUsed := [0] } :: s.dealer.launches } }

/-- The state in which the next step fetches and runs the instruction whose bits are `w` (log entry 18). -/
def State.withFetchWord (s : State) (nbits w : Nat) : State :=
  let bytes := tableBytes nbits w
  let cox := match decodeBytes bytes with
    | .ok i => match i.row with
      | some r => r.who == .cox
      | none => false
    | .error _ => false
  s.withProbe cox bytes

end Sys2Proof.Machine
end

