-- ==== Sys2Proof/Safety.lean ====
section
/-! DEFINITION. The terms that claims use: what counts as a safe step, when an instruction issues, what it leaves unchanged, and what every step keeps. -/

namespace Sys2Proof.Safety

open Sys2Proof.Machine

/-- The step answers a next state. -/
def completes (o : Out) : Bool :=
  match o with
  | .next _ => true
  | _ => false

/-- Global memory is in canonical form. -/
def memoryInv (s : State) : Prop := Memory.wf s.mem = true

/-! ### When an instruction issues -/

/-- The slot chosen to issue in `s` may issue `i`, and `c` is what its meaning works on: the encoding is legal for the issuer (R204);
the guard's register is full, the siblings' guard bits agree (R256) and a uniform guard selects action (R226); the registers of
every source are full where they are waited for, or no lane acts (R171); the destinations are full (R171); nothing else that
the instruction's own rule makes it wait for is outstanding; and it is none that has issued already and waits (R323, R329). -/
structure MayIssue (s : State) (i : Instr) (c : Ctx) : Prop where
  chosen : s.issuer = some c.iss
  unit : s.unit? c.iss.unit = some c.u
  ctx : s.ctxOf i c.iss c.u = c
  fresh : c.slot.pendingOn = none
  legal : i.cause (some (s.encCtx c.u)) = none
  guard : c.slot.unfinished = none → c.u.allFull (guardWait c.u (instrGuard i) c.mask) = true
  agree : c.guardSplit = none
  acts : c.slot.unfinished = none → uniformGuard c.u (instrGuard i) = true → c.act ≠ 0
  sources : c.act ≠ 0 → ∀ x ∈ instrSources i c.u.isCox c.single, c.u.allFull (c.sourceWaits x.1 x.2.1) = true
  dests : c.u.allFull c.destWaits = true
  quiet : c.extraWait s = none

/-- It issues: no line that it reads of the register file fails its check (R414). -/
structure Ready (s : State) (i : Instr) (c : Ctx) : Prop extends MayIssue s i c where
  good : c.readsBad = false

/-- The slot chosen to issue has issued `i` already and waits for `w` (R323, R329). -/
structure Waits (s : State) (i : Instr) (c : Ctx) (w : Wait) : Prop where
  chosen : s.issuer = some c.iss
  unit : s.unit? c.iss.unit = some c.u
  ctx : s.ctxOf i c.iss c.u = c
  pending : c.slot.pendingOn = some w

/-- The state in which a slot that was chosen waits for `w`. -/
def waitsOn (s : State) (c : Ctx) (w : Wait) : State :=
  { s with issuer := none }.modUnit c.iss.unit fun u => u.setSlot c.iss.slot { u.slot c.iss.slot with st := .blocked w }

/-- The state in which an instruction that takes no effect leaves its slot: no slot is chosen any more, and the cycle that chose it is
charged to the leaf that describes the crews then (R428). -/
def idle (s : State) (c : Ctx) : State := ({ s with issuer := none } : State).idled c.iss.unit c.slot.replayed

/-- The state after an instruction that took a trap instead of its effect, at its address (R385, R388). -/
def trapAt (s : State) (c : Ctx) (t : TrapInfo) : State := (idle s c).takeTrap c.iss.unit c.iss.slot t c.pc c.pc

/-- The state after an instruction that issued and wrote registers of its issuer. -/
def wrote (s : State) (c : Ctx) (ws : List RegWrite) : State := (s.issued c).writeRegs c ws

/-- The state after a float instruction: the flags `fl` and the conditions `x` that held are ORed into ARITHSTAT (R191), and the
results are written, or left to a producer; when ARITHCTL enables a condition that held, every result is written and the
instability trap is taken after the instruction (R199, R385). -/
def floated (s : State) (c : Ctx) (late : Bool) (ws : List RegWrite) (fl : Nat) (x : Instab) : State :=
  let t := (s.issued c).modCrew c.iss.unit fun y => { y with arithStat := y.arithStat ||| x.stat fl }
  let e := x.enabled c.ctl
  if e.canc = [] ∧ e.cmpd = [] ∧ e.divd = [] then (if late then t.produce c true ws else t.writeRegs c ws)
  else (t.writeRegs c ws).takeTrap c.iss.unit c.iss.slot
    { kind := 1, sub := e.sub, code := 0, addr := 0, lanes := some (threadLanes c.single (e.canc ++ e.cmpd ++ e.divd)) }
    c.pc c.nextPc

/-- The state after a limb instruction that writes `ws` and reports `outs` when it lands: its destination lanes are empty, and it is
in flight behind the earlier ones under the next number, `slow` with the longer latency (R301). -/
def limbed (s : State) (c : Ctx) (slow : Bool) (ws : List RegWrite) (outs : List (Nat × Bool)) : State :=
  let t := (s.issued c).newId.2.modUnit c.iss.unit fun u => u.empties ws
  { t with flight := { t.flight with limbs := t.flight.limbs ++ [⟨(s.issued c).newId.1, c.iss.unit, slow, ws, outs⟩] } }

/-- One scalar register, a scalar pair with its low half in the even register (R7), one uniform predicate. -/
def sReg (n : Nat) (v : Word) : List RegWrite := [⟨.s, n, 0, v⟩]
def sPair (n : Nat) (v : DWord) : List RegWrite := [⟨.s, n, 0, v.extractLsb' 0 32⟩, ⟨.s, n + 1, 0, v.extractLsb' 32 32⟩]
def qReg (n : Nat) (b : Bool) : List RegWrite := [⟨.q, n, 0, b2w b⟩]

/-- The state `t` in which an instruction that has issued stays at its address, in the slot's state `st`, for the lanes `unf` that it has
still to serve; `acc` is the access code and `walked` the walk results that the slot keeps (R56, R57, R155, R190). -/
def stayed (t : State) (c : Ctx) (st : SlotState) (unf : Option Mask) (acc : Nat) (walked : List (Nat × WalkResult)) : State :=
  t.modUnit c.iss.unit fun u => u.setSlot c.iss.slot { u.slot c.iss.slot with
    pc := c.pc, st := st, unfinished := unf, acc := acc, counted := true, kept := some c.issuedAs, walked := walked
    skipBp := c.slot.skipBp, skipWatch := if st = .ready then [] else c.slot.skipWatch }

/-- The state after an instruction whose scratchpad record, at offset `off`, fails check `k`: the slot is parked at the instruction on
an address fault, which is recorded and cannot be replayed (R19, R57, R323). -/
def recordFault (s : State) (c : Ctx) (k access off : Nat) : State :=
  let t := s.issued c
  stayed (t.postUnitFault c (t.unitFault c 2 k access (0xFFFF000000000000 + off) noLanes false false true)) c (.parked true 9 [])
    (some c.act) 9 []

/-- The code of an engine operation: 0 when none of its checks fails, else the lowest code of those that do (R106, R329, R339). -/
def Lowest (checks : List (Prop × Nat)) (code : Nat) : Prop :=
  ((∀ x ∈ checks, ¬ x.1) ∧ code = 0) ∨ ((∃ x ∈ checks, x.1 ∧ x.2 = code) ∧ ∀ x ∈ checks, x.1 → code ≤ x.2)

/-! ### Siblings (R194, R390) -/

/-- In triple mode the three siblings of every acting thread have one value (R194). -/
def Agree (c : Ctx) (f : Nat → DWord) : Prop :=
  c.single = false → ∀ t ∈ c.threads, f (3 * t) = f (3 * t + 1) ∧ f (3 * t) = f (3 * t + 2)

/-- Thread `t` is the first of a list, in triple mode, whose siblings' values differ. -/
def Splits (c : Ctx) (ts : List Nat) (f : Nat → DWord) (t : Nat) : Prop :=
  c.single = false ∧ t ∈ ts ∧ (f (3 * t) ≠ f (3 * t + 1) ∨ f (3 * t) ≠ f (3 * t + 2)) ∧
  ∀ q ∈ ts, q < t → f (3 * q) = f (3 * q + 1) ∧ f (3 * q) = f (3 * q + 2)

/-- The state after a machine check for siblings that disagree, which names a lane and its three results: nothing else of the
instruction has happened, and the launch ends (R390). -/
def checked (s : State) (c : Ctx) (lane : Nat) (w : Nat → Word) : State :=
  ({ s with issuer := none } : State).machineCheck c.iss.unit c.iss.slot c.pc lane (w 0, w 1, w 2)

/-- The machine check of thread `t`, whose siblings have the results `f` (R390). -/
def checkedAt (s : State) (c : Ctx) (f : Nat → DWord) (t : Nat) : State :=
  checked s c (3 * t) fun k => (f (3 * t + k)).extractLsb' 0 32

/-- A ready instruction whose result `f` is compared across siblings: with all in agreement it comes to `t`; else the lowest thread
that disagrees is a machine check, and no destination has been written (R194, R390). -/
def Compared (s : State) (c : Ctx) (i : Instr) (f : Nat → DWord) (t : State) : Prop :=
  Ready s i c → (Agree c f → exec i s = .next t) ∧ ∀ n, Splits c c.threads f n → exec i s = .next (checkedAt s c f n)

/-- What limb instructions write is compared limb by limb: `w k sb j d` is what sibling `sb` gives destination `d` of limb `j` of
segment `k`. The first that differs, in segment `k` at limb `j` and destination `d`, is the one a machine check reports (R301, R390). -/
def LimbSplits (c : Ctx) (w : Nat → Nat → Nat → Nat → Word) (k j d : Nat) : Prop :=
  let same (k j d : Nat) : Prop := w k 0 j d = w k 1 j d ∧ w k 0 j d = w k 2 j d
  c.single = false ∧ k ∈ c.segments ∧ j < c.crew.limbN ∧ d < 2 ∧ ¬ same k j d ∧
  (∀ q ∈ c.segments, q < k → ∀ m, m < c.crew.limbN → same q m 0 ∧ same q m 1) ∧ (∀ m, m < j → same k m 0 ∧ same k m 1) ∧
  (d = 1 → same k j 0)

/-! ### Memory instructions -/

/-- The state in which a memory instruction looks up its pages: issued, and its destination, if any, empty (R170). -/
def memBase (s : State) (c : Ctx) : State :=
  match c.memReq.kind with
  | .ld | .atomr | .cas => (s.issued c).emptyData c c.accs
  | _ => s.issued c

/-- The state in which a memory instruction makes its accesses: translations that the cluster's TLB holds have entered the core's
(R51). -/
def memStart (s : State) (c : Ctx) : State :=
  c.promote (memBase s c) ((c.accs.flatMap fun a => c.pages (memBase s c) c.memReq a).eraseDups)

/-- A memory instruction passes what comes before translation: siblings agree (R309), the checks of its addresses (R18), no
ordered-atomic misuse (R311), no watchpoint (R425). -/
structure Checks (s : State) (c : Ctx) : Prop where
  agree : c.memMismatch c.memReq = none
  checks : c.prechecks (c.accs.map fun a => (c.memReq, a)) = none
  allowed : c.misuse c.memReq c.accs = false
  unwatched : c.watched (s.issued c) (c.accs.map fun a => (c.memReq, a)) = none

/-- The pages of its accesses that are not known yet (R52). -/
def unknown (s : State) (c : Ctx) : List Nat := c.missing (memBase s c) (c.accs.map fun a => (c.memReq, a))

/-- Every access of a memory instruction passes every check: with every page known, those after translation too (R18). -/
structure Passes (s : State) (c : Ctx) : Prop extends Checks s c where
  known : unknown s c = []
  reach : ∀ a ∈ c.accs, ∃ locs mt, c.reach (memStart s c) c.memReq a = .ok locs mt

/-- The accesses with the locations and the memory types that they reach. -/
def founds (s : State) (c : Ctx) : List Found :=
  c.accs.filterMap fun a => match c.reach (memStart s c) c.memReq a with
    | .ok locs mt => some ⟨c.memReq, a, locs, mt⟩
    | _ => none

/-- The accesses made by `perform`. -/
def accessed (s : State) (c : Ctx) (perform : Ctx → State → List Found → State) : State := perform c (memStart s c) (founds s c)

/-! ### Frames -/

/-- Instructions whose whole effect is on registers of their issuer, and on ARITHSTAT. -/
def registerOnly (i : Instr) : Bool :=
  match i with
  | .nop | .saddShort _ _ _ | .ssubShort _ _ _ | .sshlShort _ _ _ | .sshrShort _ _ _ | .smovShort _ _ | .vmovShort _ _ |
    .sadd _ | .ssub _ | .smul _ | .smulh _ | .sand _ | .sor _ | .sxor _ | .sshl _ | .sshr _ | .ssar _ | .smin _ | .smax _ |
    .ssel _ | .scmp _ | .sbfe _ | .sclz _ | .spopc _ | .saddp _ | .ssubp _ | .sshlp _ | .smov _ | .plop _ | .qlop _ |
    .pmask _ | .pset _ | .vadd _ | .vsub _ | .vmul _ | .vmulh _ | .vmad _ | .vand _ | .vor _ | .vxor _ | .vshl _ | .vshr _ |
    .vsar _ | .vmin _ | .vmax _ | .vabs _ | .vneg _ | .vadds _ | .vsubs _ | .vclz _ | .vpopc _ | .vbfe _ | .vbfi _ | .vsel _ |
    .vmov _ | .vcmp _ | .vcvt _ | .vsibget _ | .vsibmean _ | .vdigs _ | .vnot _ | .vfadd _ | .vfsub _ | .vfmul _ | .vfma _ |
    .vfdiv _ | .vfsqrt _ | .vfmin _ | .vfmax _ | .vfabs _ | .vfneg _ | .vfcps _ | .vfcmp _ | .vfrcp _ | .vfrcpr _ | .vfrsq _ |
    .vfrsqr _ | .vexp2 _ | .vexp2r _ | .vlog2 _ | .vlog2r _ | .vsin _ | .vsinr _ | .vcos _ | .vcosr _ | .vtanh _ | .vtanhr _ |
    .vnfadd _ | .vnfmul _ | .vnffma _ | .vnfpack _ | .vnfunpk _ | .vqblk _ | .vgmm _ | .vshfl _ | .vbcast _ | .vscan _ |
    .vred _ | .vote _ | .ballot _ | .vgf2mm _ | .vbdep _ | .vbext _ | .vbperm _ => true
  | _ => false

/-- A register `n` of a class is a destination of `i` in lane `l`. -/
def Target (c : Ctx) (i : Instr) (cls : RegClass) (n l : Nat) : Prop :=
  (∃ d ∈ instrDests i c.u.isCox c.single, d.cls = cls ∧ d.first ≤ n ∧ n < d.first + d.count) ∧
  (classPerLane cls = true → c.act.getLsbD l = true)

end Sys2Proof.Safety
end

