-- ==== Sys2Proof/Certificates/Slice0/Obligations.lean ====
section
/-! DEFINITION. The statements about the machine, for the provers: decoding and steps, what each instruction and each event of the device does, what it leaves unchanged, traps, and what every step keeps. -/

open Sys2Proof Sys2Proof.Machine Sys2Proof.Safety

/-! ### Words and steps -/

/-- R202, R205 to R209, R217: decoding the bytes of a well-formed instruction gives it back, every operand at every value. -/
def Obligations.DecodeEncode : Prop :=
  ∀ i : Instr, i.wellFormed = true → decodeBytes ((encode i).flatMap bytesOfWord) = .ok i

/-- R202, R204, R217: what decodes is well formed, and its words are those of its encoding: each word has one meaning. -/
def Obligations.OneMeaningPerWord : Prop :=
  ∀ (ws : List Word) (i : Instr), decode ws = .ok i → i.wellFormed = true ∧ ws.take (encode i).length = encode i

/-- A few words written out from the encodings of R205 to R209 decode to what they stand for. -/
def Obligations.DecodeWords : Prop :=
  decode [0x84241C04#32] = .ok (.saddShort 7 9 33) ∧
  decode [0x00000020#32] = .ok .exit ∧
  decode [0x2400003C#32] = .ok (.bar 9) ∧
  decode [0x14041081#32, 0x01110000#32] = .ok (.sadd ⟨4, 1, 5, 0, 0, true, false, false, false, 1, 1, none⟩) ∧
  decode [0x00000112#32, 0x00010000#32, 0xFFFFFFC0#32] =
    .ok (.call ⟨0, 0, 0, 0, 0, true, false, false, false, 0, 0, some 0xFFFFFFC0#32⟩) ∧
  decode [0x800C2B05#32, 0x0AFFFFF8#32] = .ok (.ldVS ⟨10, 3, 0, true, 0xFFFFF8#24, 10, 0, false, false, none⟩) ∧
  decode [0x840C2B32#32, 0x05000000#32, 0x00F0000C#32] =
    .ok (.atomrVS ⟨10, 3, 2, true, 0, 5, 0, false, false, some ⟨12, 0, 0, 3, 3, false, false, 0⟩⟩) ∧
  decode [0x00000003#32] = .error .length ∧ decode [0x00000058#32] = .error .opcode ∧ decode [0x04000000#32] = .error .fields

/-- R70, R202, R203: when the bytes that the chosen slot has fetched at its address decode to an instruction, the step is that
instruction's meaning; the meaning moves the slot past the instruction's words. -/
def Obligations.StepRunsDecoded : Prop :=
  ∀ (s : State) (iss : Issuer) (u : UnitSt) (b : FetchBlock) (i : Instr),
    s.issuer = some iss → s.unit? iss.unit = some u →
    ((u.slot iss.slot).skipBp = true ∨ s.breakAt iss.unit (u.slot iss.slot).pc = none) →
    (u.slot iss.slot).block? (u.slot iss.slot).pc = some b → decode (b.words (u.slot iss.slot).pc) = .ok i →
    step s = exec i s ∧ (s.ctxOf i iss u).nextPc = (u.slot iss.slot).pc + BitVec.ofNat 64 (4 * (encode i).length)

/-- R203, R204: words that are no instruction take the illegal-encoding trap at their address, with the cause as subcode and
the first word as code. R204, R207, R210 to R215: an instruction whose encoding is illegal for its issuer takes the
illegal-encoding trap at its address, whichever instruction it is: the cause is the subcode and the first word the code. -/
def Obligations.IllegalEncodings : Prop :=
  (∀ (s : State) (iss : Issuer) (u : UnitSt) (b : FetchBlock) (r : Reject),
     let pc := (u.slot iss.slot).pc
     s.issuer = some iss → s.unit? iss.unit = some u → ((u.slot iss.slot).skipBp = true ∨ s.breakAt iss.unit pc = none) →
     (u.slot iss.slot).block? pc = some b → decodeFields (b.words pc) = .error r → r ≠ .truncated →
     step s = .next (trapAt s (s.ctxOf .nop iss u)
       { kind := 6, sub := r.cause, code := ((b.words pc).head?).getD 0, addr := 0, lanes := none })) ∧
  (∀ (s : State) (i : Instr) (iss : Issuer) (u : UnitSt) (k : Nat), i.isEvent = false → s.issuer = some iss →
     s.unit? iss.unit = some u → (u.slot iss.slot).pendingOn = none → i.cause (some (s.encCtx u)) = some k →
     exec i s = .next (trapAt s (s.ctxOf i iss u)
       { kind := 6, sub := k, code := ((encode i).head?).getD 0, addr := 0, lanes := none }))

/-- Log entry 1: with no slot chosen, a check value goes bad that is about to; else a message from outside lands, in recovery only
one that comes by the Hecen port (R417, R419); otherwise the package moves by itself: an event that is due, or the rest of an
instruction that has issued, and with neither the state stays but for the free choice's count. Whatever is chosen, and whatever the
device does by itself, the step answers a next state: only a message from outside can be one that has no meaning. -/
def Obligations.StepOrder : Prop :=
  (∀ s : State, s.issuer = none →
    (∀ u rest, s.upsets = u :: rest → step s = .next ({ s with upsets := rest }.strike u)) ∧
    (s.upsets = [] → ∀ e rest, s.inbox = e :: rest → step s =
      if s.plat.recovery = true ∧ byHecen e = false then .next { s with inbox := rest } else exec e { s with inbox := rest }) ∧
    (s.upsets = [] → s.inbox = [] →
      let t : State := { s with free := s.free + 1 }
      (t.moves = [] ∧ step s = .next t) ∨
      ∃ m ∈ t.moves, step s = match m with
        | .event e => exec e t
        | .goOn i => (t.goOn i).issueStep)) ∧
  (∀ s : State, (s.issuer ≠ none ∨ s.upsets ≠ [] ∨ s.inbox = []) → ∃ t, step s = .next t)

/-- What reset leaves, of what the spec states: no unit, no operation, no launch; queues off with weight 4 (R366); migration slots
free (R72); ETO 50 and RETRYMAX 8 (R404); every debug register as R421 gives it; DIECTR and the counters zero (R255, R428);
memory with nothing listed (log entry 5). -/
def Obligations.ResetState : Prop :=
  let s := State.reset
  s.issuer = none ∧ s.inbox = [] ∧ s.upsets = [] ∧ s.crews = [] ∧ s.coxes = [] ∧ s.flight.loads = [] ∧ s.flight.stores = [] ∧
  s.dealer.launches = [] ∧ s.dealer.queues = List.replicate 128 ⟨0, false, false, 0, 4, 0, 0⟩ ∧
  s.xlat.migs = List.replicate 16 MigSlot.zero ∧ s.fab.eto = 50 ∧ s.fab.retryMax = 8 ∧ s.plat.dieCtr = [] ∧
  (∀ pid, s.part pid = PartDebug.zero) ∧ s.outputs = [] ∧ s.mem = [] ∧ memoryInv s

/-- Every step keeps global memory in canonical form, from every state. That memory is held in this form is the model's choice (log entry
5), no rule of the spec. -/
def Obligations.StepKeepsMemory : Prop :=
  ∀ s t : State, memoryInv s → step s = .next t → memoryInv t

/-! ### The gate -/

/-- R226: an instruction whose uniform guard selects no action only counts and advances: no register, no byte and no other unit
changes. R226, R256, R390: in triple mode a per-thread guard whose three bits disagree in a thread is a sibling mismatch: the
machine check names the lowest such thread's first lane, and the launch ends. That lane is the model's reading of R390 (log entry 55), and
so is that an instruction which its guard turns off takes no trap of its operands (log entry 117). -/
def Obligations.Guards : Prop :=
  (∀ (s : State) (i : Instr) (iss : Issuer) (u : UnitSt), i.isEvent = false → s.issuer = some iss → s.unit? iss.unit = some u →
     (u.slot iss.slot).pendingOn = none → i.cause (some (s.encCtx u)) = none → (u.slot iss.slot).unfinished = none → uniformGuard u (instrGuard i) = true →
     u.allFull (guardWait u (instrGuard i) (u.slot iss.slot).mask) = true →
     guardLanes u (instrGuard i) (u.slot iss.slot).mask = 0 → exec i s = .next (s.issued (s.ctxOf i iss u))) ∧
  (∀ (s : State) (i : Instr) (iss : Issuer) (u : UnitSt) (t : Nat), i.isEvent = false → s.issuer = some iss →
     s.unit? iss.unit = some u → (u.slot iss.slot).pendingOn = none → i.cause (some (s.encCtx u)) = none →
     u.allFull (guardWait u (instrGuard i) (u.slot iss.slot).mask) = true →
     let c := s.ctxOf i iss u
     c.guardSplit = some t →
     exec i s = .next ({ s with issuer := none }.machineCheck iss.unit iss.slot c.pc (3 * t)
       (b2w (c.act.getLsbD (3 * t)), b2w (c.act.getLsbD (3 * t + 1)), b2w (c.act.getLsbD (3 * t + 2)))))

/-- R171, R285: the guard's register is waited for; then the first source, in the order of R385's subcodes, with an empty register in
a lane that reads it makes the slot wait, or, with its trap-on-empty bit set, takes the empty-register trap at the instruction; then an
empty destination makes the slot wait. Every acting lane reads a source, but for VSHFL and VBCAST, which read only what `readers`
names. That sources are taken in the order of the subcodes in the lanes that act, the first empty one deciding, is the model's reading (log
entry 25), and so is that CODE names the first register of the run (log entry 51). -/
def Obligations.EmptyRegisters : Prop :=
  (∀ (s : State) (i : Instr) (iss : Issuer) (u : UnitSt), i.isEvent = false → s.issuer = some iss → s.unit? iss.unit = some u →
    i.cause (some (s.encCtx u)) = none → (u.slot iss.slot).unfinished = none → (u.slot iss.slot).counted = false →
    let c := s.ctxOf i iss u
    let waits (runs : List (RegClass × Nat × Mask)) : State := { s with issuer := none }.modUnit iss.unit fun v =>
      v.setSlot iss.slot { v.slot iss.slot with st := .blocked (.regs runs) }
    let g := guardWait u (instrGuard i) c.mask
    let reads (x : RegRun) (sub : Nat) : List (RegClass × Nat × Mask) := runWaits i (c.readers sub) x
    (u.allFull g = false → exec i s = .next (waits g)) ∧
    (u.allFull g = true → c.guardSplit = none → c.act ≠ 0 →
      (∀ (x : RegRun) (sub : Nat) (te : Bool) (before after : List (RegRun × Nat × Bool)),
        instrSources i u.isCox c.single = before ++ (x, sub, te) :: after →
        (∀ y ∈ before, u.allFull (reads y.1 y.2.1) = true) → u.allFull (reads x sub) = false →
        exec i s = .next (if te then trapAt s c
            { kind := 2, sub := sub, code := BitVec.ofNat 32 (x.first + 256 * classNum x.cls), addr := 0
              lanes := if classPerLane x.cls then some (u.anyEmpty (reads x sub)) else none }
          else waits (reads x sub))) ∧
      ((∀ y ∈ instrSources i u.isCox c.single, u.allFull (reads y.1 y.2.1) = true) → u.allFull c.destWaits = false →
        exec i s = .next (waits c.destWaits)))) ∧
  (∀ (c : Ctx) (k : Nat), (∀ o, c.i ≠ .vshfl o ∧ c.i ≠ .vbcast o) → c.readers k = c.act) ∧
  (∀ (c : Ctx) (o : Op) (l : Nat), c.i = .vbcast o → l < 96 →
    ((c.readers 1).getLsbD l = true ↔ ∃ t ∈ c.threads, (∀ q ∈ c.mates t, t ≤ q) ∧ l ∈ laneSet c.single t))

/-! ### Scalar and uniform results -/

/-- R218, R229: the 32-bit forms. NOP only counts and advances; SADD, SSUB, SSHL and SSHR compute as their .B32 forms with the
immediate zero-extended, as a literal of a .B32 instruction stands for its 32 bits (R207), so that the literal −4 subtracts 4.
R218: SMOV.B32 copies one scalar register, VMOV.F32 each lane's register in every lane of the slot's mask. -/
def Obligations.ShortForms : Prop :=
  (∀ (s : State) (c : Ctx) (d a : BitVec 8) (imm : BitVec 6),
     (Ready s .nop c → exec .nop s = .next (s.issued c)) ∧
     (Ready s (.saddShort d a imm) c →
       exec (.saddShort d a imm) s = .next (wrote s c (sReg d.toNat (c.u.scal.sget a.toNat + imm.zeroExtend 32)))) ∧
     (Ready s (.ssubShort d a imm) c →
       exec (.ssubShort d a imm) s = .next (wrote s c (sReg d.toNat (c.u.scal.sget a.toNat - imm.zeroExtend 32)))) ∧
     (Ready s (.sshlShort d a imm) c →
       exec (.sshlShort d a imm) s = .next (wrote s c (sReg d.toNat
         (if imm.toNat < 32 then c.u.scal.sget a.toNat <<< imm.toNat else 0)))) ∧
     (Ready s (.sshrShort d a imm) c →
       exec (.sshrShort d a imm) s = .next (wrote s c (sReg d.toNat
         (if imm.toNat < 32 then c.u.scal.sget a.toNat >>> imm.toNat else 0)))) ∧
     (∀ o : Op, o.ty.toNat = tyB32 → o.lit = some (-4) → Ready s (.sadd o) c → o.fn = 0 →
       exec (.sadd o) s = .next (wrote s c (sReg o.d.toNat (c.u.scal.sget o.sa.toNat - 4))))) ∧
  (∀ (s : State) (c : Ctx) (d a : BitVec 8),
     (Ready s (.smovShort d a) c → exec (.smovShort d a) s = .next (wrote s c (sReg d.toNat (c.u.scal.sget a.toNat)))) ∧
     (Ready s (.vmovShort d a) c → exec (.vmovShort d a) s = .next (wrote s c
       ((lanesOf c.act).map fun l => ⟨.v, d.toNat, l, c.crew.vget a.toNat l⟩))))

/-- R228: what each scalar operation writes to its one destination register, exact before the stated wrap or clamp; a float
flag never changes (the next state is the issued one with that register written). R230 with R7 and R207: the pair forms act on
64-bit values, the low half in the even register; a literal widens as the type says, so that SADDP.I64 with −256 subtracts 256. -/
def Obligations.ScalarResults : Prop :=
  (∀ (s : State) (c : Ctx) (o : Op),
     let a := c.s32 0
     let b := c.s32 1
     let sat := o.fn = 1
     let i32 := o.ty.toNat = tyI32
     let gives (i : Instr) (v : Word) : Prop := Ready s i c → exec i s = .next (wrote s c (sReg o.d.toNat v))
     gives (.sadd o) (if sat ∧ i32 then BitVec.ofInt 32 (max (-(2 ^ 31)) (min (2 ^ 31 - 1) (a.toInt + b.toInt)))
       else if sat then BitVec.ofNat 32 (min (2 ^ 32 - 1) (a.toNat + b.toNat)) else a + b) ∧
     gives (.ssub o) (if sat ∧ i32 then BitVec.ofInt 32 (max (-(2 ^ 31)) (min (2 ^ 31 - 1) (a.toInt - b.toInt)))
       else if sat then BitVec.ofNat 32 (a.toNat - b.toNat) else a - b) ∧
     gives (.smul o) (a * b) ∧
     gives (.smulh o) (if i32 then BitVec.ofInt 32 (a.toInt * b.toInt / 2 ^ 32) else BitVec.ofNat 32 (a.toNat * b.toNat / 2 ^ 32)) ∧
     gives (.sand o) (a &&& b) ∧ gives (.sor o) (a ||| b) ∧ gives (.sxor o) (a ^^^ b) ∧
     gives (.sshl o) (if b.toNat < 32 then a <<< b.toNat else 0) ∧
     gives (.sshr o) (if b.toNat < 32 then a >>> b.toNat else 0) ∧
     gives (.ssar o) (a.sshiftRight (min b.toNat 31)) ∧
     gives (.smin o) (if (if i32 then a.toInt ≤ b.toInt else a.toNat ≤ b.toNat) then a else b) ∧
     gives (.smax o) (if (if i32 then a.toInt ≤ b.toInt else a.toNat ≤ b.toNat) then b else a) ∧
     gives (.ssel o) (if c.s32 2 = 1 then a else b) ∧
     (let pos := b.toNat % 32
      let len := min ((c.s32 2).toNat % 64) (32 - pos)
      let f := a.toNat / 2 ^ pos % 2 ^ len
      gives (.sbfe o) (if len = 0 then 0 else if i32 then BitVec.ofInt 32 (if f < 2 ^ (len - 1) then f else f - 2 ^ len)
        else BitVec.ofNat 32 f)) ∧
     gives (.sclz o) (BitVec.ofNat 32 ((List.range 32).takeWhile fun k => !(a.getLsbD (31 - k))).length) ∧
     gives (.spopc o) (BitVec.ofNat 32 ((List.range 32).countP fun k => a.getLsbD k))) ∧
  (∀ (s : State) (c : Ctx) (o : Op),
     let a := c.src 0 0
     let b := c.src 1 0
     (Ready s (.saddp o) c → exec (.saddp o) s = .next (wrote s c (sPair o.d.toNat (a + b)))) ∧
     (Ready s (.ssubp o) c → exec (.ssubp o) s = .next (wrote s c (sPair o.d.toNat (a - b)))) ∧
     (Ready s (.sshlp o) c → exec (.sshlp o) s = .next (wrote s c (sPair o.d.toNat
       (if (c.s32 1).toNat < 64 then a <<< (c.s32 1).toNat else 0)))) ∧
     (∀ l, (Ready s (.saddp o) c ∨ Ready s (.ssubp o) c) → o.lit = some l → b = if o.ty.toNat = tyI64 then l.signExtend 64 else l.zeroExtend 64) ∧
     (Ready s (.saddp o) c → o.lit = some (-256) → o.ty.toNat = tyI64 →
       exec (.saddp o) s = .next (wrote s c (sPair o.d.toNat (c.u.scal.sget2 o.sa.toNat - 256)))))

/-- R228, R231, R232: a 32- or 64-bit move; a comparison, signed for .I types and natural for the others; uniform predicate
logic by entry 2a + b of the truth table in FN. R232, R233, R194: predicate logic in each acting lane, compared across the
siblings; a predicate read as a mask of the lanes of the slot's mask; and a scalar written into the selected part of
a predicate, in the active lanes alone. -/
def Obligations.ScalarMovesAndPredicates : Prop :=
  (∀ (s : State) (c : Ctx) (o : Op),
     (Ready s (.smov o) c → exec (.smov o) s = .next (wrote s c
       (if is64 o.ty.toNat then sPair o.d.toNat (c.src 0 0) else sReg o.d.toNat (c.s32 0)))) ∧
     (let k := o.fn.toNat
      let wide := is64 o.ty.toNat
      let i := o.ty.toNat = tyI32 ∨ o.ty.toNat = tyI64
      let eq := if wide then c.src 0 0 = c.src 1 0 else c.s32 0 = c.s32 1
      let lt := if wide then (if i then (c.src 0 0).slt (c.src 1 0) else (c.src 0 0).ult (c.src 1 0))
        else (if i then (c.s32 0).slt (c.s32 1) else (c.s32 0).ult (c.s32 1))
      Ready s (.scmp o) c → exec (.scmp o) s = .next (wrote s c (qReg o.d.toNat (decide (
        (k = 0 ∧ eq) ∨ (k = 1 ∧ ¬ eq) ∨ (k = 2 ∧ lt = true) ∨ (k = 3 ∧ (lt = true ∨ eq)) ∨ (k = 4 ∧ ¬ (lt = true ∨ eq)) ∨
        (k = 5 ∧ ¬ lt = true)))))) ∧
     (Ready s (.qlop o) c → exec (.qlop o) s = .next (wrote s c (qReg o.d.toNat
       (o.fn.getLsbD (2 * (if c.u.scal.qget o.sa.toNat then 1 else 0) + (if c.u.scal.qget o.sb.toNat then 1 else 0))))))) ∧
  (∀ (s : State) (c : Ctx) (o : Op),
     (let bit (r : BitVec 8) (l : Nat) : Nat := if (c.crew.pget r.toNat).getLsbD l then 1 else 0
      let f (l : Nat) : Bool := o.fn.getLsbD (2 * bit o.sa l + bit o.sb l)
      Compared s c (.plop o) (fun l => if f l then 1 else 0) (wrote s c
        ((lanesOf c.act).map fun l => ⟨.p, o.d.toNat, l, b2w (f l)⟩))) ∧
     (Ready s (.pmask o) c → ∃ v : Word, exec (.pmask o) s = .next (wrote s c (sReg o.d.toNat v)) ∧ ∀ i, i < 32 →
       let l := if o.fn.toNat = 3 then 3 * i else 32 * o.fn.toNat + i
       v.getLsbD i = ((c.crew.pget o.sa.toNat).getLsbD l && c.mask.getLsbD l)) ∧
     (Ready s (.pset o) c → ∃ ws : List RegWrite, exec (.pset o) s = .next (wrote s c ws) ∧ ∀ w : RegWrite,
       w ∈ ws ↔ ∃ i, i < 32 ∧ w.cls = .p ∧ w.reg = o.d.toNat ∧ w.val = b2w ((c.s32 0).getLsbD i) ∧ c.mask.getLsbD w.lane = true ∧
         (if o.fn.toNat = 3 then w.lane / 3 = i else w.lane = 32 * o.fn.toNat + i)))

/-! ### System registers -/

/-- R254, R255, R151, R152, R387: what SYSR reads. The registers of a crew, a slot or a launch go to a scalar or a scalar pair;
a register held per lane goes to every lane of the crew, the thread's count before this SYSR is counted. R254, R255, R190,
R191, R177, R307, R387: what SYSW writes. An invalid value of ARITHCTL or of a number-format register takes the
illegal-encoding trap with cause 8 at the SYSW and writes nothing; reserved bits of the latter stay 0 (R8); a write-one-to-clear field loses the bits written as 1; a
register that only reads, and one from 0x80 on, ignores the write. -/
def Obligations.SystemRegisters : Prop :=
  (∀ (s : State) (c : Ctx) (o : Op),
     let x := c.u.scal
     let t (l : Nat) : Nat := if c.single then l else l / 3
     let narrow (n : Nat) (v : Word) : Prop :=
       Ready s (.sysr o) c → o.fn.toNat = n → exec (.sysr o) s = .next (wrote s c (sReg o.d.toNat v))
     let wide (n : Nat) (v : DWord) : Prop :=
       Ready s (.sysr o) c → o.fn.toNat = n → exec (.sysr o) s = .next (wrote s c (sPair o.d.toNat v))
     let lanes (n : Nat) (v : Nat → DWord) : Prop :=
       Ready s (.sysr o) c → o.fn.toNat = n → exec (.sysr o) s = .next (wrote s c ((List.range c.crew.lanes).flatMap fun l =>
         ⟨.v, o.d.toNat, l, (v l).extractLsb' 0 32⟩ ::
           (if n = 0x82 then [⟨.v, o.d.toNat + 1, l, (v l).extractLsb' 32 32⟩] else [])))
     narrow 0x00 c.crew.arithCtl ∧ narrow 0x01 c.crew.arithStat ∧ wide 0x02 (BitVec.ofNat 64 (s.memWin c.u c.lr)) ∧
     wide 0x04 (c.lr.poolPart.zeroExtend 64) ∧ wide 0x06 c.lr.seed ∧ narrow 0x08 (BitVec.ofNat 32 (s.crewPos c.u)) ∧
     narrow 0x09 (BitVec.ofNat 32 c.iss.unit.gang) ∧ narrow 0x0A (BitVec.ofNat 32 c.lr.gangCount) ∧ narrow 0x0B c.lr.shape ∧
     wide 0x0C (c.lr.codeBase &&& 0x00FFFFFFFFFFFFFF#64) ∧ wide 0x0E (s.dieCtr (s.dieOf c.iss.unit)) ∧ narrow 0x10 c.slot.link ∧ narrow 0x11 x.round ∧
     narrow 0x12 c.crew.limbStat ∧ wide 0x14 (x.voc ++ x.mat ++ x.net ++ x.cpy) ∧
     narrow 0x16 (BitVec.ofNat 32 (s.slotInfo c.u c.iss.slot)) ∧
     (∀ k, k < 4 → narrow (0x18 + k) (tget 0 c.crew.nf k)) ∧
     (∀ k, k < 10 → narrow (0x20 + k) ((x.trap.words[k]?).getD 0)) ∧ (∀ k, 10 ≤ k → k < 16 → narrow (0x20 + k) 0) ∧
     lanes 0x80 (fun l => (c.tid (t l)).zeroExtend 64) ∧
     lanes 0x81 (fun l => BitVec.ofNat 64 (t l + (if c.single then 0 else l % 3 * 256))) ∧
     lanes 0x82 (fun l => BitVec.ofNat 64 (c.icount (t l)))) ∧
  (∀ (s : State) (c : Ctx) (o : Op) (x : Crew), Ready s (.sysw o) c → c.u = .crew x →
     let v := c.s32 0
     let n := o.fn.toNat
     let crew (f : Crew → Crew) : State := (s.issued c).modCrew c.iss.unit f
     let bad := trapAt s c (illegalTrap 8 (firstWord (.sysw o)))
     (n = 0x00 → exec (.sysw o) s = .next (if arithCtlValid v then crew fun y => { y with arithCtl := v } else bad)) ∧
     (n = 0x01 → exec (.sysw o) s = .next (crew fun y => { y with arithStat := y.arithStat &&& ~~~v })) ∧
     (n = 0x10 → exec (.sysw o) s = .next ((s.issued c).modSlot c fun y => { y with link := v })) ∧
     (n = 0x12 → exec (.sysw o) s = .next (crew fun y =>
       { y with limbChi := y.limbChi && !(v.getLsbD 24), limbCarry := y.limbCarry &&& ~~~(v.extractLsb' 0 24) })) ∧
     (∀ k, k < 4 → n = 0x18 + k → exec (.sysw o) s = .next (if nfValid v then wrote s c [⟨.nf, k, 0, nfFields v⟩] else bad)) ∧
     (n = 0x20 → exec (.sysw o) s = .next (crew fun y =>
       { y with scal := { y.scal with trap := { y.scal.trap with skipBp := v.getLsbD 8 } } })) ∧
     (n = 0x21 → exec (.sysw o) s = .next (crew fun y => { y with scal := { y.scal with trap := { y.scal.trap with resume := v } } })) ∧
     (n = 0x02 ∨ n = 0x04 ∨ n = 0x06 ∨ (0x08 ≤ n ∧ n ≤ 0x0E) ∨ n = 0x11 ∨ n = 0x14 ∨ n = 0x16 ∨ 0x22 ≤ n →
       exec (.sysw o) s = .next (s.issued c)))

/-! ### Branches, calls and slots -/

/-- R234, R235, R207: branches and calls move the whole issuing slot. BRA, BRC and CALL go to their own address plus the signed
literal; BRX, CALLX and RET to the code base plus a register-held offset, which takes the illegal-encoding trap with cause 3 at
the branch, before control moves, when it is no multiple of 4; CALL and CALLX set LINK to the offset of the next instruction.
R158, R236: a divergent branch of a crew. Siblings that disagree in the lanes of the slot are a machine check (R390); a taken set that splits a limb segment
traps; with no lane taken it falls through, with every lane taken the slot branches; otherwise the taken lanes go to the other
slot, which must be empty, with no bracket open. -/
def Obligations.Branches : Prop :=
  (∀ (s : State) (c : Ctx) (o : Op),
     let gives (i : Instr) (s' : State) : Prop := Ready s i c → exec i s = .next s'
     let near := c.pc + (o.lit.getD 0).signExtend 64
     let far := c.lr.codeBase + (c.s32 0).zeroExtend 64
     let link := (c.nextPc - c.lr.codeBase).extractLsb' 0 32
     let go (pc : DWord) : State := (s.issued c).modSlot c fun x => { x with pc := pc }
     let call (pc : DWord) : State := ((s.issued c).modSlot c fun x => { x with link := link }).modSlot c fun x => { x with pc := pc }
     let odd (i : Instr) : State := trapAt s c (illegalTrap 3 (firstWord i))
     let p := c.crew.pget o.sa.toNat &&& c.mask
     let q := c.u.scal.qget o.sa.toNat
     gives (.bra o) (go near) ∧ gives (.call o) (call near) ∧
     gives (.brc o) (if (if c.u.isCox then (if o.fn.toNat = 2 then ¬ q = true else q = true)
         else (if o.fn.toNat = 0 then p ≠ 0 else if o.fn.toNat = 1 then p = c.mask else p = 0))
       then go near else s.issued c) ∧
     gives (.brx o) (if (c.s32 0).toNat % 4 = 0 then go far else odd (.brx o)) ∧
     gives (.callx o) (if (c.s32 0).toNat % 4 = 0 then call far else odd (.callx o)) ∧
     gives .ret (if c.slot.link.toNat % 4 = 0 then go (c.lr.codeBase + c.slot.link.zeroExtend 64) else odd .ret)) ∧
  (∀ (s : State) (c : Ctx) (o : Op), Ready s (.brd o) c →
     let p (l : Nat) : DWord := if (c.crew.pget o.sa.toNat).getLsbD l then 1 else 0
     ∀ n, Splits c (threadsIn c.single c.mask) p n → exec (.brd o) s = .next (checkedAt s c p n)) ∧
  (∀ (s : State) (c : Ctx) (o : Op), Ready s (.brd o) c →
     Agree { c with act := c.mask } (fun l => if (c.crew.pget o.sa.toNat).getLsbD l then 1 else 0) →
     let t := c.crew.pget o.sa.toNat &&& c.mask
     let near := c.pc + (o.lit.getD 0).signExtend 64
     let trap (x : TrapInfo) : State := trapAt s c x
     (splitsSegment c.single c.crew.limbN t = true → exec (.brd o) s = .next (trap (TrapInfo.of 4 1))) ∧
     (splitsSegment c.single c.crew.limbN t = false →
       (t = 0 → exec (.brd o) s = .next (s.issued c)) ∧
       (t ≠ 0 → t = c.mask → exec (.brd o) s = .next ((s.issued c).modSlot c fun x => { x with pc := near })) ∧
       (t ≠ 0 → t ≠ c.mask → c.crew.bracket.isSome = true → exec (.brd o) s = .next (trap (TrapInfo.of 5 2))) ∧
       (t ≠ 0 → t ≠ c.mask → c.crew.bracket = none → c.other.st ≠ .empty → exec (.brd o) s = .next (trap (TrapInfo.of 5 1))) ∧
       (t ≠ 0 → t ≠ c.mask → c.crew.bracket = none → c.other.st = .empty → exec (.brd o) s = .next
         ((s.issued c).modCrew c.iss.unit fun x =>
           let y := x.setSlot (1 - c.iss.slot) { Slot.start near t with link := c.slot.link }
           y.setSlot c.iss.slot { y.slot c.iss.slot with mask := c.mask &&& ~~~t }))))

/-- R159, R237, R164, R165, R241, R243: joining, brackets and yielding. -/
def Obligations.JoinsAndBrackets : Prop :=
  ∀ (s : State) (c : Ctx),
    let k := c.iss.slot
    let crew (f : Crew → Crew) : State := (s.issued c).modCrew c.iss.unit f
    let trap (n : Nat) : State := trapAt s c (TrapInfo.of 5 n)
    (Ready s .join c → (c.crew.bracket.isSome = true ∨ c.other.st = .empty) → exec .join s = .next (s.issued c)) ∧
    (Ready s .join c → c.crew.bracket = none → c.other.st = .joinWait → c.other.frozen = false →
      exec .join s = .next (if c.other.pc = c.pc then crew fun x =>
        { x with slot0 := { x.slot0 with pc := c.nextPc, st := .ready, mask := x.slot0.mask ||| x.slot1.mask }, slot1 := Slot.none }
        else trap 3)) ∧
    (Ready s .join c → c.crew.bracket = none → c.other.st ≠ .empty → ¬ (c.other.st = .joinWait ∧ c.other.frozen = false) →
      exec .join s = .next ((s.issued c).modSlot c fun x => { x with pc := c.pc, st := .joinWait })) ∧
    (Ready s .bktOpen c → exec .bktOpen s = .next (if c.crew.bracket.isSome then trap 7 else crew fun x =>
      let y := if (x.slot (1 - k)).st = .empty then x else x.setSlot (1 - k) { x.slot (1 - k) with frozenBkt := true }
      { y.setSlot k { y.slot k with mask := fullMask y.lanes &&& ~~~y.exited } with bracket := some c.mask })) ∧
    (∀ b, Ready s .bktClose c → c.crew.bracket = some b → exec .bktClose s = .next (crew fun x =>
      let y := x.setSlot (1 - k) { x.slot (1 - k) with frozenBkt := false }
      { y.setSlot k { y.slot k with mask := b } with bracket := none })) ∧
    (Ready s .bktClose c → c.crew.bracket = none → exec .bktClose s = .next (trap 7)) ∧
    (Ready s .yield c → exec .yield s = .next (if c.u.isCox then s.issued c
      else (s.issued c).modSlot c fun x => { x with yielded := true }))

/-- R160, R161, R162, R165, R238 to R240, R242: lanes leave and parked records; the EXIT that empties the slot of a handler ends the
handler (R389). R247, R381: DRAW clears the mailbox's READY flag and the rest of its last eight bytes, counts a request of the
workgroup and sends it to the dealer; a reserved bit set takes a control-state trap, a mailbox that is misaligned or out of the
scratchpad an address fault that parks the slot, a watched flag stops the partition before it (R425). That DRESUME resumes whatever lanes
the record holds is the model's reading (log entry 116), and so is that lanes which exit leave the bracket and both masks (log entry 67). -/
def Obligations.ExitAndDraws : Prop :=
  (∀ (s : State) (c : Ctx) (d a : BitVec 8),
     let trap (n : Nat) : State := trapAt s c (TrapInfo.of 5 n)
     let off := (c.nextPc - c.lr.codeBase).extractLsb' 0 32
     let rec_ := c.recordAt a.toNat
     let pcoff : Word := (rec_[1]?).getD 0
     let m := recordMask c.single rec_
     (∀ x, Ready s .exit c → c.u = .crew x → ∃ y : Crew, (s.issued c).unit? c.iss.unit = some (.crew y) ∧
       let k := if y.scal.trap.slot then 1 else 0
       let z := y.exitLanes c.mask
       exec .exit s = .next (((s.issued c).setUnit
         (if y.scal.trap.inh = true ∧ (y.slot k).st ≠ .empty ∧ (z.slot k).st = .empty then (UnitSt.crew z).endHandler
          else .crew z)).settleCrew c.iss.unit)) ∧
     (Ready s .exit c → c.u.isCox = true → exec .exit s = .next
       ((((s.issued c).modUnit c.iss.unit fun u => match u with
         | .cox y => .cox { y with slot := Slot.none, ended := true }
         | y => y).settleGbar c.iss.unit.ident c.iss.unit.gang).reapGang c.iss.unit.ident c.iss.unit.gang)) ∧
     (Ready s (.dpark d) c → exec (.dpark d) s = .next (if c.other.st = .empty ∨ c.crew.bracket.isSome = true then trap 6
       else ((wrote s c (scalarWrites d.toNat (recordWords c.single c.mask off))).modSlot c fun _ => Slot.none).settleCrew
         c.iss.unit)) ∧
     (Ready s (.dresume a) c → exec (.dresume a) s = .next (
       if c.other.st ≠ .empty then trap 4
       else if pcoff.toNat % 4 ≠ 0 ∨ m &&& ~~~(fullMask c.crew.lanes) ≠ 0 then trap 5
       else if m = 0 then s.issued c
       else (s.issued c).modCrew c.iss.unit fun x => x.setSlot (1 - c.iss.slot)
         { Slot.start (c.lr.codeBase + pcoff.zeroExtend 64) m with link := c.slot.link })) ∧
     (Ready s (.dprune d a) c → exec (.dprune d a) s = .next
       ((wrote s c (scalarWrites a.toNat (recordWords c.single (m &&& ~~~c.mask) pcoff))).writeRegs c
         (qReg d.toNat (m &&& ~~~c.mask == 0))))) ∧
  (∀ (s : State) (c : Ctx) (o : Op), Ready s (.draw o) c →
     let r := c.iss.unit
     let mbox := (c.s32 0).toNat
     let b := (c.s32 1).toNat
     (bits b 20 12 ≠ 0 → exec (.draw o) s =
       .next (trapAt s c (TrapInfo.of 5 9))) ∧
     (∀ k, bits b 20 12 = 0 → c.spRecord mbox 32 32 = .error k → exec (.draw o) s =
       .next (recordFault s c k 1 mbox)) ∧
     (∀ wg off, bits b 20 12 = 0 → c.spRecord mbox 32 32 = .ok (wg, off) →
       let flag := (s.issued c).watchSp r.ident r.gang wg ((List.range 8).map fun j => off + 24 + j) c.slot.skipWatch
       (∀ n addr, flag = some (n, addr) → exec (.draw o) s = .next (s.finish c (.watch n addr 127))) ∧
       (flag = none →
         let t := ((s.issued c).spWrite r wg (off + 24) (List.replicate 8 0)).modWg r.ident r.gang (wgOf r) fun w =>
           { w with draws := w.draws + 1 }
         exec (.draw o) s = .next { t with dealer :=
           { t.dealer with draws := t.dealer.draws ++ [⟨r, wgOf r, mbox, bits b 0 20, c.lr.asid⟩] } })))

/-! ### Barriers, rounds, engine waits, handles, drawn work -/

/-- R166, R244, R245, R246, R138: a crew arrives at a barrier of its workgroup, or at the gang barrier, its slot is blocked
until the generation that it arrived for has passed, and barriers with every party present advance; with both slots live and no
bracket it takes the divergence trap and does not arrive. ORND raises ROUND by one. R248, R249, R250, R131: waiting for
engines, and future handles. WAIT.ENG writes the counter that satisfied it; HWAIT leaves the handle's word, HTEST whether the handle
is full, to a producer (R170); each is an acquire when what it orders reached gang scope; HCANCEL asks the handle's copy to stop, whatever its phase;
HPASS gives the handle's word, or its operation, to a handle of another crew (that both pass over TEA is the model's reading, log entry
129). No operation of the unit has met a non-finite
logit (R355 says what happens then). -/
def Obligations.BarriersAndWaits : Prop :=
  (∀ (s : State) (c : Ctx) (n : BitVec 6),
     let r := c.iss.unit
     let at_ (k : Nat) : TrapInfo := { kind := 3, sub := k, code := if k = 0 then n.zeroExtend 32 else 0, addr := 0, lanes := none }
     let trap (k : Nat) : State := trapAt s c (at_ k)
     let t := s.issued c
     (Ready s (.bar n) c → exec (.bar n) s = .next (if c.divergent then trap 0
       else if ((t.wg? r.ident r.gang (wgOf r)).map Workgroup.ctlBad).getD false then t.integrityCheck r (none, 2) else
       let b := (((t.wg? r.ident r.gang (wgOf r)).bind fun w => w.bars[n.toNat]?).getD ⟨0, []⟩).arrive c.crew.crew
       (((t.modWg r.ident r.gang (wgOf r) fun w => { w with bars := w.bars.set n.toNat b.1 }).modSlot c fun x =>
         { x with st := .blocked (.barrier n.toNat b.2) }).settleBars r.ident r.gang (wgOf r)))) ∧
     (Ready s .gbar c → exec .gbar s = .next (if c.divergent then trap 1 else
       let b := (((t.wg? r.ident r.gang 0).map Workgroup.gbar).getD ⟨0, []⟩).arrive (gbarParty c.u)
       (((t.modWg r.ident r.gang 0 fun w => { w with gbar := b.1 }).modSlot c fun x =>
         { x with st := .blocked (.gangBarrier b.2) }).settleGbar r.ident r.gang))) ∧
     (let n := c.u.scal.round + 1
      Ready s .ornd c → exec .ornd s = .next ((t.modUnit r fun u => u.setScal { u.scal with round := n }).modLaunch r.ident fun l =>
        { l with top := max l.top n.toNat }))) ∧
  (∀ (s : State) (c : Ctx) (o : Op), (∀ t ∈ c.u.traps, t.ordered = true) →
     let r := c.iss.unit
     let h := o.sa.toNat
     let full := c.u.isFull .h h (BitVec.allOnes 96)
     (Ready s (.waitEng o) c → exec (.waitEng o) s = .next
       ((wrote s c (sReg o.d.toNat (BitVec.ofNat 32 (c.u.scal.counter o.fn.toNat)))).acquireIf r (c.u.scal.wide.getLsbD o.fn.toNat))) ∧
     (Ready s (.hwait o) c → exec (.hwait o) s = .next
       (((s.issued c).produce c false (sReg o.d.toNat (c.u.scal.hget h))).acquireIf r (c.u.scal.hWide.getLsbD h))) ∧
     (Ready s (.htest o) c → exec (.htest o) s = .next
       (((s.issued c).produce c false (qReg o.d.toNat full)).acquireIf r (full && c.u.scal.hWide.getLsbD h))) ∧
     (let stop (q : CopyReq) : CopyReq := if q.handles.contains (r, h) = true then { q with cancel := true } else q
      let t := s.issued c
      Ready s (.hcancel o) c → exec (.hcancel o) s = .next { t with eng := { t.eng with copies := t.eng.copies.map stop } }) ∧
     (let b := (c.s32 1).toNat
      let t : UnitRef := .crew r.ident r.gang (wgOf r) (bits b 0 5)
      let ht := bits b 8 4
      Ready s (.hpass o) c → exec (.hpass o) s = .next (
        if ((s.issued c).unit? t).isNone then s.issued c
        else if full then (s.issued c).modUnit t fun u =>
          let v := u.fill ⟨.h, ht, 0, c.u.scal.hget h⟩
          v.setScal { v.scal with hWide := setBit v.scal.hWide ht (c.u.scal.hWide.getLsbD h) }
        else ((s.issued c).modUnit t fun u => u.markEmpty .h ht (BitVec.allOnes 96)).linkHandle (r, h) (t, ht))))

/-! ### Traps -/

/-- R251, R253, R385, R424: TRAP takes the software trap with its code, BKPT the breakpoint trap with its tag, each after it has
issued, so that the next instruction is the resume point; BKPT stops the partition instead when the debugger has claimed its
breakpoints. R252, R389: TRET in a handler returns from it; outside one it takes the control-state trap with subcode 8, and with the
low bits of RESUME set the illegal-encoding trap with cause 3. No operation of the unit has met a non-finite logit (R355). R389: a
handler's end clears INH and gives the other slot back its saved state; the slot that trapped, which the record names, continues at
RESUME, which the handler may have rewritten, fetches anew, and ignores address breakpoints once when SKIPBP is set; one that the
handler has emptied stays EMPTY, which is the model's reading (log entry 105). -/
def Obligations.TrapInstructions : Prop :=
  (∀ (s : State) (c : Ctx) (o : Op) (tag : BitVec 6),
     let after (kind : Nat) (code : Word) : State := (s.issued c).takeTrap c.iss.unit c.iss.slot
       { kind := kind, sub := 0, code := code, addr := 0, lanes := none } c.pc c.nextPc
     (Ready s (.trap o) c → exec (.trap o) s = .next (after 11 (c.s32 0))) ∧
     (Ready s (.bkpt tag) c → exec (.bkpt tag) s = .next (
       if ((s.issued c).part ((s.issued c).pid c.iss.unit)).claim then
         (s.issued c).stopUnit c.iss.unit c.iss.slot 2 0 tag.toNat c.pc 0 127
       else after 10 (tag.zeroExtend 32)))) ∧
  (∀ (s : State) (c : Ctx), Ready s .tret c → (∀ u, ((s.issued c).returnTrap c.iss.unit).unit? c.iss.unit = some u →
       ∀ t ∈ u.traps, t.ordered = false) →
     let t := c.u.scal.trap
     let trap (x : TrapInfo) : State := trapAt s c x
     exec .tret s = .next (
       if t.inh = false then trap (TrapInfo.of 5 8)
       else if t.resume.toNat % 4 ≠ 0 then trap (illegalTrap 3 0x34#32)
       else (s.issued c).returnTrap c.iss.unit)) ∧
  (∀ (s : State) (r : UnitRef) (x : Crew), s.unit? r = some (.crew x) →
     let k := if x.scal.trap.slot then 1 else 0
     ∃ y, (s.returnTrap r).unit? r = some (.crew y) ∧ y.scal = { x.scal with trap := { x.scal.trap with inh := false } } ∧
       y.slot (1 - k) = { x.slot (1 - k) with frozenTrap := false } ∧ y.v = x.v ∧ y.p = x.p ∧ y.bracket = x.bracket ∧
       ((x.slot k).st = .empty → y.slot k = x.slot k) ∧
       ((x.slot k).st ≠ .empty → (y.slot k).pc = (s.lrec r.ident).codeBase + x.scal.trap.resume.zeroExtend 64 ∧
         (y.slot k).st = .ready ∧ (y.slot k).mask = (x.slot k).mask ∧ (y.slot k).blocks = [] ∧
         (y.slot k).skipBp = x.scal.trap.skipBp))

/-- R387, R388: taking a trap in a crew outside a handler. The record holds the kind, the subcode, the code, the address, the slot
and the two offsets from the code base; INH is set; a live other slot is frozen; the trapping slot continues at the launch's trap
handler, READY, with its mask unchanged; the bracket and every register of the crew stay. R389: a trap in a handler, and any trap of
a launch without a handler, ends the launch: no crew and no cox core of it is left, none of them is chosen to issue, and its loads,
producers, limb instructions and ordered updates in flight are gone. -/
def Obligations.TrapEntry : Prop :=
  (∀ (s : State) (r : UnitRef) (k : Nat) (t : TrapInfo) (trapPc resume : DWord) (x : Crew), k < 2 →
    (s.landLimbs r).unit? r = some (.crew x) → x.scal.trap.inh = false → (s.lrec r.ident).trapOff ≠ 0xFFFFFFFF#32 →
    let base := (s.lrec r.ident).codeBase
    ∃ y, (s.takeTrap r k t trapPc resume).unit? r = some (.crew y) ∧
      y.scal.trap.kind = BitVec.ofNat 8 t.kind ∧ y.scal.trap.sub = BitVec.ofNat 8 t.sub ∧ y.scal.trap.code = t.code ∧
      y.scal.trap.addr = t.addr ∧ y.scal.trap.inh = true ∧ y.scal.trap.slot = (k == 1) ∧ y.scal.trap.skipBp = false ∧
      y.scal.trap.resume = (resume - base).extractLsb' 0 32 ∧ y.scal.trap.trapPc = (trapPc - base).extractLsb' 0 32 ∧
      (t.lanes = none → y.scal.trap.lane = 127 ∧ y.scal.trap.mask = 0) ∧
      (y.slot k).pc = base + (s.lrec r.ident).trapOff.zeroExtend 64 ∧ (y.slot k).st = .ready ∧
      (y.slot k).mask = (x.slot k).mask ∧
      y.slot (1 - k) = (if (x.slot (1 - k)).st = .empty then x.slot (1 - k) else { x.slot (1 - k) with frozenTrap := true }) ∧
      y.bracket = x.bracket ∧ y.exited = x.exited ∧ y.v = x.v ∧ y.p = x.p ∧ y.nf = x.nf ∧ y.threads = x.threads ∧
      y.arithCtl = x.arithCtl ∧ y.arithStat = x.arithStat ∧ y.scal = { x.scal with trap := y.scal.trap }) ∧
  (∀ (s : State) (r : UnitRef) (k : Nat) (t : TrapInfo) (trapPc resume : DWord) (u : UnitSt),
    (s.landLimbs r).unit? r = some u → (u.scal.trap.inh = true ∨ s.handlerOff r = 0xFFFFFFFF#32) →
    let s' := s.takeTrap r k t trapPc resume
    (∀ c ∈ s'.crews, c.ident ≠ r.ident) ∧ (∀ c ∈ s'.coxes, c.ident ≠ r.ident) ∧
    (∀ i, s'.issuer = some i → i.unit.ident ≠ r.ident) ∧
    (∀ o ∈ s'.flight.loads, o.unit.ident ≠ r.ident) ∧ (∀ o ∈ s'.flight.producers, o.unit.ident ≠ r.ident) ∧
    (∀ o ∈ s'.flight.limbs, o.unit.ident ≠ r.ident) ∧ (∀ o ∈ s'.flight.updates, o.unit.ident ≠ r.ident))

/-- R390, R194: three siblings of an integer or bit result that disagree are a machine check: the launch ends and, as the
instruction's own rule asks, no destination has been written; the host's record names the lowest such thread's first lane and its
three results. So for sums, differences, products, bit operations, comparisons, selects and moves of integer types, predicate logic,
shuffles of integer types and the choice of a shuffle; the other integer, bit and vote instructions are compared where their results
are stated. R309, R32: the bases of a memory instruction are compared first, then integer data, before any check of the addresses.
R301: so are the limbs of a segment. R84, R97, R414: an instruction that would issue, but reads a line of the crew's area of the
register file that fails its check, ends the launch. That a record names the lowest such thread's first lane is the model's reading (log
entry 55), and so is which lines an instruction reads (log entry 118). -/
def Obligations.SiblingMismatch : Prop :=
  (∀ (s : State) (c : Ctx) (o : Op) (t : Nat),
     let wide := is64 o.ty.toNat
     let low (v : DWord) : DWord := if wide then v else (v.extractLsb' 0 32).zeroExtend 64
     let a := c.src 0
     let b := c.src 1
     let bit (x : Bool) : DWord := if x then 1 else 0
     let stops (i : Instr) (f : Nat → DWord) : Prop := Ready s i c → Splits c c.threads f t → exec i s = .next (checkedAt s c f t)
     let moves (i : Instr) (f : Nat → DWord) : Prop := isInt o.ty.toNat = true → stops i f
     stops (.vadd o) (fun l => low (a l + b l)) ∧ stops (.vsub o) (fun l => low (a l - b l)) ∧
     stops (.vmul o) (fun l => low (a l * b l)) ∧ stops (.vand o) (fun l => a l &&& b l) ∧
     stops (.vor o) (fun l => a l ||| b l) ∧ stops (.vxor o) (fun l => a l ^^^ b l) ∧
     stops (.vcmp o) (fun l => bit (condInt (bits o.fn.toNat 3 3) (tyInt o.ty.toNat (a l)) (tyInt o.ty.toNat (b l)))) ∧
     stops (.plop o) (fun l => bit (truth o.fn.toNat ((c.crew.pget o.sa.toNat).getLsbD l) ((c.crew.pget o.sb.toNat).getLsbD l))) ∧
     moves (.vmov o) a ∧ moves (.vsel o) (fun l => if (c.crew.pget o.sc.toNat).getLsbD l then a l else b l) ∧
     stops (.vshfl o) (fun l => (c.src32 1 l).zeroExtend 64) ∧
     (Agree c (fun l => (c.src32 1 l).zeroExtend 64) → moves (.vshfl o) fun l =>
       match c.shflFrom (if c.single then l else l / 3) (c.src32 1 l).toNat with
       | some x => if c.acts x then a (c.peer x l) else a l
       | none => a l)) ∧
  (∀ (s : State) (c : Ctx) (o : MemOp) (i : Instr) (m : MemRow) (t : Nat), i.mem? = some o → i.memRow = some m → Ready s i c →
     let stops (f : Nat → DWord) : Prop := Splits c c.threads f t → exec i s = .next (checkedAt s c f t)
     let data (n : BitVec 8) : Nat → DWord := c.dataVal n.toNat
     let int : Prop := m.vdata = true ∧ szfFloat o.szf.toNat = false
     (m.vbase = true → stops c.baseVal) ∧
     ((m.vbase = true → Agree c c.baseVal) → int →
       (m.kind = .st ∨ m.kind = .atom ∨ m.kind = .oatom → stops (data o.data)) ∧
       (m.kind = .atomr ∨ m.kind = .cas → stops (data c.mext.xa)) ∧
       (m.kind = .cas → Agree c (data c.mext.xa) → stops (data c.mext.xb)))) ∧
  (∀ (s : State) (c : Ctx) (o : Op) (k j : Nat), Ready s (.ladd o) c → c.crew.limbN ≠ 0 →
     splitsSegment c.single c.crew.limbN c.act = false →
     let n := c.crew.limbN
     let v (k sb : Nat) : Nat := c.segVal 0 k sb + c.segVal 1 k sb + c.carryIn k sb
     let w (k sb j d : Nat) : Word := if d = 0 then BitVec.ofNat 32 (v k sb / 2 ^ (32 * j)) else b2w (j + 1 == n && decide (2 ^ (32 * n) ≤ v k sb))
     ∀ d, LimbSplits c w k j d → exec (.ladd o) s = .next (checked s c (c.laneAt (k * n + j) 0) fun sb => w k sb j d)) ∧
  (∀ (s : State) (i : Instr) (c : Ctx), i.isEvent = false → MayIssue s i c → c.readsBad = true →
     ∃ t, exec i s = .next t ∧ t = (s.issued c).integrityCheck c.iss.unit (none, 2) ∧ (∀ x ∈ t.crews, x.ident ≠ c.iss.unit.ident) ∧
       ∀ x ∈ t.coxes, x.ident ≠ c.iss.unit.ident)

/-! ### Vector integers and bits -/

/-- R260: the integer arithmetic of the 32- and the 64-bit types, lane by lane in the acting lanes, compared across the siblings
(R194): sums, differences, products, high products, multiply-add, saturation, minimum, maximum, absolute value and
negation, exact before the stated wrap or clamp. ARITHSTAT never changes. -/
def Obligations.VectorIntegers : Prop :=
  ∀ (s : State) (c : Ctx) (o : Op),
    let wide := is64 o.ty.toNat
    let n : Nat := if wide then 64 else 32
    let sgn := o.ty.toNat = tyI32 ∨ o.ty.toNat = tyI64
    let w (k l : Nat) : Nat := (c.src k l).toNat % 2 ^ n
    let int (k l : Nat) : Int := if sgn ∧ 2 ^ (n - 1) ≤ w k l then (w k l : Int) - 2 ^ n else w k l
    let gives (i : Instr) (f : Nat → Int) : Prop :=
      let v (l : Nat) : DWord := BitVec.ofNat 64 (f l % 2 ^ n).toNat
      Compared s c i v (wrote s c ((lanesOf c.act).flatMap fun l =>
        ⟨.v, o.d.toNat, l, (v l).extractLsb' 0 32⟩ :: (if wide then [⟨.v, o.d.toNat + 1, l, (v l).extractLsb' 32 32⟩] else [])))
    let lo : Int := if sgn then -(2 ^ (n - 1)) else 0
    let hi : Int := if sgn then 2 ^ (n - 1) - 1 else 2 ^ n - 1
    gives (.vadd o) (fun l => int 0 l + int 1 l) ∧ gives (.vsub o) (fun l => int 0 l - int 1 l) ∧
    gives (.vadds o) (fun l => max lo (min hi (int 0 l + int 1 l))) ∧
    gives (.vsubs o) (fun l => max lo (min hi (int 0 l - int 1 l))) ∧
    gives (.vmul o) (fun l => int 0 l * int 1 l) ∧ gives (.vmulh o) (fun l => int 0 l * int 1 l / 2 ^ n) ∧
    gives (.vmad o) (fun l => int 0 l * int 1 l + int 2 l) ∧
    gives (.vmin o) (fun l => if int 0 l ≤ int 1 l then int 0 l else int 1 l) ∧
    gives (.vmax o) (fun l => if int 0 l ≤ int 1 l then int 1 l else int 0 l) ∧
    gives (.vabs o) (fun l => if int 0 l < 0 then -(int 0 l) else int 0 l) ∧ gives (.vneg o) (fun l => -(int 0 l))

/-- R260: the bit operations and shifts of the 32-bit types, one register of each acting lane, compared across the siblings: a shift
by 32 or more leaves 0, or the sign in every bit. R260: the same of the 64-bit types, a register pair of each acting lane; the
shift amount is a 32-bit natural value, and the counts fill one 32-bit register. -/
def Obligations.VectorBits : Prop :=
  (∀ (s : State) (c : Ctx) (o : Op), is64 o.ty.toNat = false →
     let a := c.src32 0
     let b := c.src32 1
     let gives (i : Instr) (f : Nat → Word) : Prop :=
       Compared s c i (fun l => (f l).zeroExtend 64) (wrote s c ((lanesOf c.act).map fun l => ⟨.v, o.d.toNat, l, f l⟩))
     let pos (l : Nat) : Nat := (b l).toNat % 32
     let len (l : Nat) : Nat := min ((c.src32 2 l).toNat % 64) (32 - pos l)
     let fld (l : Nat) : Nat := (a l).toNat / 2 ^ pos l % 2 ^ len l
     gives (.vand o) (fun l => a l &&& b l) ∧ gives (.vor o) (fun l => a l ||| b l) ∧ gives (.vxor o) (fun l => a l ^^^ b l) ∧
     gives (.vnot o) (fun l => ~~~(a l)) ∧
     gives (.vshl o) (fun l => if (b l).toNat < 32 then a l <<< (b l).toNat else 0) ∧
     gives (.vshr o) (fun l => if (b l).toNat < 32 then a l >>> (b l).toNat else 0) ∧
     gives (.vsar o) (fun l => (a l).sshiftRight (min (b l).toNat 31)) ∧
     gives (.vclz o) (fun l => BitVec.ofNat 32 ((List.range 32).takeWhile fun k => !((a l).getLsbD (31 - k))).length) ∧
     gives (.vpopc o) (fun l => BitVec.ofNat 32 ((List.range 32).countP fun k => (a l).getLsbD k)) ∧
     gives (.vbfe o) (fun l => if len l = 0 then 0
       else if o.ty.toNat = tyI32 then BitVec.ofInt 32 (if fld l < 2 ^ (len l - 1) then fld l else fld l - 2 ^ len l)
       else BitVec.ofNat 32 (fld l)) ∧
     (∃ f : Nat → Word, gives (.vbfi o) f ∧ ∀ l k, k < 32 →
       (f l).getLsbD k = (if pos l ≤ k ∧ k < pos l + len l then (a l).getLsbD (k - pos l) else (c.crew.vget o.d.toNat l).getLsbD k))) ∧
  (∀ (s : State) (c : Ctx) (o : Op), is64 o.ty.toNat = true →
     let a := c.src 0
     let b := c.src 1
     let n (l : Nat) : Nat := (c.src32 1 l).toNat
     let gives (i : Instr) (f : Nat → DWord) : Prop :=
       Compared s c i f (wrote s c ((lanesOf c.act).flatMap fun l =>
         [⟨.v, o.d.toNat, l, (f l).extractLsb' 0 32⟩, ⟨.v, o.d.toNat + 1, l, (f l).extractLsb' 32 32⟩]))
     let counts (i : Instr) (f : Nat → Nat) : Prop :=
       Compared s c i (fun l => BitVec.ofNat 64 (f l)) (wrote s c ((lanesOf c.act).map fun l =>
         ⟨.v, o.d.toNat, l, BitVec.ofNat 32 (f l)⟩))
     gives (.vand o) (fun l => a l &&& b l) ∧ gives (.vor o) (fun l => a l ||| b l) ∧ gives (.vxor o) (fun l => a l ^^^ b l) ∧
     gives (.vnot o) (fun l => ~~~(a l)) ∧
     gives (.vshl o) (fun l => if n l < 64 then a l <<< n l else 0) ∧
     gives (.vshr o) (fun l => if n l < 64 then a l >>> n l else 0) ∧
     gives (.vsar o) (fun l => (a l).sshiftRight (min (n l) 63)) ∧
     counts (.vclz o) (fun l => ((List.range 64).takeWhile fun k => !((a l).getLsbD (63 - k))).length) ∧
     counts (.vpopc o) (fun l => (List.range 64).countP fun k => (a l).getLsbD k))

/-- R194, R260: selects and moves. Of an integer or bit type they are compared across the siblings; of a float or number-format type
each sibling's value is carried unchanged. -/
def Obligations.VectorSelectsAndMoves : Prop :=
  ∀ (s : State) (c : Ctx) (o : Op),
    let gives (i : Instr) (v : Nat → DWord) : Prop :=
      let t := wrote s c ((lanesOf c.act).flatMap fun l =>
        ⟨.v, o.d.toNat, l, (v l).extractLsb' 0 32 &&& (if o.ty.toNat = tyF16 ∨ o.ty.toNat = tyBF16 then 0xFFFF else 0xFFFFFFFF)⟩ ::
          (if is64 o.ty.toNat then [⟨.v, o.d.toNat + 1, l, (v l).extractLsb' 32 32⟩] else []))
      (isInt o.ty.toNat = true → Compared s c i v t) ∧ (isInt o.ty.toNat = false → Ready s i c → exec i s = .next t)
    gives (.vmov o) (c.src 0) ∧
    gives (.vsel o) (fun l => if (c.crew.pget o.sc.toNat).getLsbD l then c.src 0 l else c.src 1 l)

/-- R261, R170, R194: the comparison of each acting lane, compared across the siblings. In single-lane mode the predicate is written
at once; in triple mode its lanes are left empty and a producer, numbered next, writes them. R192, R263, R170, R197: a float
comparison: in single-lane mode each lane's own outcome, written at once; in triple mode the majority of the three siblings, in
all three lanes, written by a producer, and the threads whose siblings differ are recorded. -/
def Obligations.VectorCompares : Prop :=
  (∀ (s : State) (c : Ctx) (o : Op),
     let wide := is64 o.ty.toNat
     let sgn := o.ty.toNat = tyI32 ∨ o.ty.toNat = tyI64
     let k := bits o.fn.toNat 3 3
     let eq (l : Nat) : Prop := if wide then c.src 0 l = c.src 1 l else c.src32 0 l = c.src32 1 l
     let lt (l : Nat) : Bool := if wide then (if sgn then (c.src 0 l).slt (c.src 1 l) else (c.src 0 l).ult (c.src 1 l))
       else (if sgn then (c.src32 0 l).slt (c.src32 1 l) else (c.src32 0 l).ult (c.src32 1 l))
     ∃ f : Nat → Bool, (∀ l, f l = true ↔ (k = 0 ∧ eq l) ∨ (k = 1 ∧ ¬ eq l) ∨ (k = 2 ∧ lt l = true) ∨
         (k = 3 ∧ (lt l = true ∨ eq l)) ∨ (k = 4 ∧ ¬ (lt l = true ∨ eq l)) ∨ (k = 5 ∧ ¬ lt l = true)) ∧
       let ws : List RegWrite := (lanesOf c.act).map fun l => ⟨.p, o.d.toNat, l, b2w (f l)⟩
       Compared s c (.vcmp o) (fun l => if f l then 1 else 0)
         (if c.single = true then wrote s c ws else (s.issued c).produce c false ws)) ∧
  (∀ (s : State) (c : Ctx) (o : Op), Ready s (.vfcmp o) c →
     let f := fmtOf o.ty.toNat
     let r (l : Nat) : Bool × Nat := f.cmp (bits o.fn.toNat 3 3) (c.fsrc f 0 l) (c.fsrc f 1 l)
     let yes (t : Nat) : Nat := [3 * t, 3 * t + 1, 3 * t + 2].countP fun l => (r l).1
     let out (l : Nat) : Bool := if c.single then (r l).1 else decide (2 ≤ yes (l / 3))
     let split : List Nat := if c.single then [] else c.threads.filter fun t => decide (yes t = 1 ∨ yes t = 2)
     exec (.vfcmp o) s = .next (floated s c (!c.single) ((lanesOf c.act).map fun l => ⟨.p, o.d.toNat, l, b2w (out l)⟩)
       (c.flags fun l => (r l).2) ⟨[], split, []⟩))

/-! ### Floats -/

/-- R188, R189: one rounding of `m · 2^e` to a multiple of `2^q` in each direction. Toward zero truncates; toward −∞ and +∞
take the multiple below or above, by the sign; to nearest takes the closer, and of two as close the even one. The result is
inexact exactly when something was cut. R173, R174: a finite value of a format, a subnormal included, is rounded to its own
encoding with no flag, in every direction. -/
def Obligations.Rounding : Prop :=
  (∀ (neg : Bool) (m : Nat) (e q : Int),
     (q ≤ e → ∀ d, roundAt d neg m e q = (m * 2 ^ (e - q).toNat, false)) ∧
     (e < q →
       let u := 2 ^ (q - e).toNat
       (∀ d, (roundAt d neg m e q).2 = true ↔ m % u ≠ 0) ∧
       (roundAt .zero neg m e q).1 = m / u ∧
       (roundAt .down neg m e q).1 = (if neg then (m + u - 1) / u else m / u) ∧
       (roundAt .up neg m e q).1 = (if neg then m / u else (m + u - 1) / u) ∧
       (let t := (roundAt .near neg m e q).1
        2 * (t * u - m) ≤ u ∧ 2 * (m - t * u) ≤ u ∧ (2 * (t * u - m) = u ∨ 2 * (m - t * u) = u → t % 2 = 0)))) ∧
  (∀ f ∈ [f16, bf16, f32, f64], ∀ v, v < 2 ^ (1 + f.ew + f.fw) → ∀ n m e, f.decode v = .fin n m e →
     ∀ d, f.round d n m e = (v, 0))

/-- R262, R188, R191, R195, R196, R198, R199: float arithmetic, each lane rounded once in its direction, the flags of all
acting lanes ORed into ARITHSTAT with the conditions that held: cancellation of a sum, a divisor without digits. An enabled
condition takes the instability trap after every destination is written. VFDIV and VFSQRT leave their destinations to a
producer (R259). R262: VFABS, VFNEG and VFCPS clear, invert or copy the sign bit, whatever the value, with no flag. -/
def Obligations.FloatArithmetic : Prop :=
  (∀ (s : State) (c : Ctx) (o : Op),
     let f := fmtOf o.ty.toNat
     let a := c.fsrc f 0
     let b := c.fsrc f 1
     let d := c.fsrc f 2
     let dir (l : Nat) : Dir := c.dir l 0
     let ws (r : Nat → Nat × Nat) : List RegWrite := c.writesV o.d.toNat (is64 o.ty.toNat) fun l => BitVec.ofNat 64 (r l).1
     let gives (i : Instr) (late : Bool) (r : Nat → Nat × Nat) (x : Instab) : Prop :=
       Ready s i c → exec i s = .next (floated s c late (ws r) (c.flags fun l => (r l).2) x)
     let canc (os : List (Nat → Nat)) (r : Nat → Nat × Nat) : Instab := ⟨c.cancelled f os fun l => (r l).1, [], []⟩
     (let r l := f.add (dir l) (a l) (b l); gives (.vfadd o) false r (canc [a, b] r)) ∧
     (let r l := f.sub (dir l) (a l) (b l); gives (.vfsub o) false r (canc [a, b] r)) ∧
     (let r l := f.fma (dir l) (a l) (b l) (d l); gives (.vfma o) false r (canc [a, b, d] r)) ∧
     gives (.vfmul o) false (fun l => f.mul (dir l) (a l) (b l)) Instab.none ∧
     gives (.vfdiv o) true (fun l => f.div (dir l) (a l) (b l)) ⟨[], [], c.noDigits f b⟩ ∧
     gives (.vfsqrt o) true (fun l => f.sqrt (dir l) (a l)) Instab.none ∧
     gives (.vfmin o) false (fun l => f.minMax false (a l) (b l)) Instab.none ∧
     gives (.vfmax o) false (fun l => f.minMax true (a l) (b l)) Instab.none) ∧
  (∀ (s : State) (c : Ctx) (o : Op),
     let f := fmtOf o.ty.toNat
     let top := 2 ^ (f.ew + f.fw)
     let a (l : Nat) : Nat := (c.src 0 l).toNat % (2 * top)
     let b (l : Nat) : Nat := (c.src 1 l).toNat % (2 * top)
     let gives (i : Instr) (r : Nat → Nat) : Prop := Ready s i c → exec i s = .next (wrote s c
       (c.writesV o.d.toNat (is64 o.ty.toNat) fun l => BitVec.ofNat 64 (r l)))
     gives (.vfabs o) (fun l => a l % top) ∧ gives (.vfneg o) (fun l => (a l + top) % (2 * top)) ∧
     gives (.vfcps o) (fun l => a l % top + b l / top * top))

/-- R265, R266, R259, R198: the elementary functions. A reproducible form is rounded in the lane's direction, to nearest even in
single-lane mode; a fast form is the model's choice within its error bound (log entry 11). VFRCP and VFRSQ record the threads
whose operand has no digits. Each is left to a producer. -/
def Obligations.Transcendentals : Prop :=
  ∀ (s : State) (c : Ctx) (o : Op),
    let f := fmtOf o.ty.toNat
    let a := c.fsrc f 0
    let gives (i : Instr) (div : Bool) (r : Nat → Nat × Nat) : Prop := Ready s i c → exec i s = .next
      (floated s c true (c.writesV o.d.toNat (is64 o.ty.toNat) fun l => BitVec.ofNat 64 (r l).1) (c.flags fun l => (r l).2)
        ⟨[], [], if div then c.noDigits f a else []⟩)
    let fast (fn : TrFn) (l : Nat) : Nat × Nat := trFast fn f (c.dir l 0) (a l)
    let repro (fn : TrFn) (l : Nat) : Nat × Nat := trRepro fn f (if c.single then .near else c.dir l 0) (a l)
    gives (.vfrcp o) true (fast .rcp) ∧ gives (.vfrcpr o) true (repro .rcp) ∧
    gives (.vfrsq o) true (fast .rsq) ∧ gives (.vfrsqr o) true (repro .rsq) ∧
    gives (.vexp2 o) false (fast .exp2) ∧ gives (.vexp2r o) false (repro .exp2) ∧
    gives (.vlog2 o) false (fast .log2) ∧ gives (.vlog2r o) false (repro .log2) ∧
    gives (.vsin o) false (fast .sin) ∧ gives (.vsinr o) false (repro .sin) ∧
    gives (.vcos o) false (fast .cos) ∧ gives (.vcosr o) false (repro .cos) ∧
    gives (.vtanh o) false (fast .tanh) ∧ gives (.vtanhr o) false (repro .tanh)

/-- R267, R193: conversions by source and destination type. Between floats, and from an integer, one rounding; from a float to
an integer the median of the siblings (the NaN result when one is NaN), toward zero and clamped; between integers the clamp to
the destination's range, and to a bit type the bits, compared across the siblings. R271, R272, R196: packed number formats: each
element of the containers is computed exactly, rounded once in the direction of its index and packed; VNFPACK replaces one
element, and leaves the register as it is when the index is out of range; VNFUNPK widens one, and gives the NaN out of range.
R273 to R275: VQBLK writes, in each acting lane of a group of 32 threads, the thread's code above its part of the block's 18
bytes. The values are the medians of the siblings, in the order of the lanes or of the permutation; a thread that does not act
stands for zero. The flags of a packed value that overflows, and the other corners of conversions, are the model's reading (log entry 59);
so are, with .PERM, the sibling that gives a position and position 0 for one that does not act (log entry 130). -/
def Obligations.Conversions : Prop :=
  (∀ (s : State) (c : Ctx) (o : Op),
     let t := o.ty.toNat
     let e := bits o.fn.toNat 3 5
     let sf := fmtOf t
     let df := fmtOf e
     let int (l : Nat) : Int := tyInt t (c.src 0 l)
     let ws (r : Nat → Nat) : List RegWrite := c.writesV o.d.toNat (is64 e) fun l => BitVec.ofNat 64 (r l)
     let float (r : Nat → Nat × Nat) (x : Instab) : State := floated s c false (ws fun l => (r l).1) (c.flags fun l => (r l).2) x
     (Ready s (.vcvt o) c → isFloat t = true → isFloat e = true → exec (.vcvt o) s = .next
       (float (fun l => df.ofFV (c.dir l 0) (sf.decode (c.fsrc sf 0 l))) Instab.none)) ∧
     (Ready s (.vcvt o) c → isFloat t = true → isFloat e = false →
       let med (l : Nat) : Nat := if c.single then c.fsrc sf 0 l else
         (sf.median (c.fsrc sf 0 (3 * (l / 3))) (c.fsrc sf 0 (3 * (l / 3) + 1)) (c.fsrc sf 0 (3 * (l / 3) + 2))).getD sf.qnan
       let one (l : Nat) : Nat := (cvtFloatInt sf e (c.fsrc sf 0 l)).1
       let split : List Nat := if c.single then [] else c.threads.filter fun t =>
         decide (one (3 * t) ≠ one (3 * t + 1) ∨ one (3 * t) ≠ one (3 * t + 2))
       exec (.vcvt o) s = .next (float (fun l => cvtFloatInt sf e (med l)) ⟨[], split, []⟩)) ∧
     (Ready s (.vcvt o) c → isFloat t = false → isFloat e = true → exec (.vcvt o) s = .next
       (float (fun l => df.round (c.dir l 0) (decide (int l < 0)) (int l).natAbs 0) Instab.none)) ∧
     (isFloat t = false → isFloat e = false → e ≠ tyB32 → e ≠ tyB64 →
       let r (l : Nat) : Nat := wrap (extRange e).2.2 (max (extRange e).1 (min (extRange e).2.1 (int l)))
       Compared s c (.vcvt o) (fun l => BitVec.ofNat 64 (r l)) (wrote s c (ws r))) ∧
     (isFloat t = false → (e = tyB32 ∨ e = tyB64) →
       let r (l : Nat) : Nat := (c.src 0 l).toNat % 2 ^ (if e = tyB64 then 64 else 32)
       Compared s c (.vcvt o) (fun l => BitVec.ofNat 64 (r l)) (wrote s c (ws r)))) ∧
  (∀ (s : State) (c : Ctx) (o : Op),
     let nf := NF.ofWord (tget 0 c.crew.nf (o.ty.toNat - 12))
     let v (k l : Nat) : Nat := (c.src32 k l).toNat
     let x (k l e : Nat) : FV := nf.decode (nf.elem (v k l) e)
     let es := List.range nf.count
     let packed (i : Instr) (srcs : Nat) (sum : Bool) (op : Dir → FV → FV → FV → FV × Nat) : Prop :=
       let one (l e : Nat) : Nat × Nat :=
         let r := op (c.dir l e) (x 0 l e) (x 1 l e) (x 2 l e)
         ((nf.pack (c.dir l e) r.1).1, r.2 ||| (nf.pack (c.dir l e) r.1).2)
       let res (l : Nat) : Nat := nf.join (es.map fun e => (one l e).1)
       let canc : List Nat := if c.single = true ∨ sum = false then [] else c.threads.filter fun t => es.any fun e =>
         decide (nfDigits nf res e t < c.digMin) && (List.range srcs).all fun k => decide (c.digMin ≤ nfDigits nf (v k) e t)
       Ready s i c → exec i s = .next (floated s c false (c.writesV o.d.toNat false fun l => BitVec.ofNat 64 (res l))
         (c.flags fun l => es.foldl (fun a e => a ||| (one l e).2) 0) ⟨canc, [], []⟩)
     let j := (c.s32 1).toNat
     let old (l : Nat) : Nat := (c.crew.vget o.d.toNat l).toNat
     packed (.vnfadd o) 2 true (fun d a b _ => a.add d b) ∧ packed (.vnfmul o) 2 false (fun _ a b _ => a.mul b) ∧
     packed (.vnffma o) 3 true (fun d a b e => a.fma d b e) ∧
     (let r (l : Nat) : Nat × Nat := if nf.count ≤ j then (old l, 0) else
        let p := nf.pack (c.dir l j) (f32.decode (c.fsrc f32 0 l))
        (old l - nf.elem (old l) j * 2 ^ (nf.w * j) + p.1 * 2 ^ (nf.w * j), p.2)
      Ready s (.vnfpack o) c → exec (.vnfpack o) s = .next (floated s c false
       (c.writesV o.d.toNat false fun l => BitVec.ofNat 64 (r l).1) (c.flags fun l => (r l).2) Instab.none)) ∧
     (Ready s (.vnfunpk o) c → exec (.vnfunpk o) s = .next (wrote s c (c.writesV o.d.toNat false fun l =>
       BitVec.ofNat 64 (if nf.count ≤ j then 0x7FC00000 else (f32.ofFV .near (x 0 l j)).1))))) ∧
  (∀ (s : State) (c : Ctx) (o : Op),
     let acts (t : Nat) : Bool := c.act.getLsbD (if c.single then t else 3 * t)
     let a := c.fsrc f32 0
     let val (t : Nat) : FV := if acts t = false then .fin false 0 0
       else if c.single then f32.decode (a t)
       else (f32.median (a (3 * t)) (a (3 * t + 1)) (a (3 * t + 2))).elim (FV.nan false) f32.decode
     let from_ (t : Nat) : Nat := if o.fn.getLsbD 3 = false then t
       else if acts t = true then t / 32 * 32 + (c.src32 1 (if c.single then t else 3 * t)).toNat % 32 else t / 32 * 32
     let block (g : Nat) : List Nat × Nat × Nat := quantBlock ((List.range 32).map fun k => val (from_ (32 * g + k)))
     let word (t : Nat) : Nat :=
       let b := block (t / 32)
       let bs := blockBytes b.1 b.2.1 b.2.2
       (b.1[t % 32]?).getD 0 * 65536 +
         (if t % 32 < 9 then (bs[2 * (t % 32)]?).getD 0 + 256 * (bs[2 * (t % 32) + 1]?).getD 0 else 0)
     let v (l : Nat) : DWord := BitVec.ofNat 64 (word (if c.single then l else l / 3))
     Compared s c (.vqblk o) v (wrote s c (c.writesV o.d.toNat false v)))

/-- R268, R269, R270, R193, R195: a named sibling's value in all three lanes (the lane's own in single-lane mode), the
siblings' mean, and the digit count of a thread, the precision in single-lane mode, which a producer writes (R259); the digits of
zeros of both signs in mean-digits are the model's reading (log entry 128). R280: VGMM
adds, step by step, the products of each lane's group: the first factor is the step's lane of the group, the second the step's
register of the lane itself, one rounding a step; the count is the lowest acting thread's, compared across its siblings, at most the
group's size. A thread cancels (R196) when in some step the result has fewer digits than DIGMIN while both factors and the sum before it
have as many. -/
def Obligations.SiblingAccess : Prop :=
  (∀ (s : State) (c : Ctx) (o : Op),
     let f := fmtOf o.ty.toNat
     let a := c.fsrc f 0
     (Ready s (.vsibget o) c → exec (.vsibget o) s = .next (wrote s c (c.writesV o.d.toNat (is64 o.ty.toNat) fun l =>
       laneValue o.ty.toNat (c.src 0 (if c.single then l else 3 * (l / 3) + min (c.s32 1).toNat 2))))) ∧
     (let r (l : Nat) : Nat × Nat := if c.single then (a l, 0) else f.mean (a (3 * (l / 3))) (a (3 * (l / 3) + 1)) (a (3 * (l / 3) + 2))
      Ready s (.vsibmean o) c → exec (.vsibmean o) s = .next (floated s c false
       (c.writesV o.d.toNat (is64 o.ty.toNat) fun l => BitVec.ofNat 64 (r l).1) (c.flags fun l => (r l).2) Instab.none)) ∧
     (Ready s (.vdigs o) c → exec (.vdigs o) s = .next ((s.issued c).produce c false (c.writesV o.d.toNat false fun l =>
       BitVec.ofNat 64 (if c.single then f.p else f.digits (a (3 * (l / 3))) (a (3 * (l / 3) + 1)) (a (3 * (l / 3) + 2))))))) ∧
  (∀ (s : State) (c : Ctx) (o : Op), Ready s (.vgmm o) c →
     let g := 4 * 2 ^ (o.fn.toNat % 4)
     let lows := c.threads.filter fun t => c.threads.all fun q => q / g != t / g || decide (t ≤ q)
     let count (l : Nat) : DWord := (c.src32 2 l).zeroExtend 64
     (∀ t, Splits c lows count t → exec (.vgmm o) s = .next (checkedAt s c count t)) ∧
     ((∀ t, ¬ Splits c lows count t) →
     let res (l : Nat) : Nat := ((c.gmmSteps g l).getLast?).elim (c.crew.vget o.d.toNat l).toNat GmmStep.res
     let dig (v : GmmStep → Nat) (i t : Nat) : Nat :=
       let x (k : Nat) : Nat := (((c.gmmSteps g (3 * t + k))[i]?).map v).getD 0
       f32.digits (x 0) (x 1) (x 2)
     let few := bits c.ctl.toNat 16 6
     let canc : List Nat := if c.single then [] else c.threads.filter fun t => (List.range (c.gmmLen g t)).any fun i =>
       decide (dig GmmStep.res i t < few) && decide (few ≤ dig GmmStep.a i t) && decide (few ≤ dig GmmStep.b i t) &&
         decide (few ≤ dig GmmStep.acc i t)
     exec (.vgmm o) s = .next (floated s c false (c.writesV o.d.toNat false fun l => BitVec.ofNat 64 (res l))
       (c.flags fun l => (c.gmmSteps g l).foldl (fun a x => a ||| x.fl) 0) ⟨canc, [], []⟩)))

/-! ### Across lanes -/

/-- R281 to R283, R286, R287: shuffles and broadcasts within lane groups, sibling by sibling, left to a producer. The operand
that chooses the source is compared across the siblings, and so is a result of an integer type; a source outside the group, or one
that does not act, gives a thread its own value. R290, R291: votes within lane groups, and the ballot of the crew, which threads that
do not act leave 0; the predicate is compared across the siblings. R295 to R298: the bit instructions, in each acting lane, compared
across the siblings: the product of 8 × 8 bit matrices over GF(2), bits deposited and extracted under a mask, and 64 bits permuted by
6-bit indices in twelve registers. That BALLOT's predicate is compared is the model's reading (log entry 59), and so is that the bit
instructions leave their destinations to a producer (log entry 127). -/
def Obligations.LaneOperations : Prop :=
  (∀ (s : State) (c : Ctx) (o : Op),
     let fn := o.fn.toNat
     let g := if bits fn 4 3 = 0 then (if c.single then 96 else 32) else 2 ^ bits fn 4 3
     let thread (l : Nat) : Nat := if c.single then l else l / 3
     let lane (t l : Nat) : Nat := if c.single then t else 3 * t + l % 3
     let acts (t : Nat) : Bool := t < (if c.single then 96 else 32) && c.act.getLsbD (lane t 0)
     let take (i : Instr) (src : Nat → Option Nat) : Prop :=
       let v (l : Nat) : DWord := ((src l).filter acts).elim (c.src 0 l) fun t => c.src 0 (lane t l)
       let t := (s.issued c).produce c false (c.writesV o.d.toNat (is64 o.ty.toNat) fun l => laneValue o.ty.toNat (v l))
       (isInt o.ty.toNat = true → Compared s c i v t) ∧ (isInt o.ty.toNat = false → Ready s i c → exec i s = .next t)
     let k (l : Nat) : Nat := (c.src32 1 l).toNat
     let choice (l : Nat) : DWord := (c.src32 1 l).zeroExtend 64
     let mates (t : Nat) : List Nat := c.threads.filter fun x => x / g == t / g
     let lows := c.threads.filter fun t => (mates t).head? == some t
     (∀ t, Splits c c.threads choice t → Ready s (.vshfl o) c → exec (.vshfl o) s = .next (checkedAt s c choice t)) ∧
     (∀ t, fn % 8 = 0 → Splits c lows choice t → Ready s (.vbcast o) c →
       exec (.vbcast o) s = .next (checkedAt s c choice t)) ∧
     ((∀ t, ¬ Splits c c.threads choice t) → take (.vshfl o) (fun l =>
       let q := thread l % g
       let p : Option Nat := if fn % 8 = 0 then some (k l) else if fn % 8 = 1 then (if k l ≤ q then some (q - k l) else none)
         else if fn % 8 = 2 then some (q + k l) else some (q ^^^ k l)
       (p.filter (· < g)).map (thread l - q + ·))) ∧
     (fn % 8 = 0 → (∀ t, ¬ Splits c lows choice t) → take (.vbcast o) (fun l =>
       ((mates (thread l)).head?).bind fun m => if k (lane m 0) < g then some (thread l / g * g + k (lane m 0)) else none)) ∧
     (fn % 8 = 1 → take (.vbcast o) (fun l => (mates (thread l)).head?)) ∧
     (fn % 8 = 2 → take (.vbcast o) (fun l => (mates (thread l)).getLast?))) ∧
  (∀ (s : State) (c : Ctx) (o : Op),
     let p (l : Nat) : Bool := (c.crew.pget o.sa.toNat).getLsbD l
     let lane (t : Nat) : Nat := if c.single then t else 3 * t
     let k := o.fn.toNat % 8
     let all_ (l : Nat) : DWord := if p l then 1 else 0
     (∃ f : Nat → Bool,
       (∀ l, f l = true ↔
         let ts := c.mates (if c.single then l else l / 3)
         let all := ∀ t ∈ ts, p (lane t) = true
         let none_ := ∀ t ∈ ts, p (lane t) = false
         (k = 0 ∧ all) ∨ (k = 1 ∧ ¬ none_) ∨ (k = 2 ∧ none_) ∨ (k = 3 ∧ (all ∨ none_))) ∧
       Compared s c (.vote o) all_ ((s.issued c).produce c false ((lanesOf c.act).map fun l => ⟨.p, o.d.toNat, l, b2w (f l)⟩))) ∧
     (∃ ws : List Word, ws.length = (if c.single then 3 else 1) ∧
       (∀ t, t < (if c.single then 96 else 32) →
         ((ws[t / 32]?).getD 0).getLsbD (t % 32) = (c.act.getLsbD (lane t) && p (lane t))) ∧
       Compared s c (.ballot o) all_ ((s.issued c).produce c false (scalarWrites o.d.toNat ws)))) ∧
  (∀ (s : State) (c : Ctx) (o : Op),
     let n := if is64 o.ty.toNat then 64 else 32
     let a (l k : Nat) : Bool := (c.src 0 l).getLsbD k
     let b (l k : Nat) : Bool := (c.src 1 l).getLsbD k
     let below (l i : Nat) : Nat := (List.range i).countP (b l)
     let gives (i : Instr) (wide : Bool) (bit : Nat → Nat → Prop) : Prop :=
       ∃ f : Nat → DWord, (∀ l k, k < 64 → ((f l).getLsbD k = true ↔ bit l k)) ∧
         Compared s c i f ((s.issued c).produce c false (c.writesV o.d.toNat wide f))
     gives (.vgf2mm o) true (fun l k => ((List.range 8).countP fun m => a l (8 * (k / 8) + m) && b l (8 * m + k % 8)) % 2 = 1) ∧
     gives (.vbdep o) (is64 o.ty.toNat) (fun l k => k < n ∧ b l k = true ∧ a l (below l k) = true) ∧
     gives (.vbext o) (is64 o.ty.toNat) (fun l k => ∃ i, i < n ∧ b l i = true ∧ below l i = k ∧ a l i = true) ∧
     gives (.vbperm o) true (fun l k =>
       let idx (m : Nat) : Bool := (c.crew.vget (o.sb.toNat + m / 32) l).getLsbD (m % 32)
       a l ((List.range 6).foldl (fun x e => x + if idx (6 * k + e) then 2 ^ e else 0) 0) = true))

/-- R288: integer scans and reductions combine the values of a group's acting threads in ascending order, up to and including a
thread, strictly before it with .EXCL, or all of them; an empty list gives the identity. The siblings are compared. R289: the .F32
scans and reductions: each sibling runs its own pass in ascending order, the first value taken as it is, each addition rounded
with the key of the thread added; the flags of each group's pass are ORed once, and a cancellation that ARITHCTL enables traps
after every destination is written: that of a thread whose addition leaves fewer digits than DIGMIN where the sum before it and its own
value have as many (R196). -/
def Obligations.Scans : Prop :=
  (∀ (s : State) (c : Ctx) (o : Op), o.ty.toNat ≠ tyF32 →
     let fn := o.fn.toNat
     let n := if is64 o.ty.toNat then 64 else 32
     let sgn := o.ty.toNat = tyI32 ∨ o.ty.toNat = tyI64
     let g := if bits fn 4 3 = 0 then (if c.single then 96 else 32) else 2 ^ bits fn 4 3
     let thread (l : Nat) : Nat := if c.single then l else l / 3
     let lane (t l : Nat) : Nat := if c.single then t else 3 * t + l % 3
     let lt (x y : DWord) : Bool := if sgn then (x <<< (64 - n)).slt (y <<< (64 - n)) else x.ult y
     let ones : DWord := BitVec.ofNat 64 (2 ^ n - 1)
     let op (x y : DWord) : DWord :=
       if fn % 8 = 0 then (x + y) &&& ones else if fn % 8 = 1 then (if lt y x then y else x)
       else if fn % 8 = 2 then (if lt x y then y else x) else if fn % 8 = 3 then x &&& y else if fn % 8 = 4 then x ||| y else x ^^^ y
     let ident : DWord :=
       if fn % 8 = 1 then (if sgn then ones >>> 1 else ones) else if fn % 8 = 2 then (if sgn then ones ^^^ (ones >>> 1) else 0)
       else if fn % 8 = 3 then ones else 0
     let gives (i : Instr) (upto : Nat → Nat → Bool) : Prop :=
       let v (l : Nat) : DWord := ((c.threads.filter fun x => x / g == thread l / g && upto x (thread l)).map fun t =>
         c.src 0 (lane t l)).foldl op ident
       Compared s c i v ((s.issued c).produce c false (c.writesV o.d.toNat (is64 o.ty.toNat) v))
     gives (.vscan o) (fun x t => if fn.testBit 7 then decide (x < t) else decide (x ≤ t)) ∧ gives (.vred o) (fun _ _ => true)) ∧
  (∀ (s : State) (c : Ctx) (o : Op), o.ty.toNat = tyF32 →
     let fn := o.fn.toNat
     let lane (t l : Nat) : Nat := if c.single then t else 3 * t + l % 3
     let step (l : Nat) (a : Option (Nat × Nat)) (t : Nat) : Option (Nat × Nat) :=
       let v := c.fsrc f32 0 (lane t l)
       match a with
       | none => some (v, 0)
       | some x =>
         let r := if fn % 8 = 0 then f32.add (c.dir (lane t l) 0) x.1 v else f32.minMax (fn % 8 != 1) x.1 v
         some (r.1, x.2 ||| r.2)
     let pass (l : Nat) (ts : List Nat) : Option (Nat × Nat) := ts.foldl (step l) none
     let ident : Nat := if fn % 8 = 1 then 0x7F800000 else if fn % 8 = 2 then 0xFF800000 else 0
     let groups := (c.threads.filter fun t => (c.mates t).head? == some t).map c.mates
     let fl := (groups.flatMap fun g => (if c.single then [0] else [0, 1, 2]).map fun k => (pass k g).elim 0 Prod.snd).foldl (· ||| ·) 0
     -- The additions of a group's threads after its first that cancel: few digits in the sum, enough in what is added.
     let few := bits c.ctl.toNat 16 6
     let dig (v : Nat → Nat) : Nat := f32.digits (v 0) (v 1) (v 2)
     let canc : List Nat := if c.single ∨ fn % 8 ≠ 0 then [] else groups.flatMap fun g =>
       ((List.range g.length).drop 1).filterMap fun i =>
         let sum (n k : Nat) : Nat := (pass k (g.take n)).elim 0 Prod.fst
         if dig (sum (i + 1)) < few ∧ few ≤ dig (sum i) ∧ few ≤ dig (fun k => c.fsrc f32 0 (lane ((g[i]?).getD 0) k)) then g[i]? else none
     let gives (i : Instr) (upto : Nat → Nat → Bool) : Prop :=
       Ready s i c → exec i s = .next (floated s c true (c.writesV o.d.toNat false fun l =>
         let t := if c.single then l else l / 3
         BitVec.ofNat 64 ((pass l ((c.mates t).filter fun x => upto x t)).elim ident Prod.fst)) fl ⟨canc, [], []⟩)
     gives (.vscan o) (fun x t => if fn.testBit 7 then decide (x < t) else decide (x ≤ t)) ∧ gives (.vred o) (fun _ _ => true))

/-- R292: a crew at REGRP takes the control-state trap with subcode 10 for a partner that is out of range or is itself,
continues with its predicate 0 when the partner has retired, and otherwise waits for the rendezvous. R167, R292, R293: two
crews that wait for each other with nothing outstanding trap both where their addresses differ; a crew with both slots live or a bracket
open, or one that is limb-bound, traps alone and the other goes on waiting. Else they decline when together they have more threads than a
crew, and both read 0 from `Qd`; both retire when they have none; otherwise they fuse: the higher crew retires, and the lower one goes on
behind the REGRP with the threads of both, all of them acting, with its LINK, the larger ROUND and 1 in `Qd`. A thread that keeps its
crew and number keeps every register; a moved one carries the vector registers of its crew's mask and all predicates, its other vector
registers zero and full; lanes beyond the threads hold zero and are full. -/
def Obligations.Regrouping : Prop :=
  (∀ (s : State) (c : Ctx) (o : Op), Ready s (.regrp o) c →
     let b := (c.s32 1).toNat
     let r := c.iss.unit
     let gone := (s.issued c).unit? (.crew r.ident r.gang (wgOf r) b) = none
     (32 ≤ b ∨ c.lr.nCrews ≤ b ∨ b = c.crew.crew → exec (.regrp o) s =
       .next (trapAt s c (TrapInfo.of 5 10))) ∧
     (b < 32 → b < c.lr.nCrews → b ≠ c.crew.crew → gone → exec (.regrp o) s = .next (wrote s c (qReg o.d.toNat false))) ∧
     (b < 32 → b < c.lr.nCrews → b ≠ c.crew.crew → ¬ gone → exec (.regrp o) s = .next ({ s with issuer := none }.modUnit r fun u =>
       u.setSlot c.iss.slot { u.slot c.iss.slot with st := .blocked (.regroup b) }))) ∧
  (∀ (s : State) (a b : UnitRef) (x y : Crew) (ka kb : Nat) (ca cb : Ctx),
     s.unit? a = some (.crew x) → s.unit? b = some (.crew y) → x.regroups y.crew = some ka → y.regroups x.crew = some kb →
     x.place.isSome = true → y.place.isSome = true →
     x.crew < y.crew → x.ident = y.ident → x.gang = y.gang → x.wg = y.wg → s.drained (.crew x) = true → s.drained (.crew y) = true →
     s.waiting a ka = some ca → s.waiting b kb = some cb →
     let trapped (s : State) (c : Ctx) (t : TrapInfo) : State := { s.finish c (.trap t) with issuer := s.issuer }
     let control (c : Crew) : Prop := c.slot0.st ≠ .empty ∧ c.slot1.st ≠ .empty ∨ c.bracket ≠ none
     let bound (c : Crew) : Prop := ¬ control c ∧ c.limbN ≠ 0
     let good (c : Crew) : Prop := ¬ control c ∧ c.limbN = 0
     let t5 := TrapInfo.of 5 10
     let t4 := TrapInfo.of 4 2
     (ca.pc ≠ cb.pc → exec (.regrpFuse a b) s = .next (trapped (trapped s ca t5) cb t5)) ∧
     (ca.pc = cb.pc → (control x → good y → exec (.regrpFuse a b) s = .next (trapped s ca t5)) ∧
       (good x → control y → exec (.regrpFuse a b) s = .next (trapped s cb t5)) ∧
       (bound x → good y → exec (.regrpFuse a b) s = .next (trapped s ca t4)) ∧
       (good x → bound y → exec (.regrpFuse a b) s = .next (trapped s cb t4))) ∧
     (ca.pc = cb.pc → ca.d = cb.d → ca.d < 16 → good x → good y →
     let n := (threadsIn ca.single ca.mask).length + (threadsIn ca.single cb.mask).length
     let per := if ca.single then 1 else 3
     (n > (if ca.single then 96 else 32) → ∃ t u v, exec (.regrpFuse a b) s = .next t ∧ t.mem = s.mem ∧
       t.unit? a = some (.crew u) ∧ t.unit? b = some (.crew v) ∧ u.scal.qget ca.d = false ∧ v.scal.qget ca.d = false ∧
       (u.slot ka).pc = ca.nextPc ∧ (v.slot kb).pc = cb.nextPc) ∧
     (n = 0 → x.regBad = [] → y.regBad = [] → ∃ t, exec (.regrpFuse a b) s = .next t ∧ t.unit? a = none ∧ t.unit? b = none) ∧
     (0 < n → n ≤ (if ca.single then 96 else 32) → x.regBad = [] → y.regBad = [] → ∃ t u, exec (.regrpFuse a b) s = .next t ∧
       t.unit? a = some (.crew u) ∧ t.unit? b = none ∧ u.lanes = n * per ∧ u.exited = 0 ∧ u.threads.length = n ∧
       u.scal.qget ca.d = true ∧ u.slot0.pc = ca.nextPc ∧ u.slot0.mask = fullMask (n * per) ∧ u.slot1.st = .empty ∧
       u.scal.s = x.scal.s ∧ u.arithCtl = x.arithCtl ∧ u.arithStat = (x.arithStat ||| y.arithStat) ∧
       u.slot0.st = .ready ∧ u.slot0.link = (x.slot ka).link ∧ u.scal.round.toNat = max x.scal.round.toNat y.scal.round.toNat ∧
       -- The threads of the fused crew: whether from the higher crew, and the number there.
       (let order := (threadsIn ca.single ca.mask).map (fun t => (false, t)) ++ (threadsIn ca.single cb.mask).map fun t => (true, t)
        ∀ i hi t, order[i]? = some (hi, t) →
          let z : Crew := if hi then y else x
          let live (v : Nat) : Bool := (z.scal.sget ((if hi then cb else ca).op.sa.toNat + v / 32)).getLsbD (v % 32)
          let stays : Prop := hi = false ∧ t = i
          (u.threads[i]?).map Thread.tid = some ((z.threads[t]?).map Thread.tid |>.getD 0) ∧
          ∀ k, k < per →
            (∀ v, v < ca.lr.vregs → (stays ∨ live v = true → u.vget v (i * per + k) = z.vget v (t * per + k) ∧
                (tget 0 u.vEmpty v).getLsbD (i * per + k) = (tget 0 z.vEmpty v).getLsbD (t * per + k)) ∧
              (¬ (stays ∨ live v = true) → u.vget v (i * per + k) = 0 ∧ (tget 0 u.vEmpty v).getLsbD (i * per + k) = false)) ∧
            ∀ v, v < 64 → (tget 0 u.p v).getLsbD (i * per + k) = (tget 0 z.p v).getLsbD (t * per + k) ∧
              (tget 0 u.pEmpty v).getLsbD (i * per + k) = (tget 0 z.pEmpty v).getLsbD (t * per + k)) ∧
       ∀ l v, n * per ≤ l → l < 96 → u.vget v l = 0 ∧ (tget 0 u.vEmpty v).getLsbD l = false ∧ (tget 0 u.p v).getLsbD l = false ∧
         (tget 0 u.pEmpty v).getLsbD l = false)))

/-! ### Limbs -/

/-- R300: LBIND binds the crew with a legal segment size and clears CARRY and CHI, or traps and leaves the binding; LFREE
unbinds. R301: a limb instruction in an unbound crew, or whose acting threads split a segment, traps with nothing changed; that it waits
for an empty source, or traps on one, before that is the model's reading (log entry 132). -/
def Obligations.LimbBinding : Prop :=
  (∀ (s : State) (c : Ctx) (o : Op),
     let n := (c.s32 0).toNat
     let legal := if c.single = true then 2 ≤ n ∧ n ∣ 96 else n = 2 ∨ n = 4 ∨ n = 8 ∨ n = 16 ∨ n = 32
     let free := c.other.st = .empty ∧ c.crew.bracket = none
     let trap (t : TrapInfo) : State := trapAt s c t
     let bind (k : Nat) : State := (s.issued c).modCrew c.iss.unit fun x => { x with limbN := k, limbChi := false, limbCarry := 0 }
     (Ready s (.lbind o) c →
       (¬ (legal ∧ free) → exec (.lbind o) s = .next (trap (TrapInfo.of 5 11))) ∧
       (legal ∧ free → exec (.lbind o) s = .next (if splitsSegment c.single n c.mask then trap (TrapInfo.of 4 4) else bind n))) ∧
     (Ready s .lfree c → exec .lfree s = .next (bind 0))) ∧
  (∀ (s : State) (c : Ctx) (o : Op),
     let trap (t : TrapInfo) : State := trapAt s c t
     ∀ i ∈ [Instr.ladd o, .lsub o, .lmuls o, .lshl o, .lshr o, .lcmp o, .lcarry o], Ready s i c →
       (c.crew.limbN = 0 → exec i s = .next (trap (TrapInfo.of 5 12))) ∧
       (c.crew.limbN ≠ 0 → splitsSegment c.single c.crew.limbN c.act = true → exec i s = .next (trap (TrapInfo.of 4 3))))

/-- R301, R302, R304, R307: the sums, differences and shifts of whole segments, in each acting segment and each sibling, left
to their landing: limb j of the result in thread j of the segment, `out` in the carry predicate of the top thread and 0 in the
others', and `out` for LIMBSTAT. R303, R305, R306: the product of a segment with one limb, its limb n in the top thread of Vh, landing
with the longer latency; the comparison of two segments in every lane; carries moved to the next segment's limb 0, where a source
segment that does not act supplies 0 (the last segment of a crew with fewer threads: log entry 132). R301, R390: with siblings that give a limb different words, the lowest such lane is a machine
check, and nothing is written. -/
def Obligations.LimbArithmetic : Prop :=
  ∀ (s : State) (c : Ctx) (o : Op),
    let n := c.crew.limbN
    let top := 2 ^ (32 * n)
    let a := c.segVal 0
    let b := c.segVal 1
    let lane (k j sb : Nat) : Nat := c.laneAt (k * n + j) sb
    let limbs (f : Nat → Nat → List RegWrite) : List RegWrite := c.segments.flatMap fun k => c.siblings.flatMap (f k)
    let each (f : Nat → RegWrite) : List RegWrite := (List.range n).map f
    let word (v j : Nat) : Word := BitVec.ofNat 32 (v / 2 ^ (32 * j))
    -- `w k sb j d` is what sibling `sb` gives destination `d` of limb `j` of segment `k`.
    let gives (i : Instr) (w : Nat → Nat → Nat → Nat → Word) (t : State) : Prop :=
      Ready s i c → n ≠ 0 → splitsSegment c.single n c.act = false →
        ((∀ k j d, ¬ LimbSplits c w k j d) → exec i s = .next t) ∧
        (∀ k j d, LimbSplits c w k j d → exec i s = .next (checked s c (lane k j 0) fun sb => w k sb j d))
    let sums (i : Instr) (v : Nat → Nat → Nat) (out : Nat → Nat → Bool) : Prop :=
      let w (k sb j d : Nat) : Word := if d = 0 then word (v k sb) j else b2w (out k sb && j + 1 == n)
      gives i w (limbed s c false
        (limbs fun k sb => each (fun j => ⟨.v, o.d.toNat, lane k j sb, w k sb j 0⟩) ++
          each (fun j => ⟨.p, o.fn.toNat % 64, lane k j sb, w k sb j 1⟩))
        (c.segments.map fun k => (k, out k 0)))
    let cin (k sb : Nat) : Nat := if o.fn.getLsbD 6 && (c.crew.pget o.sc.toNat).getLsbD (lane k 0 sb) then 1 else 0
    let sh := (c.s32 1).toNat
    let preds (i : Instr) (f : Nat → Nat → Nat → Bool) : Prop :=
      gives i (fun k sb j d => if d = 0 then b2w (f k sb j) else 0)
        (limbed s c false (limbs fun k sb => each fun j => ⟨.p, o.d.toNat, lane k j sb, b2w (f k sb j)⟩) [])
    let last := (if c.single then 96 else 32) / n - 1
    let carry (k sb : Nat) : Bool := c.segments.contains k && (c.crew.pget o.sa.toNat).getLsbD (c.laneAt (k * n + n - 1) sb)
    let m := o.fn.toNat % 8
    sums (.ladd o) (fun k sb => (a k sb + b k sb + cin k sb) % top) (fun k sb => decide (top ≤ a k sb + b k sb + cin k sb)) ∧
    sums (.lsub o) (fun k sb => if b k sb + cin k sb ≤ a k sb then a k sb - b k sb - cin k sb
      else a k sb + top - b k sb - cin k sb) (fun k sb => decide (a k sb < b k sb + cin k sb)) ∧
    sums (.lshl o) (fun k sb => a k sb * 2 ^ sh % top) (fun k sb => decide (top ≤ a k sb * 2 ^ sh)) ∧
    sums (.lshr o) (fun k sb => a k sb / 2 ^ sh) (fun k sb => decide (a k sb % 2 ^ sh ≠ 0)) ∧
    (let v (k sb : Nat) : Nat := a k sb * (c.src32 1 (lane k 0 sb)).toNat + c.segVal 2 k sb
     gives (.lmuls o) (fun k sb j d => if d = 0 then word (v k sb) j else if j + 1 = n then word (v k sb) n else 0)
       (limbed s c true
         (limbs fun k sb => each (fun j => ⟨.v, o.d.toNat, lane k j sb, word (v k sb) j⟩) ++
           [⟨.v, o.fn.toNat, c.laneAt (k * n + n - 1) sb, word (v k sb) n⟩])
         (c.segments.map fun k => (k, decide (v k 0 / top ≠ 0))))) ∧
    preds (.lcmp o) (fun k sb _ => decide ((m = 0 ∧ a k sb = b k sb) ∨ (m = 1 ∧ a k sb ≠ b k sb) ∨ (m = 2 ∧ a k sb < b k sb) ∨
      (m = 3 ∧ a k sb ≤ b k sb) ∨ (m = 4 ∧ b k sb < a k sb) ∨ (m = 5 ∧ b k sb ≤ a k sb))) ∧
    preds (.lcarry o) (fun k sb j => j == 0 && (if k = 0 then o.fn.getLsbD 0 && carry last sb else carry (k - 1) sb))

/-! ### Memory -/

/-- R16, R18, R309 to R321: a memory instruction every access of which passes every check makes its accesses: loads and returning
atomics with their destinations empty, stores, atomics and ordered updates each as its own rule states. R52: one of whose pages is
known to no TLB stays at its address until the walks that it has asked for are done. R19, R57, R59: of one some of whose accesses
fail after translation the others are made, the faults are recorded, and the slot parks for the lanes that failed. -/
def Obligations.MemoryInstructions : Prop :=
  ∀ (s : State) (c : Ctx) (o : MemOp) (i : Instr), Ready s i c → i.mem? = some o →
    let code := c.memReq.code
    let goes (is : List Instr) (perform : Ctx → State → List Found → State) : Prop := i ∈ is →
      (Passes s c → exec i s = .next (accessed s c perform)) ∧
      (Checks s c → unknown s c ≠ [] → exec i s = .next (stayed
        ((unknown s c).foldl (fun t p => t.askWalk c.iss.unit c.lr.asid p) (memBase s c)) c
        (.blocked (.walk code c.lr.asid (unknown s c))) (some c.act) code c.slot.walked)) ∧
      (Checks s c → unknown s c = [] →
        let results := c.accs.map fun a => (c.memReq, a, c.reach (memStart s c) c.memReq a)
        let pages := results.filterMap fun x => match x.2.2 with
          | .page va cause => some (x.1, x.2.1, va, cause)
          | _ => none
        let faults := results.filterMap fun x => match x.2.2 with
          | .fault order kind => some (x.1, x.2.1, order, kind)
          | _ => none
        let failed := results.filter fun x => match x.2.2 with
          | .ok .. => false
          | _ => true
        failed ≠ [] → exec i s = .next (stayed (c.lateFault (c.pageFaults (accessed s c perform) pages) faults) c
          (.parked (!faults.isEmpty) code (pages.map fun x => x.2.2.1 / 2 ^ 16).eraseDups)
          (some (failed.foldl (fun m x => m ||| if x.2.1.lanes.isEmpty then c.act else x.2.1.mask) 0)) code []))
    goes [.ldVV o, .ldVS o, .ldSS o] loadAll ∧ goes [.stVV o, .stVS o, .stSS o] storeAll ∧
    goes [.atomVV o, .atomVS o, .atomSS o, .atomrVV o, .atomrVS o, .atomrSS o, .casVV o, .casVS o, .casSS o] atomAll ∧
    goes [.oatomVV o, .oatomVS o] oatomAll

/-- R21, R86 to R88, R312, R313: the lanes of an instruction that loads from or stores to scratchpads, each at bytes of its own, make
passes: a load or a store in flight for each pass, under its own number, at the port of the issuer's partition, with nothing read or
written before the pass is served. The lanes of a pass lie in one base pass, of 32 lanes or, with elements of 8 bytes, of 16, and
name one word of a bank at most. Every lane's bytes are in a pass, and a store's passes hold just the bytes that it stores; where the
lanes of a thread share one value, its load's passes read it once (R32, R33). R87, R116, R316: the steps of an atomic make passes too:
those of one location each a pass of its own, in ascending order of the lanes. R88: of a port the oldest pass is served first, and of
the ports of a core whose oldest may be served the one that comes first in the rotation after the port served last. That base passes go
in the order of the lanes, and a bank's words in the order in which lanes name them, is log entry 102. -/
def Obligations.Scratchpad : Prop :=
  (∀ (s : State) (id port : Nat), s.passNext id port = true →
    (∃ x ∈ s.spQueue, x.id = id ∧ x.port = port) ∧ (∀ y ∈ s.spQueue, y.port = port → id ≤ y.id) ∧
    ∀ y ∈ s.spQueue, s.passFree s.spQueue y = true → y.port / 6 = port / 6 → y.id ≠ id →
      rotation (tget 0 s.caches.turns (port / 6)) (port % 6) < rotation (tget 0 s.caches.turns (port / 6)) (y.port % 6)) ∧
  (∀ (s : State) (c : Ctx) (q : Req) (xs : List Found),
    let steps := (xs.flatMap fun x => c.atomLanes x.q x.a x.locs).map fun y => atomLane y.2.1 (y.1, y.2.2)
    let per := if szfSize q.szf = 8 then 16 else 32
    (∀ x ∈ steps, x.lane < 96 ∧ ∃ i g w off, x.loc = .sp i g w off) → (steps.map AtomLane.lane).Nodup →
    ∃ ops : List AtomOp, c.atomSp s q xs =
        { s with nextId := s.nextId + ops.length, flight := { s.flight with atomics := s.flight.atomics ++ ops } } ∧
      (∀ k op, ops[k]? = some op → op.id = s.nextId + k ∧ op.batch = s.nextId ∧ op.held = [] ∧ op.unit = c.iss.unit ∧ op.szf = q.szf ∧
        op.aop = (if q.kind = .cas then 7 else q.aop) ∧ (op.ret = true ↔ q.kind ≠ .atom) ∧ op.reg = c.mo.data.toNat ∧
        op.port = some (c.spPort s (op.lanes.map AtomLane.loc)) ∧ (op.lanes.map AtomLane.loc).Nodup ∧
        ∀ x ∈ op.lanes, x ∈ steps ∧ ∀ y ∈ op.lanes, x.lane / per = y.lane / per ∧ (x.word % 32 = y.word % 32 → x.word = y.word)) ∧
      (∀ x ∈ steps, ∃ op ∈ ops, x ∈ op.lanes) ∧
      ∀ (k j : Nat) (a b : AtomOp) (x y : AtomLane), ops[k]? = some a → ops[j]? = some b → x ∈ a.lanes → y ∈ b.lanes → x.loc = y.loc → x.lane < y.lane → k < j) ∧
  ∀ (s : State) (c : Ctx) (q : Req) (xs : List Found), xs ≠ [] →
    let e := szfSize q.szf
    let per := if e = 8 then 16 else 32
    (∀ x ∈ xs, x.q = q ∧ x.a.lanes ≠ [] ∧ (∀ l ∈ x.a.lanes, l < 96) ∧ (c.spForm q = .each → x.a.lanes.length = 3) ∧
      ∃ i g w off, off % e = 0 ∧ x.locs = (List.range ((c.spForm q).size q.szf)).map fun j => .sp i g w (off + j)) →
    let onePass (port : Option Nat) (locs : List Loc) : Prop := port = some (c.spPort s locs) ∧
      ∀ i g w off i' g' w' off', .sp i g w off ∈ locs → .sp i' g' w' off' ∈ locs → off / 4 % 32 = off' / 4 % 32 → off / 4 = off' / 4
    -- The bytes of lane `l` among those of its access `x`: its own element in the triple form, else the one element.
    let own (x : Found) (l : Nat) : List Loc :=
      if c.spForm q = .each then (x.locs.drop (x.a.lanes.findIdx (· == l) * e)).take e else x.locs
    (∃ ops : List LoadOp, c.loadPasses s xs =
        { s with nextId := s.nextId + ops.length, flight := { s.flight with loads := s.flight.loads ++ ops } } ∧
      (∀ k op, ops[k]? = some op → op.id = s.nextId + k ∧ op.unit = c.iss.unit ∧ op.reg = c.mo.data.toNat ∧ op.szf = q.szf ∧
        op.vdata = q.vdata ∧ (∀ b ∈ op.got, b = none) ∧ onePass op.port op.locs ∧
        (op.tied = true ↔ c.single = false ∧ c.u.isCox = false ∧ q.vdata = true ∧ c.spForm q ≠ .each) ∧
        ∀ l ∈ op.lanes, ∀ l' ∈ op.lanes, l / per = l' / per) ∧
      ∀ x ∈ xs, x.a.lanes.Nodup → ∀ l ∈ x.a.lanes, ∃ op ∈ ops, l ∈ op.lanes ∧ ∀ y ∈ own x l, y ∈ op.locs) ∧
    (∀ bs : Found → List Byte, (∀ x ∈ xs, (bs x).length = x.locs.length) →
      ∃ ops : List StoreOp, c.storePasses s (xs.map fun x => (x, bs x)) =
          { s with nextId := s.nextId + ops.length, flight := { s.flight with stores := s.flight.stores ++ ops } } ∧
        (∀ k op, ops[k]? = some op → op.id = s.nextId + k ∧ op.unit = c.iss.unit ∧ op.raise = none ∧ op.remote = false ∧
          op.bytes = [] ∧ onePass op.port op.locs) ∧
        ∀ y, (∃ op ∈ ops, y ∈ op.spBytes) ↔ ∃ x ∈ xs, y ∈ x.locs.zip (bs x))

/-- R89 to R92, R312: a load access to this package's global memory, with no access counter enabled, goes in flight for its registers
and lanes with no byte of memory read yet; on a Normal page, unqualified and not of the L2ONLY policy, it takes the bytes that the
core's cache holds, and with the default or the KEEP policy it allocates when it returns, line by line as its pages say (R47); of L2ONLY it drops the core's lines. A
private access reads its bytes through the core's cache at once. R33, R92, R313: a store access to this package's global memory goes
in flight as a piece for each line that it touches, each with its bytes: memory and every register stay as they are until the
acknowledgment. R116, R316: the steps of an instruction's atomics are gathered by location, each location's in ascending order of
the lanes, and outside the scratchpad go in flight as one operation for each location, at this package's home slice; the core gives up
the lines that it holds of them. R137, R320, R321: an ordered atomic sends an update for each of its steps, keyed by the thread and its
count, for the unit's round. R116, R117, R316, R318: a read-modify-write of an integer at a place in global memory gives the old value
back, and writes the sum, the smaller or larger, the bits combined, the operand, or, for compare-and-swap, the new value only where
the old one equals the compare value; every other byte stays. R318, R120: a failing compare-and-swap writes nothing at all. -/
def Obligations.GlobalAccesses : Prop :=
  (∀ (s : State) (c : Ctx) (x : Found), aperture x.a.addr = .global → (∀ l ∈ x.locs, ∃ pa, l = .mem pa ∧ paPkg pa = s.pkg) →
     (tget 0 s.xlat.asctx (4 * c.lr.asid + 2)).getLsbD 31 = false → (tget 0 s.xlat.asctx (4 * c.lr.asid + 2)).getLsbD 23 = false →
     let r := c.iss.unit
     let cache := s.cacheOf r
     let same (t : State) : Prop := t.mem = s.mem ∧ t.wgs = s.wgs ∧ t.crews = s.crews ∧ t.coxes = s.coxes ∧ t.outputs = s.outputs
     (let cp := c.mo.cp.toNat
      let t := c.loadOne s x
      -- A line on a Normal page, for an access that the core's cache may serve.
      let near (n : Nat) : Prop := x.q.qual = false ∧ cp ≠ 2 ∧ ∃ k pa : Nat, x.locs[k]? = some (Loc.mem pa) ∧ x.mts[k]? = some 0 ∧ pa / 64 = n
      same t ∧ (cp = 2 → ∀ y ∈ t.caches.l1, y.cache = cache → y.line ∈ locLines x.locs → y.priv = true) ∧
      ∃ op : LoadOp, t.nextId = s.nextId + 1 ∧ t.flight = { s.flight with loads := s.flight.loads ++ [op] } ∧
        op.id = s.nextId ∧ op.unit = r ∧ op.cache = cache ∧ op.vdata = x.q.vdata ∧ op.reg = c.mo.data.toNat ∧ op.lanes = x.a.lanes ∧
        op.szf = x.q.szf ∧ op.form = c.formOf s x.q x.a ∧ op.locs = x.locs ∧ op.acquire = c.acquires ∧ op.wide = c.wideAcquire ∧
        op.port = none ∧ op.tied = false ∧ (∀ n, n ∈ op.alloc ↔ (cp = 0 ∨ cp = 3) ∧ near n) ∧
        op.got.length = x.locs.length ∧
        ∀ (k pa : Nat), x.locs[k]? = some (.mem pa) →
          (near (pa / 64) → op.got[k]? = some (s.l1Byte cache (.mem pa))) ∧ (¬ near (pa / 64) → op.got[k]? = some none)) ∧
     (∀ (pas : List Nat) (bs : List Byte), x.locs = pas.map .mem → pas ≠ [] → bs.length = pas.length →
      let t := c.storeOne s x bs
      let pieces := splitLines (pas.zip bs)
      same t ∧ pieces.flatten = pas.zip bs ∧ (∀ g ∈ pieces, ∀ y ∈ g, ∀ z ∈ g, y.1 / 64 = z.1 / 64) ∧
      t.flight = { s.flight with stores := s.flight.stores ++ pieces.zipIdx.map fun g =>
        ⟨s.nextId + g.2, r, cache, g.1.map fun b => .mem b.1, g.1, none, false, none, [], rankOf c.mo.cp.toNat true⟩ })) ∧
  (∀ (s : State) (c : Ctx) (x : Found), aperture x.a.addr = .priv →
     ∃ op : LoadOp, (c.loadOne s x).flight.loads = s.flight.loads ++ [op] ∧ op.id = s.nextId ∧ op.unit = c.iss.unit ∧
       op.lanes = x.a.lanes ∧ op.reg = c.mo.data.toNat ∧ ∀ b ∈ op.got, b ≠ none) ∧
  (∀ (s : State) (c : Ctx) (xs : List Found),
     let steps := xs.flatMap fun x => c.atomLanes x.q x.a x.locs
     ((c.atomSteps xs).map Prod.fst).Nodup ∧
     (∀ l sts, (l, sts) ∈ c.atomSteps xs → sts = (steps.filter fun y => y.2.1 == l).map fun y => (y.1, y.2.2)) ∧
     (∀ y ∈ steps, y.2.1 ∈ (c.atomSteps xs).map Prod.fst) ∧
     ∀ y ∈ (atomAll c s xs).caches.l1, y.cache = s.cacheOf c.iss.unit → y.line ∈ locLines (xs.flatMap Found.locs) → y.priv = true) ∧
  (∀ (s : State) (c : Ctx) (q : Req) (g : AtomSteps) (pa : Nat), g.1 = .mem pa → paPkg pa = s.pkg ∨ q.kind ≠ .atom →
     ∃ op : AtomOp, c.atomOne q s g =
         { s with nextId := s.nextId + 1, flight := { s.flight with atomics := s.flight.atomics ++ [op] } } ∧
       op.id = s.nextId ∧ op.unit = c.iss.unit ∧ op.cache = s.cacheOf c.iss.unit ∧ op.szf = q.szf ∧ op.vdata = q.vdata ∧
       op.aop = (if q.kind = .cas then 7 else q.aop) ∧ (op.ret = true ↔ q.kind ≠ .atom) ∧ op.reg = c.mo.data.toNat ∧
       op.lanes = g.2.map (fun st => ⟨st.1, g.1, st.2.operand, st.2.compare, st.2.dir, none⟩) ∧
       op.port = none ∧ op.batch = s.nextId ∧ op.held = [] ∧ op.rank = rankOf c.mo.cp.toNat true) ∧
  (∀ (s : State) (c : Ctx) (x : Found), (∀ l ∈ x.locs, ∃ pa, l = .mem pa) →
     let th := threadOf c.single x.a.lane
     let steps := c.atomLanes x.q x.a x.locs
     ∃ ups : List OUpdate, (c.oatomOne s x).flight = { s.flight with
         updates := s.flight.updates ++ ups, stores := (c.oatomOne s x).flight.stores } ∧ ups.length = steps.length ∧
       ∀ k u st, ups[k]? = some u → steps[k]? = some st → st.2.1 = .mem u.pa ∧ u.id = s.nextId + k ∧ u.unit = c.iss.unit ∧
         u.aop = x.q.aop ∧ u.szf = x.q.szf ∧ u.operand = st.2.2.operand ∧ u.kclass = 0 ∧ u.issuer = (c.tid th).toNat ∧
         u.icount = c.icount th ∧ u.elempos = 0 ∧ u.round = c.u.scal.round.toNat ∧ u.place = .sent ∧ u.copy = none ∧
         (u.remote = true ↔ paPkg u.pa ≠ s.pkg)) ∧
  (∀ (s : State) (pa : Nat) (a : RemoteAtomic), 4 ≤ a.szf → a.szf ≤ 7 → a.aop ≤ 7 → memoryInv s →
     let e := if a.szf = 6 ∨ a.szf = 7 then 8 else 4
     let n := 8 * e
     let sgn := a.szf = 5 ∨ a.szf = 7
     let old := leNat (s.rdMem pa e)
     let v := a.operand.toNat % 2 ^ n
     let int (x : Nat) : Int := if sgn ∧ 2 ^ (n - 1) ≤ x then (x : Int) - 2 ^ n else x
     let new := if a.aop = 0 then (old + v) % 2 ^ n
       else if a.aop = 1 then (if int old ≤ int v then old else v) else if a.aop = 2 then (if int old ≤ int v then v else old)
       else if a.aop = 3 then old &&& v else if a.aop = 4 then old ||| v else if a.aop = 5 then old ^^^ v
       else if a.aop = 6 then v else if old = a.compare.toNat % 2 ^ n then v else old
     let t := (s.atomAt (.mem pa) a).2
     (s.atomAt (.mem pa) a).1 = old ∧ leNat (t.rdMem pa e) = new ∧
     (∀ x, (x < pa ∨ pa + e ≤ x) → tget 0 t.mem x = tget 0 s.mem x) ∧ t.crews = s.crews ∧ t.wgs = s.wgs ∧ memoryInv t) ∧
  (∀ (s : State) (l : Loc) (a : RemoteAtomic), (∀ i, l ≠ .ctr i) → a.aop = 7 →
     leNat (s.rdLocs (locRun l (szfSize a.szf))) ≠ a.compare.toNat % 2 ^ (8 * szfSize a.szf) → (s.atomAt l a).2 = s)

/-- R18, R20 to R22, R25, R310: the checks made before translation, in their order: a sum that wraps, an address outside the
apertures, a misaligned one, a use that the aperture refuses, an end beyond the scratchpad (of the issuer's workgroup, or for a cox
core of the workgroup that the address names), the private region or the global aperture. A qualified access is aligned to 8 bytes. R19, R20, R28, R57, R59: a memory instruction one of whose accesses fails a
check made before translation accesses nothing. Of the accesses that fail the earliest check, the first names the fault: the
slot stays at the instruction, parked and not replayable, with one fault record posted for that access; the stack limit instead
takes its trap, naming every lane that failed it. R143, R311: in a deterministic launch an atomic or compare-and-swap whose
addresses pass those checks, with one in the global aperture, or qualified at gang scope or wider, takes the ordered-atomic
misuse trap before anything is accessed. The model's readings are: ADDR, the sum modulo 2^64 (log entry 60), the lanes that the record lists
(log entry 19), and that misuse goes by the scope that is written (log entry 71). -/
def Obligations.AddressChecks : Prop :=
  (∀ (c : Ctx) (q : Req) (a : Acc),
     let x := a.addr
     let e := szfSize q.szf
     let al := if q.qual then 8 else e
     (a.sum < 0 ∨ 2 ^ 64 ≤ a.sum → c.precheck q a = some (1, .kind 2)) ∧
     (0 ≤ a.sum → a.sum < 2 ^ 64 →
       (2 ^ 56 ≤ x ∧ x < 0xFFFE000000000000 → c.precheck q a = some (2, .kind 1)) ∧
       (x < 2 ^ 56 ∨ 0xFFFE000000000000 ≤ x → x % al ≠ 0 → c.precheck q a = some (3, .kind 3)) ∧
       (0xFFFE000000000000 ≤ x → x < 0xFFFF000000000000 → x % al = 0 →
         (q.vdata = false ∨ q.qual = true ∨ 2 ≤ q.code ∨ c.u.isCox = true → c.precheck q a = some (4, .kind 6)) ∧
         (q.vdata = true → q.qual = false → q.code < 2 → c.u.isCox = false → c.precheck q a =
           if c.lr.privSize < x - 0xFFFE000000000000 + e then some (5, .stack (x - 0xFFFE000000000000)) else none)) ∧
       (0xFFFF000000000000 ≤ x → x % al = 0 →
         let refused : Prop := q.kind = .oatom ∨ (2 ≤ q.code ∧ c.tripleFloat q = true ∧ szfMD q.szf = true)
         let off := x - 0xFFFF000000000000
         let n := (c.spForm q).size q.szf
         let within : Prop := match c.iss.unit with
           | .crew .. => off + n ≤ c.lr.spSize
           | .cox .. => off / 2 ^ 24 < c.lr.wgs ∧ off % 2 ^ 24 + n ≤ c.lr.spSize
         (refused → c.precheck q a = some (4, .kind 6)) ∧
         (¬ refused → within → c.precheck q a = none) ∧ (¬ refused → ¬ within → c.precheck q a = some (5, .kind 4))) ∧
       (x < 2 ^ 56 → x % al = 0 → c.precheck q a =
         if 2 ^ 56 < x + (if c.tripleFloat q then 3 * e else e) then some (5, .kind 5) else none))) ∧
  (∀ (s : State) (c : Ctx) (o : MemOp) (i : Instr) (q : Req) (a : Acc) (f : Fail) (m : Mask), Ready s i c → i.mem? = some o →
     i.memRow.map MemRow.kind ≠ some .prf → c.memMismatch c.memReq = none →
     c.prechecks (c.accs.map fun a => (c.memReq, a)) = some (q, a, f, m) →
     (∀ off, f = .stack off → exec i s = .next (trapAt s c { kind := 7, sub := 0, code := 0, addr := BitVec.ofNat 64 off, lanes := some m })) ∧
     (∀ k, f = .kind k →
       let t := s.issued c
       let rec_ := t.unitFault c 2 k q.code (a.sum % 2 ^ 64).toNat a.mask false false true
       exec i s = .next (stayed ((t.faultPost rec_).modCrew c.iss.unit fun x => { x with faultRec := t.faultBytes rec_ }) c
         (.parked true q.code []) (some c.act) q.code []))) ∧
  (∀ (s : State) (c : Ctx) (o : MemOp) (i : Instr), Ready s i c →
     i ∈ [Instr.atomVV o, .atomVS o, .atomSS o, .atomrVV o, .atomrVS o, .atomrSS o, .casVV o, .casVS o, .casSS o] →
     c.memMismatch c.memReq = none → c.prechecks (c.accs.map fun a => (c.memReq, a)) = none → c.lr.determ = true →
     ((∃ a ∈ c.accs, a.addr < 2 ^ 56) ∨ (c.mext.ord ≠ 0 ∧ 2 ≤ c.mext.scope.toNat)) →
     exec i s = .next (trapAt s c (TrapInfo.of 9 (if i ∈ [Instr.atomVV o, .atomVS o, .atomSS o] then 0
         else if i ∈ [Instr.atomrVV o, .atomrVS o, .atomrSS o] then 1 else 2))))

/-- R315: a prefetch whose bases agree across siblings makes no fault and no trap and changes no register, no scratchpad and
nothing in flight, wherever its addresses lie: it changes caches and translations at most, and records a table line that fails
its check. R276 to R279: a sweep of no thread, or one whose record is not run, writes its status; one that runs takes a step at each
issue. When every access of a step passes, each element is computed in thread order, then the results are stored, the flags and a
cancellation are recorded, and the slot keeps the next step, or ends the sweep with status 0, and with the instability trap when
the ARITHCTL with which it was issued enables a cancellation and one held. The model's readings are: one step at each issue and the
computation of an element (log entry 64), the strides while a page is unknown (log entry 108), prefetches that walk at once (log entry 66),
the lowest status of several defects and the order of an element's accesses (log entry 131). -/
def Obligations.PrefetchesAndSweeps : Prop :=
  (∀ (s : State) (c : Ctx) (o : MemOp) (i : Instr), i ∈ [Instr.prfV o, .prfS o] → Ready s i c → c.memMismatch c.memReq = none →
     exec i s = .next (c.accs.foldl (fun t a => prefetchOne c t c.memReq a) (s.issued c)) ∧
     ∀ (t : State) (q : Req) (a : Acc), let t' := prefetchOne c t q a
       t'.crews = t.crews ∧ t'.coxes = t.coxes ∧ t'.wgs = t.wgs ∧ t'.eng = t.eng ∧ t'.ctrs = t.ctrs ∧
       t'.flight = { t.flight with loads := t'.flight.loads } ∧ t'.flight.loads.map LoadOp.id = t.flight.loads.map LoadOp.id) ∧
  (∀ (s : State) (c : Ctx) (o : Op), Ready s (.vti o) c →
     let r := c.iss.unit
     let t0 := (s.issued c).modUnit r fun u => u.markEmpty .s o.d.toNat (BitVec.allOnes 96)
     let begins (rec_ : List Byte) : Prop := c.slot.sweep = none ∧ c.threads ≠ [] ∧
       ∃ wg off, c.spRecord (c.s32 0).toNat 16 80 = .ok (wg, off) ∧ (s.issued c).badLine (spLocs r wg off 80) = none ∧
         rec_ = (s.issued c).spBytes r wg off 80
     (c.slot.sweep = none → c.threads = [] → exec (.vti o) s = .next (wrote s c (sReg o.d.toNat 0))) ∧
     (∀ rec_ k, begins rec_ → sweepStatus rec_ = some k →
       exec (.vti o) s = .next (wrote s c (sReg o.d.toNat (BitVec.ofNat 32 k)))) ∧
     (∀ sw, c.slot.sweep = some sw ∨ (begins sw.record ∧ sweepStatus sw.record = none ∧
         sw = ⟨c.issuedAs, 0, sw.record, c.act, 0, (0, 0, 0)⟩) → c.slot.unfinished = none →
       let szf := sweepSzf o.ty.toNat
       let ql : Req := ⟨.ld, szf, 0, false, true⟩
       let qs : Req := ⟨.st, szf, 0, false, true⟩
       let ts := threadsIn c.single sw.act
       let n := recNat sw.record 40 4 * recNat sw.record 44 4 * recNat sw.record 48 4
       let two := sweepB (recNat sw.record 0 1)
       let strides := (c.strideAt t0 ql sw.record 16 sw.strides.1, c.strideAt t0 ql sw.record 24 sw.strides.2.1,
         c.strideAt t0 qs sw.record 32 sw.strides.2.2)
       let elems := (ts.zipIdx.filter fun x => decide (sw.step * ts.length + x.2 < n)).map fun x =>
         let ls := laneSet c.single x.1
         let e := sw.step * ts.length + x.2
         ({ thread := x.1, a := ⟨ls, sweepAddr sw.record 16 52 strides.1 e⟩
            b := if two then some ⟨ls, sweepAddr sw.record 24 60 strides.2.1 e⟩ else none
            d := ⟨ls, sweepAddr sw.record 32 68 strides.2.2 e⟩ } : Elem)
       let xs := elems.flatMap fun x => [(ql, x.a)] ++ (x.b.map fun b => (ql, b)).toList ++ [(qs, x.d)]
       let sw := { sw with strides := strides }
       let t1 := t0.keepSweep c (some sw)
       let t2 := c.promote t1 ((xs.flatMap fun x => c.pages t1 x.1 x.2).eraseDups)
       strides.1 ≠ 0 → (two = true → strides.2.1 ≠ 0) → strides.2.2 ≠ 0 →
       c.prechecks xs = none → c.watched t1 xs = none → c.missing t1 xs = [] →
       (∀ x ∈ xs, ∃ locs mt, c.reach t2 x.1 x.2 = .ok locs mt) →
       let y := elems.foldl (c.sweepElem sw ql qs) ⟨t2, [], 0, 0, none⟩
       (∀ bad, y.bad = some bad → exec (.vti o) s = .next (y.s.integrityCheck r bad)) ∧
       (y.bad = none →
         let t3 := (c.storeEach y.s y.stores).orStat c ((Instab.mk (threadsIn c.single y.held) [] []).stat y.flags)
         let now := { sw with held := sw.held ||| y.held }
         let next := { now with step := sw.step + 1 }
         let t4 := t3.keepSweep c (some now)
         if (sw.step + 1) * ts.length < n then
           exec (.vti o) s = .next (stayed (t4.keepSweep c (some next)) c .ready none 0 [])
         else
           let done := (t4.keepSweep c none).writeRegs c (sReg o.d.toNat 0)
           exec (.vti o) s = .next (if c.ctl.getLsbD 8 && next.held != 0 then
             done.takeTrap r c.iss.slot { kind := 1, sub := 1, code := 0, addr := 0, lanes := some next.held } c.pc c.nextPc
             else done))))

/-! ### Engines -/

/-- R323, R322, R248, R249, R99, R131, R411: CPY sends the request record at its scratchpad offset: the copy counter rises by
one, the handle, when one is named, is empty, and the request joins the end of its channel's queue with the record's place, the
issuer's formats and the key of its ordered updates; while the channel holds 16 the request waits at issue, the counter raised and the
handle empty and linked to it, and the instruction, which is not judged again, goes on when there is room: the request then joins the
queue. R324, R104, R325, R326: CPYWP reads WP of a request record, BINIT writes COUNT and clears STATUS of a byte barrier, BWAIT reads
its STATUS. A record out of place is an address fault that parks the slot, one with a line that fails its check ends the launch (R414),
a watched barrier stops the partition before it is written (R425). ACCESS 1 of BINIT's address fault is the model's reading (log entry
53), and so are the raised scope of a cox core's CPY (log entry 71) and that the request has its formats and key from its issue (log
entry 123). -/
def Obligations.Copies : Prop :=
  ∀ (s : State) (c : Ctx) (o : Op),
    let r := c.iss.unit
    let at_ := (c.s32 0).toNat
    let t := s.issued c
    let found (n wg off : Nat) : Prop := c.spRecord at_ n n = .ok (wg, off) ∧ t.badLine (spLocs r wg off n) = none
    let reads (i : Instr) (n : Nat) : Prop := Ready s i c →
      (∀ k, c.spRecord at_ n n = .error k → exec i s = .next (recordFault s c k 0 at_)) ∧
      ∀ wg off x, c.spRecord at_ n n = .ok (wg, off) → t.badLine (spLocs r wg off n) = some x →
        exec i s = .next (t.integrityCheck r x)
    let num (wg off n : Nat) : Nat := leNat (t.spBytes r wg off n)
    reads (.cpy o) 64 ∧ reads (.cpywp o) 64 ∧ reads (.bwait o) 16 ∧
    (∀ wg off, Ready s (.cpy o) c → found 64 wg off →
      let b := t.spBytes r wg off 64
      let u := t.modUnit r fun u => u.setScal { u.scal with cpy := u.scal.cpy + 1 }
      let v := if o.fn.toNat % 2 = 1 then u.modUnit r fun w => (w.markEmpty .h o.d.toNat (BitVec.allOnes 96)).mapTraps (unlinkTraps o.d.toNat)
        else u
      let chan := (b.getD 27 0).toNat % 32
      let room : Prop := v.channelLoad (v.clusterOf r) chan < 16
      ∃ q : CopyReq, q.id = v.nextId ∧ q.cluster = v.clusterOf r ∧ q.chan = chan ∧ q.unit = r ∧
        q.record = some (wg, off) ∧ q.scope = copyScope c.u.isCox b ∧ q.job = none ∧ q.cancel = false ∧
        q.handles = (if o.fn.toNat % 2 = 1 then [(r, o.d.toNat)] else []) ∧ q.round = c.u.scal.round.toNat ∧
        (q.kclass, q.issuer, q.icount) = c.copyKey ∧ (∀ x, c.u = .crew x → q.nf = x.nf) ∧
        (let w : State := { v with nextId := v.nextId + 1, eng := { v.eng with copies := v.eng.copies ++ [q] } }
         (room → q.phase = .queued ∧ exec (.cpy o) s = .next w) ∧
         (¬ room → q.phase = .waiting c.iss.slot ∧
           exec (.cpy o) s = .next (stayed w c (.blocked (.channel (v.clusterOf r) chan)) none 0 c.slot.walked)))) ∧
    (∀ wait, Waits s (.cpy o) c wait →
      (s.waitOver c.u c.slot wait = false → exec (.cpy o) s = .next (waitsOn s c wait)) ∧
      (s.waitOver c.u c.slot wait = true →
        let mine (q : CopyReq) : Bool := q.unit == r && q.phase == .waiting c.iss.slot
        exec (.cpy o) s = .next { t with eng := { t.eng with
          copies := t.eng.copies.filter (fun q => !(mine q)) ++ (t.eng.copies.filter mine).map fun q => { q with phase := .queued } } })) ∧
    (∀ wg off, Ready s (.cpywp o) c → found 64 wg off →
      exec (.cpywp o) s = .next (wrote s c (sPair o.d.toNat (BitVec.ofNat 64 (num wg (off + 40) 8))))) ∧
    (∀ k, Ready s (.binit o) c → c.spRecord at_ 16 16 = .error k → exec (.binit o) s = .next (recordFault s c k 1 at_)) ∧
    (∀ wg off, Ready s (.binit o) c → c.spRecord at_ 16 16 = .ok (wg, off) →
      let hit := t.watchSp r.ident r.gang wg ((List.range 16).map fun j => off + j) c.slot.skipWatch
      (hit = none → exec (.binit o) s = .next (t.spWrite r wg off (leBytes 8 (c.src 1 0).toNat ++ List.replicate 8 0))) ∧
      ∀ n addr, hit = some (n, addr) → exec (.binit o) s = .next (s.finish c (.watch n addr 127))) ∧
    (∀ wg off, Ready s (.bwait o) c → found 16 wg off →
      exec (.bwait o) s = .next (wrote s c (sReg o.d.toNat (BitVec.ofNat 32 (num wg (off + 8) 4)))))

/-- R328, R329, R332: TRIG.POST raises the network counter at issue and waits for what its release at domain scope orders, its
destination empty, and is not judged again; a record that fails a check then gives its lowest code with bit 31; a good one is posted,
armed, in one of the free slots, whose number is the result; its first test against the counter is made at once. The result is left to
a producer, whose write lowers the counter. Cancelling gives 3 for a slot number out of range, 2 for a free slot or another address
space's, 0 for an armed operation, which is freed, and 1 otherwise: a failed one is freed, and one that is transferring goes on to its
last waiting firing (the model's reading, log entry 84). R333, R334, R36: reading a slot gives the counter's target and the state and
firings, at once; reading a counter is a load that acquires, with its two registers empty until it returns; a number out of range gives
all ones. TRIG.ADD sends a raise to the trigger unit of this package or of the one that it names, or parks on an address fault for a
malformed or foreign name, whose ACCESS is the model's reading (log entry 53). The record is read when the release has been made (log
entry 124). -/
def Obligations.PostedOperations : Prop :=
  -- The record at an offset is posted in a state `v`, or its code answered.
  let posts (s : State) (c : Ctx) (o : Op) (wg off : Nat) (v : State) : Prop :=
    let b := v.spBytes c.iss.unit wg off 64
    let answers (t : State) (k : Nat) : Prop :=
      exec (.trigPost o) s = .next (t.produce c false (sReg o.d.toNat (BitVec.ofNat 32 k)) true)
    (∀ k, v.postCode b = some k → answers v (2 ^ 31 + k)) ∧
    (v.postCode b = none → ∃ slot, slot < 16384 ∧ v.post? slot = none ∧
      let p := postOf slot c.iss.unit.ident c.lr.asid b
      answers { v with free := v.free + 1, eng := { v.eng with posts := p.test (tget 0 v.ctrs p.ctr) :: v.eng.posts } } slot)
  (∀ (s : State) (c : Ctx) (o : Op), Ready s (.trigPost o) c →
     let r := c.iss.unit
     let t := s.issued c
     let at_ := (c.s32 0).toNat
     (∀ k, c.spRecord at_ 64 64 = .error k → exec (.trigPost o) s = .next (recordFault s c k 0 at_)) ∧
     (∀ wg off, c.spRecord at_ 64 64 = .ok (wg, off) →
       (∀ x, t.badLine (spLocs r wg off 64) = some x → exec (.trigPost o) s = .next (t.integrityCheck r x)) ∧
       (t.badLine (spLocs r wg off 64) = none →
         let u := t.modUnit r fun u => u.setScal { u.scal with net := u.scal.net + 1 }
         (u.released c.u = true → posts s c o wg off u) ∧
         (u.released c.u = false → exec (.trigPost o) s = .next (stayed
           (u.modUnit r fun w => w.markEmpty .s o.d.toNat (BitVec.allOnes 96)) c (.blocked (.posting wg off)) none 0 c.slot.walked))))) ∧
  (∀ (s : State) (c : Ctx) (o : Op) (wait : Wait), Waits s (.trigPost o) c wait →
     let r := c.iss.unit
     let t := s.issued c
     (s.waitOver c.u c.slot wait = false → exec (.trigPost o) s = .next (waitsOn s c wait)) ∧
     (∀ wg off, wait = .posting wg off → s.waitOver c.u c.slot wait = true →
       (∀ x, t.badLine (spLocs r wg off 64) = some x → exec (.trigPost o) s = .next (t.integrityCheck r x)) ∧
       (t.badLine (spLocs r wg off 64) = none → posts s c o wg off t))) ∧
  (∀ (s : State) (c : Ctx) (o : Op),
     let t := s.issued c
     let gives (v : Word) (t : State) : State := t.writeRegs c (sReg o.d.toNat v)
     let a := (c.s32 0).toNat
     Ready s (.trigCancel o) c →
       (16384 ≤ a → exec (.trigCancel o) s = .next (gives 3 t)) ∧
       (a < 16384 → (t.post? a = none ∨ ∃ p, t.post? a = some p ∧ p.asid ≠ c.lr.asid) → exec (.trigCancel o) s = .next (gives 2 t)) ∧
       (∀ p, a < 16384 → t.post? a = some p → p.asid = c.lr.asid →
         (p.state = .armed → exec (.trigCancel o) s = .next (gives 0 (t.freePost a))) ∧
         (p.state = .failed → exec (.trigCancel o) s = .next (gives 1 (t.freePost a))) ∧
         (p.state ≠ .armed → p.state ≠ .failed →
           exec (.trigCancel o) s = .next (gives 1 (t.setPost { p with closing := true }))))) ∧
  (∀ (s : State) (c : Ctx) (o : Op),
     let r := c.iss.unit
     let t := s.issued c
     let a := (c.s32 0).toNat
     let pair (lo hi : Word) : State := wrote s c [⟨.s, o.d.toNat, 0, lo⟩, ⟨.s, o.d.toNat + 1, 0, hi⟩]
     (Ready s (.trigRead o) c → o.fn.toNat % 2 = 1 →
       (16384 ≤ a → exec (.trigRead o) s = .next (pair 0xFFFFFFFF 0xFFFFFFFF)) ∧
       (a < 16384 → t.post? a = none → exec (.trigRead o) s = .next (pair 0 0)) ∧
       (∀ p, a < 16384 → t.post? a = some p → exec (.trigRead o) s = .next (if p.asid ≠ c.lr.asid then pair 0xFFFFFFFF 0
         else pair p.h (BitVec.ofNat 32 (p.state.code + 2 ^ 16 * p.firings.toNat))))) ∧
     (Ready s (.trigRead o) c → o.fn.toNat % 2 = 0 →
       (4096 ≤ a → exec (.trigRead o) s = .next (pair 0xFFFFFFFF 0xFFFFFFFF)) ∧
       (a < 4096 →
         let v := t.modUnit r fun u => (u.markEmpty .s o.d.toNat (BitVec.allOnes 96)).markEmpty .s (o.d.toNat + 1) (BitVec.allOnes 96)
         ∃ op : LoadOp, op.id = t.nextId ∧ op.unit = r ∧ op.reg = o.d.toNat ∧ op.vdata = false ∧ op.lanes = [] ∧ op.szf = 6 ∧
           op.form = .one ∧ op.locs = List.replicate 8 (.ctr a) ∧ op.acquire = true ∧ op.wide = true ∧ op.port = none ∧
           op.got = List.replicate 8 none ∧ op.fail = none ∧ op.alloc = [] ∧
           exec (.trigRead o) s = .next { v with nextId := t.nextId + 1, flight := { v.flight with loads := v.flight.loads ++ [op] } })) ∧
     (let pkg := bits a 16 8
      let rel := decide (8 ≤ o.fn.toNat % 16)
      let malformed : Prop := bits a 12 4 ≠ 0 ∨ bits a 24 8 ≠ 0
      let parks (kind : Nat) : Prop := exec (.trigAdd o) s = .next (stayed
        (t.postUnitFault c (t.unitFault c 2 kind 1 0 noLanes false false true)) c (.parked true 9 []) (some c.act) 9 [])
      let stored (locs : List Loc) (x : Option (Nat × List Word × Bool)) (far : Bool) : State := { t with
        nextId := t.nextId + 1
        flight := { t.flight with stores := t.flight.stores ++ [⟨t.nextId, r, t.cacheOf r, locs, [], x, far, none, [], Rank.plain⟩] } }
      Ready s (.trigAdd o) c →
        (malformed → parks 8) ∧ (¬ malformed → t.inDomain pkg = false → parks 7) ∧
        (¬ malformed → t.inDomain pkg = true →
          (pkg = t.pkg → exec (.trigAdd o) s = .next (stored [.ctr (bits a 0 12)] (some (bits a 0 12, [c.s32 1], rel)) false)) ∧
          (pkg ≠ t.pkg →
            let (key, u) := (stored [] none true).runStream r
            exec (.trigAdd o) s = .next (u.sendPacket key pkg 48 (.increment (bits a 0 12) (c.s32 1) rel) (.store t.nextId))))))

/-- R336, R248, R249: entering a core's matrix queue: the issuer's counter of the operation's class rises by one, its handle,
when the instruction names one, is empty, the operation stands last in the queue with the code of a failed check, and nothing
is read or written yet. R339, R343 to R347: MLDA, MMA and MZERO enter their core's queue with the lowest code of the checks
that fail, 0 when none does; MMA reads its key block at issue; MSTAT leaves the queue's length, the slots to reload, the slices
and the last error to a producer. R339, R340, R342, R346: MLDB and MDRAIN with rows in the scratchpad, or with a check that fails,
enter the queue with the lowest code; with rows in global memory they wait for the walks of pages not known yet; of the pages, all
known, the first that stops them decides: a page fault is recorded and parks the slot, trigger counters or no storage give code 9;
with none they enter the queue with the frames of those pages. That a failed check enters the queue before any translation, and that the
first page which stops them decides, is the model's reading (log entry 24). -/
def Obligations.MatrixInstructions : Prop :=
  (∀ (t : State) (c : Ctx) (u : UnitSt) (code : Nat) (kind : MatKind), t.unit? c.iss.unit = some u →
     let r := c.iss.unit
     let t' := c.enqueue t code kind
     let cl := t.clusterOf r
     let co := t.coreOf r.ident r.gang c.matWg
     let hnd := c.fn.testBit 2
     (t'.matrix cl co).queue = (t.matrix cl co).queue ++ [⟨t.nextId, r, c.matWg, if hnd then [(r, c.d)] else [], code, false, kind⟩] ∧
     (t'.matrix cl co).macros = (t.matrix cl co).macros ∧ (t'.matrix cl co).rows = (t.matrix cl co).rows ∧
     (∀ k m, (k, m) ≠ (cl, co) → t'.matrix k m = t.matrix k m) ∧
     (t'.unit? r).map (fun v => v.scal.counter kind.cls) = some ((u.scal.raise kind.cls).counter kind.cls) ∧
     (hnd = true → c.d < 16 → (t'.unit? r).map (fun v => v.isFull .h c.d (BitVec.allOnes 96)) = some false) ∧
     t'.mem = t.mem ∧ t'.wgs = t.wgs ∧ t'.nextId = t.nextId + 1 ∧ t'.flight = t.flight) ∧
  (∀ (s : State) (c : Ctx) (o : Op),
     let t := s.issued c
     let enq (i : Instr) (cs : List (Prop × Nat)) (kind : MatKind) : Prop := Ready s i c →
       ∃ code, Lowest cs code ∧ exec i s = .next (c.enqueue t code kind)
     let a := (c.s32 0).toNat
     let tileBad (x : Nat) : Prop := x % 65536 ≠ 0 ∨ c.lr.accSize < x + c.lr.tileBytes
     let key (k : Nat) : Nat := (c.u.scal.sget (o.sa.toNat + k)).toNat
     let stride := (c.s32 1).toNat
     enq (.mlda o) [(a % 2 ≠ 0 ∨ stride % 2 ≠ 0 ∨ c.lr.spSize < a + 63 * stride + 512, 3), (2 ≤ (c.s32 2).toNat, 17)]
       (.mlda ((c.s32 2).toNat % 2) a stride) ∧
     enq (.mma o) [(bits (c.s32 1).toNat 4 12 ≠ 0, 1), (tileBad (key 0), 16)] (.mma (key 0) (key 1) (key 2) (key 3) (c.s32 1)) ∧
     enq (.mzero o) [(tileBad a, 16)] (.mzero a) ∧
     (Ready s (.mstat o) c → ∃ v : Word, exec (.mstat o) s = .next (t.produce c false (sReg o.d.toNat v)) ∧
       let m := t.matrix (t.clusterOf c.iss.unit) (t.coreOf c.iss.unit.ident c.iss.unit.gang c.matWg)
       (m.queue.length < 16 → m.slices0 < 16 → m.slices1 < 16 →
         bits v.toNat 28 4 = m.queue.length ∧ bits v.toNat 8 4 = m.slices0 ∧ bits v.toNat 12 4 = m.slices1 ∧
         bits v.toNat 0 8 = m.lastErr.toNat ∧ ∀ k, k < 8 → (v.getLsbD (16 + k) = true ↔ ∃ x ∈ m.reload, x.slot = k)))) ∧
  (∀ (s : State) (c : Ctx) (o : Op),
     let t := s.issued c
     let rows (i : Instr) (a stride n bytes al : Nat) (write : Bool) (codes : List (Bool × Nat)) (kind : List (Nat × Nat) → MatKind) : Prop :=
       let code := lowestCode (codes ++ c.rowCodes a stride n bytes al)
       let pages := rowPages a stride n bytes
       let t' := c.promote t (pages.map Prod.fst)
       Ready s i c →
         (code ≠ 0 ∨ aperture a ≠ .global → exec i s = .next (c.enqueue t code (kind []))) ∧
         (code = 0 → aperture a = .global →
           let miss := (pages.map Prod.fst).filter fun p => (c.pageOf t (p * 2 ^ 16)).isNone
           let stop := pages.findSome? (c.pageStop t' write)
           (miss ≠ [] → exec i s = .next (stayed (miss.foldl (fun t p => t.askWalk c.iss.unit c.lr.asid p) t) c
             (.blocked (.walk 9 c.lr.asid miss)) (some c.act) 9 c.slot.walked)) ∧
           (∀ p cause, miss = [] → stop = some (p, some cause) → exec i s = .next (stayed
             (t'.postUnitFault c (t'.unitFault c 0 cause (if write then 1 else 0) p.2 noLanes false false false)) c
             (.parked false 9 [p.1]) (some c.act) 9 [])) ∧
           (∀ p, miss = [] → stop = some (p, none) → exec i s = .next (c.enqueue t' 9 (kind []))) ∧
           (miss = [] → stop = none → exec i s = .next (c.enqueue t' 0 (kind (c.pageFrames t' pages)))))
     rows (.mldb o) (c.src 0 0).toNat (c.s32 1).toNat 256 512 2 false [(decide (8 ≤ (c.s32 2).toNat), 17)]
       (.mldb ((c.s32 2).toNat % 8) (c.src 0 0) (c.s32 1).toNat (o.fn.getLsbD 3)) ∧
     (let fmt := bits o.fn.toNat 3 2
      rows (.mdrain o) (c.src 1 0).toNat (c.s32 2).toNat 64 (256 * (if fmt = 0 then 12 else if fmt = 3 then 2 else 4))
       (if fmt = 3 then 2 else 4) true [(badTile c.lr (c.s32 0).toNat, 16)]
       (.mdrain (c.s32 0).toNat (c.src 1 0) (c.s32 2).toNat fmt)))

/-- R339, R348, R349, R351, R352, R358, R362, R363: the vocabulary instructions enter their core's queue: a descriptor out of place
with code 3, one with a line that fails its check with code 7, otherwise the descriptor's bytes as they stand, with the lowest code of
the checks that fail, 0 when none does. Records that do not fit, with no spill area, take the heap-spill trap with the rows that fit,
and nothing is queued. R365: VHEAPRD reads a row record: a cox core the entry or header word of its index, each acting lane of a
crew that of its index plus its thread; an index past the entries gives −∞ and no token, past the header 0. The registers are left
to a producer. A record out of place is an address fault that parks the slot, one with a line that fails its check ends the launch;
with no lane acting nothing is read. That codes 1, 16 and 17 come before the heap-spill trap and 3, 4 and 15 after it is log entry 31, the
alignment of dW as code 4 log entry 30, and the kind and ADDR of VHEAPRD's fault log entry 52: these are the model's readings. -/
def Obligations.VocabularyInstructions : Prop :=
  (∀ (s : State) (c : Ctx) (o : Op),
     let r := c.iss.unit
     let t := s.issued c
     let off := (c.s32 0).toNat
     let b := t.spBytes r c.matWg off 128
     let d := VDesc.of b
     let issue (i : Instr) (regen : Bool) : Prop := Ready s i c →
       let place : Prop := off % 64 = 0 ∧ off + 128 ≤ c.lr.spSize
       let queues (t : State) (desc : List Byte) (code : Nat) : Prop := ∃ j : VocabJob, j.regen = regen ∧ j.off = off ∧ j.desc = desc ∧
         j.tile = (VDesc.of desc).tile ∧ j.started = false ∧ j.round = c.u.scal.round.toNat ∧
         (∀ x, c.u = .cox x → j.icount = x.icount.toNat) ∧ exec i s = .next ((c.enqueue t code (.vocab j)).kickFor c)
       let first : List (Prop × Nat) := [(vocabReserved regen b = true, 1), (d.outOfRange regen = true, 17), (d.accBad c.lr regen = true, 16)]
       let rest : List (Prop × Nat) := [(d.spBad c.lr regen = true, 3),
         (regen = true ∧ d.dwBase ≠ 0 ∧ (d.dwBase % 4 ≠ 0 ∨ d.dwStride % 4 ≠ 0), 4)]
       let fit := fitCount (recordPlaces d c.lr)
       let tooMany : Prop := regen = false ∧ fit < d.rows
       let spills : Prop := (∀ x ∈ first, ¬ x.1) ∧ tooMany
       (¬ place → queues t [] 3) ∧
       (∀ x, place → t.poolCheck r c.matWg false off 128 = some x → queues (t.integrityRecord r.ident (t.source r) x) [] 7) ∧
       (place → t.poolCheck r c.matWg false off 128 = none →
         (spills → d.spill = 0xFFFFFFFF →
           exec i s = .next (trapAt s c { kind := 8, sub := 0, code := BitVec.ofNat 32 fit, addr := 0, lanes := none })) ∧
         (¬ (spills ∧ d.spill = 0xFFFFFFFF) → ∃ code, queues t b code ∧
           Lowest (first ++ rest ++ [(tooMany ∧ d.spill ≠ 0xFFFFFFFF ∧
             (d.spill % 64 ≠ 0 ∨ c.lr.spSize < d.spill + (d.rows - fit) * (64 + 8 * d.k)), 3)]) code))
     issue (.vocabStream o) false ∧ issue (.vocabRegen o) true ∧
     (Ready s (.vmeld o) c → exec (.vmeld o) s = .next
       (c.enqueue t 0 (.meld (c.s32 0) (c.s32 1) (c.s32 2).toNat (o.fn.getLsbD 3))))) ∧
  (∀ (s : State) (c : Ctx) (o : Op), Ready s (.vheaprd o) c →
     let r := c.iss.unit
     let t := s.issued c
     (c.act = 0 → exec (.vheaprd o) s = .next t) ∧
     (∀ k, c.act ≠ 0 → t.recRun r (wgOf r) (c.s32 0) 1 = .error k → exec (.vheaprd o) s = .next (stayed
       (t.postUnitFault c (t.unitFault c 2 (if k ≠ 1 ∧ (c.s32 0).toNat % 64 ≠ 0 then 3 else 4) 0 (c.s32 0).toNat noLanes false false true))
       c (.parked true 9 []) (some c.act) 9 [])) ∧
     (∀ k (p : Bool × Nat × Nat), c.act ≠ 0 → t.recRun r (wgOf r) (c.s32 0) 1 = .ok (k, p) →
       (∀ x, t.poolCheck r p.2.1 p.1 p.2.2 (64 + 8 * k) = some x → exec (.vheaprd o) s = .next (t.integrityCheck r x)) ∧
       (t.poolCheck r p.2.1 p.1 p.2.2 (64 + 8 * k) = none →
         let b := t.recBytes r p 0 (64 + 8 * k)
         let e (x : Nat) : Nat := (c.s32 1).toNat + x
         let filled (x : Nat) : Prop := e x < fldAt b 53 1 ∧ 72 + 8 * e x ≤ b.length
         let lo (x : Nat) : Word := if o.fn.getLsbD 0 then (if e x < 16 then BitVec.ofNat 32 (fldAt b (4 * e x) 4) else 0)
           else if filled x then BitVec.ofNat 32 (fldAt b (64 + 8 * e x) 4) else 0xFF800000
         let hi (x : Nat) : Word := if o.fn.getLsbD 0 then 0
           else if filled x then BitVec.ofNat 32 (fldAt b (68 + 8 * e x) 4) else 0xFFFFFFFF
         exec (.vheaprd o) s = .next (t.produce c false (if c.u.isCox then
             [⟨.s, o.d.toNat, 0, lo 0⟩, ⟨.s, o.d.toNat + 1, 0, hi 0⟩]
           else (lanesOf c.act).flatMap fun l =>
             let x := if c.single then l else l / 3
             [⟨.v, o.d.toNat, l, lo x⟩, ⟨.v, o.d.toNat + 1, l, hi x⟩])))))

/-! ### Events of operations in flight -/

/-- R170, R301, R307, R312, R329, R414: a load that returns, a producer and a limb instruction that lands fill their registers and
mark them full. A returning load reads the bytes that it has not read before, leaves memory as it was unless a line with dirty private
bytes gives way, and the last access of an acquire of its unit at gang scope or wider leaves its core no global line (R91, R122, R123);
what a scratchpad pass reads for a thread whose lanes share one value goes to the thread's other pass (R32, R33, R87); one with a line
that fails its check ends the launch instead. A producer of TRIG.POST lowers the network counter. Limb instructions land in an order
that their latencies allow. -/
def Obligations.RegistersFill : Prop :=
  (∀ (s : State) (o : LoadOp),
    (s.flight.loads.find? fun x => x.id == o.id && (x.lanes.head?).getD 0 == (o.lanes.head?).getD 0) = some o →
    s.loadReady o = true →
    let lane := (o.lanes.head?).getD 0
    let rest := s.flight.loads.filter fun x => x.id != o.id
    let bad := o.fail.or (s.badLine o.missing)
    (∀ x, bad = some x → exec (.loadReturn o.id lane) s =
      .next (({ s.passTaken o.port with flight := { s.flight with loads := rest } } : State).integrityCheck o.unit x)) ∧
    (∀ u, bad = none → s.unit? o.unit = some u →
      let bytes := (o.locs.zip o.got).zipIdx.map fun x => x.1.2.getD (s.rdLoc x.1.1 x.2)
      ∃ t, exec (.loadReturn o.id lane) s = .next t ∧
        t.unit? o.unit = some (u.fills (dataWrites o.vdata o.reg o.szf o.lanes fun k l => o.form.load o.szf bytes k l)) ∧
        t.flight.loads.map LoadOp.id = rest.map LoadOp.id ∧ t.wgs = s.wgs ∧ t.ctrs = s.ctrs ∧
        (o.tied = true → o.alloc = [] → ∀ x ∈ rest, x.tied = true → x.port ≠ none → x.unit = o.unit → x.reg = o.reg →
          let n := max 1 (x.locs.length / max 1 x.lanes.length)
          let m := o.locs.length / max 1 o.lanes.length
          ∃ y ∈ t.flight.loads, y.id = x.id ∧ ∀ p l j, x.got[p]? = some none → x.lanes[p / n]? = some l →
            o.lanes.findIdx? (fun k => k / 3 == l / 3) = some j → y.got[p]? = some bytes[j * m + p % n]?) ∧
        (o.wide = true → (∀ x ∈ rest, ¬ (x.unit = o.unit ∧ x.wide = true)) → u.acquiring = false →
          (∀ x ∈ s.flight.atomics, ¬ (x.unit = o.unit ∧ x.wide = true)) → ∀ l ∈ t.caches.l1, l.cache = o.cache → l.priv = true) ∧
        ((∀ l ∈ s.caches.l1, l.dirty = 0) → t.mem = s.mem))) ∧
  (∀ (s : State) (o : Producer) (u : UnitSt) (lane : Nat), (s.flight.producers.find? fun x => x.id == o.id) = some o →
    (∃ w ∈ o.writes, w.lane = lane) → s.unit? o.unit = some u →
    ∃ t, exec (.producerFill o.id lane) s = .next t ∧ t.mem = s.mem ∧
      (let v := u.fills (o.writes.filter fun w => w.lane == lane)
       t.unit? o.unit = some (if o.net then v.setScal { v.scal with net := v.scal.net - 1 } else v)) ∧
      (∀ x ∈ t.flight.producers, x.id = o.id → ∀ w ∈ x.writes, w.lane ≠ lane)) ∧
  (∀ (s : State) (o : LimbOp) (x y : Crew), (s.flight.limbs.find? fun z => z.id == o.id) = some o →
    (∀ z ∈ s.flight.limbs, z.unit = o.unit → z.id < o.id → z.slow = true ∧ o.slow = false) → s.unit? o.unit = some (.crew x) →
    (UnitSt.crew x).fills o.writes = .crew y →
    ∃ t z, exec (.limbLanding o.id) s = .next t ∧ t.mem = s.mem ∧ t.unit? o.unit = some (.crew z) ∧ z.v = y.v ∧ z.vEmpty = y.vEmpty ∧
      z.p = y.p ∧ z.pEmpty = y.pEmpty ∧ (o.outs = [] → z.limbCarry = x.limbCarry ∧ z.limbChi = x.limbChi) ∧
      (∀ k b, o.outs = [(k, b)] → z.limbCarry = (if k < 24 then setBit x.limbCarry k b else x.limbCarry) ∧
        z.limbChi = (x.limbChi || (decide (24 ≤ k) && b))))

/-- R88, R90, R92, R139: a store of this package that its slice accepts leaves the issuer's count, changes exactly its bytes, and leaves
its line the place that the store's policy gives it; a pass that
its scratchpad serves writes its bytes in the order of its lanes, so that the last at an address stays; an ordered update takes a
holding place, or with sixteen held the lowest free entry of its launch's overflow area. R117, R134, R316, R406: a raise adds the
values of its lanes to the counter, modulo 2^32, with nothing between, and to no other; the lanes of an atomic are performed where they
lie, in their order with nothing between, each old value returns to the lanes that asked, and memory outside the element stays; a
scratchpad pass of one leaves the places where its instruction has more to do held against other writes; one that lies on another
package is sent there; one with a line that fails its check ends the launch (R414). -/
def Obligations.StoresAndRaisesLand : Prop :=
  ((∀ (s : State) (o : StoreOp), (s.flight.stores.find? fun x => x.id == o.id && x.raise.isNone) = some o → s.storeReady o = true →
     (∀ b ∈ o.spBytes, ∃ i g w off, b.1 = .sp i g w off) →
     ∃ t, exec (.storeAck o.id) s = .next t ∧ (∀ x ∈ t.flight.stores, x.id ≠ o.id) ∧
       (∀ a, (∀ b ∈ o.bytes, b.1 ≠ a) → tget 0 t.mem a = tget 0 s.mem a) ∧
       (memoryInv s → (o.bytes.map Prod.fst).Nodup → ∀ b ∈ o.bytes, tget 0 t.mem b.1 = b.2) ∧
       (∀ b, o.bytes = [b] → s.sliced b.1 = true → (t.l2Find (b.1 / 64)).map L2Line.rank =
         some (if o.rank.always then o.rank.rank else ((s.l2Find (b.1 / 64)).map L2Line.rank).getD o.rank.rank)) ∧
       (o.spBytes = [] → t.wgs = s.wgs) ∧
       (∀ i g w x, s.wg? i g w = some x → ∃ y, t.wg? i g w = some y ∧ y.acc = x.acc ∧ (twf 0 x.sp = true → ∀ off,
         tget 0 y.sp off = ((o.spBytes.reverse.find? fun b => b.1 == .sp i g w off).map Prod.snd).getD (tget 0 x.sp off))) ∧
       (∀ p, o.port = some p → twf 0 s.caches.turns = true → tget 0 t.caches.turns (p / 6) = p % 6) ∧
       t.crews = s.crews ∧ t.coxes = s.coxes ∧ t.ctrs = s.ctrs ∧ t.caches.l1 = s.caches.l1) ∧
   (∀ (s : State) (u : OUpdate) (l : Launch),
     (s.flight.updates.find? fun x => x.id == u.id && x.place == .sent && !x.remote) = some u →
     s.launch? u.unit.ident = some l →
     let others := s.flight.updates.filter fun x => x.id != u.id
     let held := (others.filter fun x => x.slice == u.slice && x.place == .held && !x.remote).length
     let e := nthFree l.ovfUsed 0
     (held < 16 → ∃ t, exec (.oatomUpdateAccept u.id) s = .next t ∧ t.mem = s.mem ∧ t.crews = s.crews ∧
       t.flight.updates = others ++ [{ u with place := .held, remote := false, copy := none }]) ∧
     (16 ≤ held → e < l.lr.ovfCnt → ∃ t, exec (.oatomUpdateAccept u.id) s = .next t ∧ t.crews = s.crews ∧
       t.flight.updates = others ++ [{ u with place := .spilled e, remote := false, copy := none }] ∧
       (∀ a, a < l.lr.ovfEntry e ∨ l.lr.ovfEntry e + 64 ≤ a → tget 0 t.mem a = tget 0 s.mem a) ∧
       (memoryInv s → t.rdMem (l.lr.ovfEntry e) 64 = u.entry)))) ∧
  ((∀ (s : State) (o : StoreOp) (idx : Nat) (vs : List Word) (b : Bool), twf 0 s.ctrs = true →
     (s.flight.stores.find? fun x => x.id == o.id) = some o → o.raise = some (idx, vs, b) → s.storeReady o = true →
     ∃ t, exec (.triggerRaise o.id) s = .next t ∧ t.mem = s.mem ∧ t.crews = s.crews ∧ (∀ x ∈ t.flight.stores, x.id ≠ o.id) ∧
       (∀ n, tget 0 t.ctrs n = if n = idx then vs.foldl (· + ·) (tget 0 s.ctrs idx) else tget 0 s.ctrs n)) ∧
   (∀ (s : State) (r : Raise), twf 0 s.ctrs = true → (∀ o ∈ s.flight.stores, o.id ≠ r.id) → s.eng.raises.head? = some r →
     ∃ t, exec (.triggerRaise r.id) s = .next t ∧ t.mem = s.mem ∧ t.crews = s.crews ∧ (∀ x ∈ t.eng.raises, x.id ≠ r.id) ∧
       (∀ n, tget 0 t.ctrs n = if n = r.idx then tget 0 s.ctrs r.idx + r.v else tget 0 s.ctrs n)) ∧
   (∀ (s : State) (o : AtomOp), (s.flight.atomics.find? fun x => x.id == o.id) = some o →
     s.writeReady o.cache o.id o.port o.locs = true → s.atomSent o.id = false →
     let rest := s.flight.atomics.filter fun x => x.id != o.id
     let s1 : State := { s.passTaken o.port with flight := { s.flight with atomics := rest } }
     (∀ pa, s.atomFar o = some pa → exec (.atomicPerform o.id) s = .next (s.sendAtom o pa)) ∧
     (∀ x, s.atomFar o = none → s.badLine o.locs = some x → exec (.atomicPerform o.id) s = .next (s1.integrityCheck o.unit x)) ∧
     (∀ u, s.atomFar o = none → s.badLine o.locs = none → s.unit? o.unit = some u →
       let z := o.lanes.foldl (fun (x : List RegWrite × State) a =>
         let r := x.2.atomAt a.loc ⟨o.aop, o.szf, a.operand, a.compare, a.dir⟩
         (x.1 ++ dataWrites o.vdata o.reg o.szf (if o.vdata then a.dests else []) (fun _ _ => BitVec.ofNat 64 r.1), r.2)) ([], s1)
       ∃ t, exec (.atomicPerform o.id) s = .next t ∧ (o.port = none → t.flight.atomics = rest) ∧
         t.flight.atomics.map AtomOp.lanes = rest.map AtomOp.lanes ∧ t.flight.atomics.map AtomOp.id = rest.map AtomOp.id ∧
         (o.port ≠ none → ∀ (k : Nat) x y, rest[k]? = some x → t.flight.atomics[k]? = some y → ∀ l, l ∈ y.held ↔
           l ∈ x.held ∨ (x.batch = o.batch ∧ l ∈ o.locs ∧ l ∈ x.locs)) ∧
         t.mem = z.2.mem ∧ t.wgs = z.2.wgs ∧ t.ctrs = z.2.ctrs ∧
         (∀ x, (∀ a ∈ o.lanes, ∀ pa, a.loc = .mem pa → x < pa ∨ pa + szfSize o.szf ≤ x) → tget 0 t.mem x = tget 0 s.mem x) ∧
         t.unit? o.unit = some (if o.ret then u.fills z.1 else u) ∧
         (o.wide = true → (∀ x ∈ s.flight.loads, ¬ (x.unit = o.unit ∧ x.wide = true)) → u.acquiring = false →
           (∀ x ∈ rest, ¬ (x.unit = o.unit ∧ x.wide = true)) → ∀ l ∈ t.caches.l1, l.cache = o.cache → l.priv = true))))

/-! ### Events of fetch and translation -/

/-- R54, R69, R70, R71: a fetched block whose page translates with X to memory is held by its slot, with the bytes of the
instruction cache's line or, without one, of memory; a needed block whose translation fails parks the slot. A walk that ends is no
longer outstanding. An invalidation starts, and marks the block that each slot issues from in its range, or is dropped while another
runs; when what it waits for is done no TLB, no walk cache and no instruction cache holds an entry of the range, a slot keeps no block
of it but a marked one, and an address space that it covers whole has the ROOT of its register (R50). -/
def Obligations.FetchAndInvalidation : Prop :=
  (∀ (s s1 : State) (u : UnitSt) (k : Nat) (r : UnitRef) (block : DWord),
    s.unit? r = some u → k ∈ u.slots → s.placed u = true → s.live u k = true → (u.slot k).lacks = true → block = blockBase (u.slot k).pc →
    aperture block.toNat = .global →
    let asid := (s.lrec r.ident).asid
    let looked (x : WalkResult) : Prop := s.translate (s.asker r) (s.tlbsOf r) (s.clusterOf r / 12) asid block.toNat = (x, s1)
    (∀ (cause : Nat), looked (.fault cause) → exec (.fetchBlockArrive r k block) s = .next (s1.fetchFault u k 1 cause)) ∧
    (∀ (frame mt level : Nat) (sf w : Bool), looked (.ok frame mt sf w false level) →
      exec (.fetchBlockArrive r k block) s = .next (s1.fetchFault u k 1 3)) ∧
    (∀ (frame mt level : Nat) (sf w : Bool), looked (.ok frame mt sf w true level) →
      let pa := onPage frame block.toNat
      let held := s1.ilFind (s1.cacheOf r) asid (block.toNat / 64)
      let s2 := match held with
        | some _ => s1
        | none => (s1.reachL2 asid (s1.clusterOf r) block.toNat pa Rank.plain).askLines [.mem pa]
      let refused : Prop := mt = 2 ∨ targetOf (paLocal pa) = .trigger ∨ s1.backed pa = false
      (refused → exec (.fetchBlockArrive r k block) s = .next (s1.fetchFault u k 2 7)) ∧
      (¬ refused → (held = none → s2.lineBad pa = false) → (∀ x, held = some x → x.bad = false) →
        ∃ t v, exec (.fetchBlockArrive r k block) s = .next t ∧ t.unit? r = some v ∧ t.mem = s2.mem ∧
          (v.slot k).block? block = some ⟨block, ((match held with
            | some l => l.data
            | none => s2.rdMem (pa / 64 * 64) 64).drop (block.toNat % 64)).take 32, false⟩))) ∧
  (∀ (s : State) (w : WalkReq), (s.caches.walks.find? fun x => x.id == w.id) = some w →
    ∃ t, exec (.pageWalkComplete w.id) s = .next t ∧ w ∉ t.caches.walks ∧
      (∀ x ∈ t.caches.walks, x ∈ s.caches.walks)) ∧
  (∀ (s : State) (count : Word),
    let put (mode n : Nat) : State :=
      let v : Invalidation := ⟨mode, bits s.xlat.invAddr.toNat 56 6, bits s.xlat.invAddr.toNat 16 40, if n = 0 then 2 ^ 32 else n⟩
      match s.xlat.invBusy with
      | some _ => { s with xlat := { s.xlat with invDropped := true } }
      | none => { s.markBlocks v with xlat := { s.xlat with invBusy := some v } }
    exec (.invalidateRange count) s = .next (put 0 count.toNat) ∧ exec .invalidateAsid s = .next (put 1 0) ∧
    exec .invalidateAll s = .next (put 2 0)) ∧
  (∀ (s : State) (v : Invalidation), s.xlat.invBusy = some v → s.invQuiet v = true →
    let flushed := s.flushRange v
    let leaving := flushed.fab.out.any fun o => o.origin == .priv
    (leaving = true → exec .invalidationDone s = .next flushed) ∧
    (leaving = false → ∃ t, exec .invalidationDone s = .next t ∧ t.xlat.invBusy = none ∧
      (∀ e ∈ t.caches.tlb, e.hit v = false) ∧ (∀ e ∈ t.caches.walkCache, e.hit v = false) ∧ (∀ e ∈ t.caches.il, e.hit v = false) ∧
      (∀ c ∈ t.crews, ∀ k, k < 2 → ∀ b ∈ (c.slot k).blocks,
        v.covers (t.lrec c.ident).asid b.base.toNat (b.base.toNat + 32) = true → b.kept = true) ∧
      (∀ asid, asid < 64 → v.mode = 1 ∧ asid = v.asid ∨ 2 ≤ v.mode →
        let ctx := (tget 0 s.xlat.asctx (4 * asid)).toNat
        ctx.testBit 0 = true → t.rootOf asid = bits ctx 12 40 * 2 ^ 12)))

/-- R61 to R66, R72 to R76: a held record stands in its ring's place once its ring has room; a replay makes ready each slot that it
selects and that waits on a replayable fault; a cancel ends its launch, and a bad command only sets BADCMD; a migration comes to a
state of R73, with MIG set in the entry while it runs. When what it waits for is done its invalidation drops the page, and its frame's
bytes are moved, here with good check values, to another package as packets line by line; a line that fails its check stops it there
with MIG cleared and LINE, and at its end the entry names the new frame, with MIG cleared and PIN as the thrash detector says, unless
it was changed meanwhile. A pin is gone once its hold has elapsed, PIN cleared in the entry and the event written. That UNIT values 5 to
7 are bad is log entry 74, that a command acts within one step on each slot that it selects is log entry 75, the walk of a migration, the
rounding of its page, its state codes and the window that counts the pinning migration are log entry 77, and the stream of a migration
into another package is log entry 65: these are the model's readings. -/
def Obligations.TranslationCommands : Prop :=
  (∀ (s : State) (i : RingId) (body : List Byte) (rest : List (List Byte)), (s.ring i).held = body :: rest → (s.ring i).room = true →
    let at_ := s.hostPa ((s.ring i).base.toNat + ringSize i * ((s.ring i).put.toNat % (s.ring i).count))
    let bytes := if i = .machineCheck then body else leBytes 4 (s.ring i).seq.toNat ++ body.drop 4
    ∃ t, exec (.heldRecordWrite i) s = .next t ∧ (t.ring i).held = rest ∧ (t.ring i).put = (s.ring i).put + 1 ∧
      (memoryInv s → t.rdMem at_ bytes.length = bytes) ∧
      (∀ a, a < at_ ∨ at_ + max 4 body.length ≤ a → tget 0 t.mem a = tget 0 s.mem a)) ∧
  (∀ (s : State) (c : DWord), cmdOp c = 0 →
    (5 ≤ cmdUnit c → exec (.replay c) s = .next { s with xlat := { s.xlat with badCmd := true } }) ∧
    (cmdUnit c < 5 → ∃ t, exec (.replay c) s = .next t ∧ t.mem = s.mem ∧
      ∀ (r : UnitRef) (u : UnitSt) (k unit place acc : Nat) (pages : List Nat), s.unit? r = some u → k ∈ u.slots →
        s.identity u = some (unit, place) → (u.slot k).st = .parked false acc pages →
        s.selects c unit place r.ident (s.asidOf r) pages = true →
        ∃ v, t.unit? r = some v ∧ (v.slot k).st = .ready ∧ (v.slot k).pc = (u.slot k).pc)) ∧
  (∀ (s : State) (c : DWord), cmdOp c = 1 →
    exec (.cancelLaunch c) s = .next (
      if cmdScope c ≠ 3 ∨ 5 ≤ cmdUnit c then { s with xlat := { s.xlat with badCmd := true } }
      else match s.launch? (cmdIdent c) with
        | some l => if l.reject = 0 then s.endLaunch l.lr.ident else s
        | none => s)) ∧
  (∀ (s : State) (k : Nat) (m : MigSlot) (ctl : DWord), s.xlat.migs[k]? = some m →
    ((ctl.getLsbD 63 = false ∨ m.state = 1) → exec (.migrate k ctl) s = .next s) ∧
    (ctl.getLsbD 63 = true → m.state ≠ 1 →
      let size := bits ctl.toNat 0 2
      let frame := bits m.dst.toNat 16 36 * 2 ^ 16
      let va := bits m.src.toNat 16 40 * 2 ^ 16 / pageBytes size * pageBytes size
      ∃ t m', exec (.migrate k ctl) s = .next t ∧ t.xlat.migs[k]? = some m' ∧ m'.src = m.src ∧ m'.dst = m.dst ∧
        (size = 3 ∨ frame % pageBytes size ≠ 0 → m'.state = 4 ∧ t.mem = s.mem) ∧
        (size ≠ 3 → frame % pageBytes size = 0 → ∀ found s1, s.leafEntry (bits m.src.toNat 56 6) va = (found, s1) →
          m'.state = (match found with
            | none => 4
            | some (_, e, level) =>
              if level ≠ size ∨ e.getLsbD 11 = true ∨ bits e.toNat 8 2 = 2 then 4
              else if s1.frameBacked frame (pageBytes size) = false then 7
              else if e.getLsbD 10 = true ∧ ctl.getLsbD 62 = false then 3
              else 1) ∧
          (m'.state ≠ 1 → t.mem = s1.mem) ∧
          (m'.state = 1 → found = some (m'.entryAddr, m'.entry, size) ∧ m'.old = bits m'.entry.toNat 16 36 * 2 ^ 16 ∧ m'.frame = frame ∧
            (memoryInv s → leNat (t.rdMem m'.entryAddr 8) = (m'.entry ||| 0x800).toNat) ∧
            ∀ a, a < m'.entryAddr ∨ m'.entryAddr + 8 ≤ a → tget 0 t.mem a = tget 0 s1.mem a)))) ∧
  (∀ (s : State) (k : Nat) (m : MigSlot), s.xlat.migs[k]? = some m → m.state = 1 → s.invQuiet m.inv = true →
    (∀ o ∈ s.fab.out, o.origin ≠ .migration k) →
    let n := pageBytes m.size
    let flushed := (s.flushRange m.inv).flushFrame m.old (m.old + n)
    let leaving := flushed.fab.out.any fun o => o.origin == .priv
    let d := flushed.dropRange m.inv
    let bad := d.checks.find? fun x => decide (m.old ≤ 64 * x.1) && decide (64 * x.1 < m.old + n)
    let moved (n : Nat) : State := (d.l2Flush m.old (m.old + pageBytes m.size)).moveFrame k m.old m.frame n
    (∀ key, s.migStream k = some key → exec (.migrationComplete k) s = .next ((s.endStream key).endMig k m)) ∧
    (s.migStream k = none → leaving = true → exec (.migrationComplete k) s = .next flushed) ∧
    (s.migStream k = none → leaving = false → (∀ e ∈ d.caches.tlb, e.hit m.inv = false) ∧
      (bad = none → exec (.migrationComplete k) s = .next (
        if (moved n).migStream k = none then (moved n).endMig k m else moved n)) ∧
      (∀ line x, bad = some (line, x) →
        let v := (moved (64 * line - m.old)).integrityRecord 0 0 (some (64 * line), d.whereOf (64 * line))
        let w := v.failMig k m (line - m.old / 64)
        exec (.migrationComplete k) s = .next (match w.migStream k with
          | some key => w.endStream key
          | none => w)))) ∧
  (∀ (s : State) (src dst n : Nat), memoryInv s →
    let t := s.moveBytes src dst n
    (∀ k, k < n → tget 0 t.mem (dst + k) = tget 0 s.mem (src + k)) ∧
    (∀ a, a < dst ∨ dst + n ≤ a → tget 0 t.mem a = tget 0 s.mem a) ∧ t.wgs = s.wgs ∧
    (dst % 64 = 0 → n % 64 = 0 → ∀ a, dst ≤ a → a < dst + n → t.lineBad a = false) ∧
    ∀ l ∈ t.plat.hostLines, ¬ (dst ≤ 64 * l ∧ 64 * l < dst + n)) ∧
  (∀ (s : State) (k src dst n : Nat),
    let asked : State := if paPkg src = s.pkg then s else { s with outputs := s.outputs ++ [.remoteRequest (paPkg src) (paLocal src) n] }
    (src = dst → s.moveFrame k src dst n = asked) ∧
    (src ≠ dst → paPkg dst = s.pkg → s.moveFrame k src dst n = asked.moveBytes src dst n) ∧
    (src ≠ dst → paPkg dst ≠ s.pkg → (s.moveFrame k src dst n).mem = s.mem ∧ (s.moveFrame k src dst n).migStream k ≠ none ∧
      (s.moveFrame k src dst n).fab.out.map (fun o => (o.dst, o.pkt.slice, o.pkt.payload, o.origin)) =
        s.fab.out.map (fun o => (o.dst, o.pkt.slice, o.pkt.payload, o.origin)) ++ (List.range (n / 64)).map fun i =>
          (paPkg dst, s.homeSlice (dst + 64 * i), .write (paLocal dst + 64 * i) (s.rdMem (src + 64 * i) 64), .migration k))) ∧
  (∀ (s : State) (k : Nat) (m : MigSlot) (line : Nat),
    let now : DWord := BitVec.ofNat 64 (leNat (s.rdMem m.entryAddr 8))
    let t := s.failMig k m line
    t.xlat.migs = s.xlat.migs.set k { m with state := 6, line := BitVec.ofNat 32 line } ∧
    (memoryInv s → leNat (t.rdMem m.entryAddr 8) = (now &&& ~~~0x800).toNat) ∧
    ∀ a, a < m.entryAddr ∨ m.entryAddr + 8 ≤ a → tget 0 t.mem a = tget 0 s.mem a) ∧
  (∀ (s : State) (k : Nat) (m : MigSlot),
    let page := m.va m.size / 2 ^ 16
    let w := tget 0 s.xlat.asctx (4 * m.asid + 1)
    let seen := s.xlat.window.filter fun x => x.1 == m.asid
    let count := ((seen.take (s.window m.asid - 1)).filter fun x => x.2 == page).length + 1
    let pin : Bool := w.getLsbD 63 && !m.force && decide (bits w.toNat 0 8 < count)
    let now := leNat (s.rdMem m.entryAddr 8)
    (now ≠ (m.entry ||| 0x800).toNat → s.endMig k m = s.setMig k { m with state := 5 }) ∧
    (now = (m.entry ||| 0x800).toNat → ∃ (u : State) (e : DWord),
      e.extractLsb' 16 36 = BitVec.ofNat 36 (m.frame / 2 ^ 16) ∧ e.getLsbD 11 = false ∧ e.getLsbD 10 = pin ∧
      (∀ b, b < 10 ∨ 12 ≤ b ∧ b < 16 ∨ 52 ≤ b → e.getLsbD b = m.entry.getLsbD b) ∧
      (memoryInv s → u.rdMem m.entryAddr 8 = leBytes 8 e.toNat) ∧
      (∀ a, a < m.entryAddr ∨ m.entryAddr + 8 ≤ a → tget 0 u.mem a = tget 0 s.mem a) ∧
      u.xlat.window = ((m.asid, page) :: seen).take (s.window m.asid) ++ s.xlat.window.filter (fun x => x.1 != m.asid) ∧
      ((u.xlat.pins.any fun p => p.asid == m.asid && p.page == page) = pin) ∧
      s.endMig k m = (if pin then u.ringHint .access (accessBytes 3 m.asid 0 (m.va m.size) 0) else u).setMig k
        { m with state := if pin then 3 else 2 })) ∧
  (∀ (s s1 : State) (p : Pin) (found : Option (Nat × DWord × Nat)),
    (s.xlat.pins.find? fun x => x.asid == p.asid && x.page == p.page) = some p → s.pinReady p = true →
    s.leafEntry p.asid (p.page * 2 ^ 16) = (found, s1) →
    ∃ u t : State, exec (.pinHoldExpiry p.asid p.page) s = .next t ∧
      t = u.ringHint .access (accessBytes 2 p.asid 0 (p.page * 2 ^ 16) 0) ∧ t.xlat.pins = s.xlat.pins.filter (fun x => x != p) ∧
      (found = none → u.mem = s1.mem) ∧
      ∀ pa e level, found = some (pa, e, level) →
        (level ≠ p.size → u.mem = s1.mem) ∧
        (level = p.size → (memoryInv s → u.rdMem pa 8 = leBytes 8 (e &&& ~~~0x400).toNat) ∧
          ∀ a, a < pa ∨ pa + 8 ≤ a → tget 0 u.mem a = tget 0 s1.mem a))

/-! ### Events of the dealer and of rounds -/

/-- R366, R367, R371, R377 to R379, R381, R382, R422: a write of QTAIL publishes records, or is ignored with OVR set; the dealer reads
one record of the next queue in rotation and gives it the next number; it places or resumes the next gang of a launch on the candidate
chosen, or reserves a cluster for it; it places a persistent share whole; a reservation that has run its time has gangs of lower
priority saved, unless a crew of one of them is stopped; and a DRAW is answered in its mailbox. -/
def Obligations.DealerEvents : Prop :=
  (∀ (s : State) (n : Nat) (q : SubQueue) (v : DWord), s.dealer.queues[n]? = some q →
    let tail : Word := v.extractLsb' 0 32
    ∃ t, exec (.submissionTailWrite n v) s = .next t ∧ t.mem = s.mem ∧ t.dealer.launches = s.dealer.launches ∧
      t.dealer.queues[n]? = some (if 2 ^ (max 4 (min 16 q.log2size.toNat)) < (tail - q.head).toNat ∨
          (tail - q.head).toNat < (q.tail - q.head).toNat then { q with ovr := true } else { q with tail := tail }) ∧
      ∀ k, k ≠ n → t.dealer.queues[k]? = s.dealer.queues[k]?) ∧
  (∀ (s : State) (n : Nat) (q : SubQueue), s.dealer.launches.length < 1024 → s.nextQueue = some n → s.dealer.queues[n]? = some q →
    let at_ := q.base * 2 ^ 12 + 384 * (q.head.toNat % q.size)
    let read := s.readRecord at_ 384
    ((∀ k, k < 384 → s.lineBad (at_ + k) = false) → read.1 = s.rdMem at_ 384) ∧
    ∃ t l, exec .launchAccept s = .next t ∧ t.mem = read.2.mem ∧ t.dealer.nextAccept = s.dealer.nextAccept + 1 ∧
      t.dealer.rotation = (n + 1) % 128 ∧ t.dealer.queues[n]? = some { q with head := q.head + 1 } ∧
      t.dealer.launches.length = s.dealer.launches.length + 1 ∧ t.dealer.launches.getLast? = some l ∧
      l.accept = s.dealer.nextAccept ∧ l.queueAsid = q.asid.toNat ∧
      l.lr = launchRecOf read.1 ∧ l.reject = read.2.rejectCode read.1 q.asid.toNat) ∧
  (∀ (s : State) (l : Launch), s.placeable = [l] → s.launch? l.lr.ident = some l → l.lr.affMode ≠ 3 →
    let gang (i : Nat) : Nat := s.gangAt l.lr i
    (l.lr.persist = false → l.lr.determ = false → ∀ i b, (s.toPlace l 1).head? = some (i, b) →
      (∀ cl cores, s.choose false l i b = some (cl, cores) → exec .gangPlacement s =
        .next ((if b then s.resumeGang l i cl cores else s.newGang l i cl cores).endReservation l.lr.ident (gang i))) ∧
      (∀ cl, s.choose false l i b = none → (∀ r ∈ s.dealer.reservations, r.ident ≠ l.lr.ident) → s.reserveAt l i b = some cl →
        exec .gangPlacement s = .next { s with dealer := { s.dealer with reservations := s.dealer.reservations ++
          [⟨l.lr.ident, gang i, cl, (s.dieCtr (dieOfCluster cl)).toNat⟩] } })) ∧
    (∀ t, l.lr.persist = true → s.toPlace l (s.shareCount l.lr) ≠ [] → (∀ g ∈ s.gangs, g.ident = l.lr.ident → g.saving = false) →
      s.placeAll false l.lr.ident (s.toPlace l (s.shareCount l.lr)) = .ok t → exec .gangPlacement s = .next t)) ∧
  (∀ (s : State) (r : Reservation), (s.dealer.reservations.find? fun x => x.ident == r.ident) = some r →
    r.since + 2 ^ 20 ≤ (s.dieCtr (dieOfCluster r.cluster)).toNat → s.toPreempt r ≠ [] →
    (∀ g ∈ s.toPreempt r, s.shareHalted g.ident g.gang = false) →
    ∃ t, exec (.reservationTimeout r.ident) s = .next t ∧ t.mem = s.mem ∧ t.crews = s.crews ∧
      ∀ g ∈ s.toPreempt r, (s.launch? g.ident).map Launch.cancelled = some false →
        ∃ g' ∈ t.gangs, g'.ident = g.ident ∧ g'.gang = g.gang ∧ g'.saving = true) ∧
  (∀ (s : State) (d : DrawReq) (rest : List DrawReq) (w : Workgroup), s.dealer.draws = d :: rest →
    s.wg? d.unit.ident d.unit.gang d.wg = some w → twf 0 w.sp = true →
    ∃ t v, exec .drawAnswer s = .next t ∧ t.dealer.draws = rest ∧ t.mem = s.mem ∧ t.crews = s.crews ∧
      t.wg? d.unit.ident d.unit.gang d.wg = some v ∧ v.draws = w.draws - 1 ∧ v.acc = w.acc ∧
      (∀ a, a < d.mbox ∨ d.mbox + 32 ≤ a → tget 0 v.sp a = tget 0 w.sp a) ∧
      (∀ l, s.drawn d = some l →
        let left := s.unplaced l
        let answer (gang n flag : Nat) : List Byte :=
          leBytes 4 gang ++ leBytes 4 l.lr.ident.toNat ++ leBytes 4 l.lr.shape.toNat ++ leBytes 4 (min n (2 ^ 32 - 1)) ++
          leBytes 8 0 ++ leBytes 4 flag ++ leBytes 4 0
        getBytes v.sp d.mbox 32 = (if s.eligible l = false then answer 0xFFFFFFFF left 3
          else if left = 0 then answer 0xFFFFFFFF 0 2
          else answer (s.gangAt l.lr l.nextGang) (left - 1) 1)) ∧
      (s.drawn d = none → getBytes v.sp d.mbox 8 = leBytes 4 0xFFFFFFFF ++ leBytes 4 0 ∧
        getBytes v.sp (d.mbox + 12) 20 = leBytes 12 0 ++ leBytes 4 2 ++ leBytes 4 0))

/-- R138 to R141, R144, R146, R147, R372, R373: a share tells what it has passed; a round closes once every share has passed it (that
rounds close too after every party has retired is log entry 54); a slice applies its updates, held and spilled together, in ascending
order of the issuer key, whatever the order in which they came, and keeps none of them, and discards a changed overflow entry; those
that lie on other packages show here when the round closes, in that order too (log entry 57). The round word counts the rounds that
every slice has applied, of a cancelled launch too; and a launch with nothing left to do writes its completion record and leaves the
window, once a record that crosses the fabric has been acknowledged (log entry 79). A write of the dealer's that fails to translate
parks it on the page. The entries named are the model's readings. -/
def Obligations.RoundsAndCompletion : Prop :=
  let ordered (us : List OUpdate) : Prop :=
    (∀ u ∈ us, u.issuer < 2 ^ 32 ∧ u.icount < 2 ^ 48 ∧ u.elempos < 2 ^ 64) ∧
    us.Pairwise fun u v => u.kclass < v.kclass ∨ u.kclass = v.kclass ∧ (u.issuer < v.issuer ∨ u.issuer = v.issuer ∧
      (u.icount < v.icount ∨ u.icount = v.icount ∧ u.elempos < v.elempos))
  let applied (s : State) (us : List OUpdate) : Tab Byte :=
    (us.foldl (fun (t : State) u => (t.atomAt (.mem u.pa) ⟨u.aop, u.szf, u.operand, 0, u.dir⟩).2) s).mem
  let sound (s : State) : Prop := s.checks = [] ∧ ∀ x ∈ s.caches.l2, ∀ y, x.under = some y → y.2 = 0
  (∀ (s : State) (l : Launch), s.launch? l.lr.ident = some l → l.cancelled = false →
    (1 < l.lr.setSize → l.told ≠ some (s.report l) → ∃ t, exec (.roundClose l.lr.ident) s = .next t ∧ t.mem = s.mem ∧
      (t.launch? l.lr.ident).map Launch.told = some (some (s.report l)) ∧
      (t.launch? l.lr.ident).map Launch.closed = some l.closed) ∧
    ((l.lr.setSize ≤ 1 ∨ l.told = some (s.report l)) → ∀ n, s.closeLimit l = some n → l.closed < n →
      let far (u : OUpdate) : Bool := u.unit.ident == l.lr.ident && u.remote && u.place != .sent && u.round == l.closed
      ∃ t, exec (.roundClose l.lr.ident) s = .next t ∧ t.flight.updates = (s.flight.updates.filter fun u => !(far u)) ∧
        (s.flight.updates.filter far = [] → t.mem = s.mem) ∧
        (∀ us, ordered us → us.Perm (s.flight.updates.filter far) → t.mem = applied s us) ∧ t.launch? l.lr.ident = some { l with closed := l.closed + 1 })) ∧
  (∀ (s : State) (l : Launch) (slice : Nat), s.launch? l.lr.ident = some l → l.cancelled = false → l.appliedOn slice < l.closed →
    slice ∈ s.clustersOf s.pkg →
    let here (u : OUpdate) : Bool :=
      u.unit.ident == l.lr.ident && u.slice == slice && !u.remote && u.place != .sent && u.round == l.appliedOn slice
    let does (u : OUpdate) (m : Tab Byte) : Prop :=
      m = (s.atomAt (.mem u.pa) ⟨u.aop, u.szf, u.operand, 0, u.dir⟩).2.mem
    let good (u : OUpdate) : Prop := s.badLine (locRun (.mem u.pa) (szfSize u.szf)) = none
    let read (u : OUpdate) : Option OUpdate := match u.place with
      | .spilled e => s.entryOf l.lr u e
      | _ => some u
    ∃ t, exec (.roundApply l.lr.ident slice) s = .next t ∧ (∀ u ∈ t.flight.updates, here u = false) ∧
      (∀ us, ordered us → (us.map some).Perm ((s.flight.updates.filter here).map read) → sound s → t.mem = applied s us ∧
        (t.launch? l.lr.ident).map (fun x => x.appliedOn slice) = some (l.appliedOn slice + 1)) ∧
      (s.flight.updates.filter here = [] → t.mem = s.mem ∧
        (t.launch? l.lr.ident).map (fun x => x.appliedOn slice) = some (l.appliedOn slice + 1)) ∧
      (∀ u, s.flight.updates.filter here = [u] → u.place = .held → good u → does u t.mem ∧
        (t.launch? l.lr.ident).map (fun x => x.appliedOn slice) = some (l.appliedOn slice + 1)) ∧
      (∀ u e, s.flight.updates.filter here = [u] → u.place = .spilled e → s.badLine [.mem (l.lr.ovfEntry e)] = none →
        (∀ v, s.entryOf l.lr u e = some v → good v → does v t.mem ∧ (t.launch? l.lr.ident).map Launch.ovfDisc = some (min l.ovfDisc (2 ^ 32 - 1))) ∧
        (s.entryOf l.lr u e = none → t.mem = s.mem ∧
          (t.launch? l.lr.ident).map Launch.ovfDisc = some (min (l.ovfDisc + 1) (2 ^ 32 - 1))))) ∧
  (∀ (s s1 : State) (l : Launch), s.launch? l.lr.ident = some l → l.roundParked = none →
    l.roundWritten < s.appliedAll l → s.dealerOut l.lr.ident = false →
    let put := s.dealerPut l.lr.ident l.lr.asid l.lr.roundWord.toNat 8 (leBytes 4 (l.roundWritten + 1) ++ leBytes 4 0)
    (put = (none, s1) → ∃ t, exec (.roundWordWrite l.lr.ident) s = .next t ∧ t.mem = s1.mem ∧
      (t.launch? l.lr.ident).map Launch.roundWritten = some (l.roundWritten + 1)) ∧
    (∀ pages, put = (some pages, s1) → ∃ t, exec (.roundWordWrite l.lr.ident) s = .next t ∧ t.mem = s1.mem ∧
      (t.launch? l.lr.ident).map Launch.roundParked = some (some pages) ∧
      (t.launch? l.lr.ident).map Launch.roundWritten = some l.roundWritten)) ∧
  (∀ (s s1 : State) (l : Launch), s.toComplete l.lr.ident = some l →
    let status := if l.reject ≠ 0 then 3 else if l.cancelled then 2 else 1
    let record := leBytes 4 l.lr.ident.toNat ++ leBytes 1 status ++ leBytes 1 l.reject ++ leBytes 2 0 ++ leBytes 4 l.ovfDisc ++
      leBytes 4 l.accept.toNat ++ leBytes 16 0
    let put := s.dealerPut l.lr.ident (if l.reject = 0 then l.lr.asid else l.queueAsid)
      (l.lr.compl.toNat + 32 * l.lr.rankOf s.pkg) 1 record
    (l.phase = .sentRecord → ∃ t, exec (.launchComplete l.lr.ident) s = .next t ∧ t.mem = s.mem ∧
      ∀ x ∈ t.dealer.launches, x.accept ≠ l.accept) ∧
    (l.phase ≠ .sentRecord → put = (none, s1) → ∃ t, exec (.launchComplete l.lr.ident) s = .next t ∧ t.mem = s1.mem ∧
      (s1.dealerOut l.lr.ident = false → ∀ x ∈ t.dealer.launches, x.accept ≠ l.accept) ∧
      (s1.dealerOut l.lr.ident = true → ∀ x ∈ t.dealer.launches, x.accept = l.accept → x.phase = .sentRecord)) ∧
    (∀ pages, l.phase ≠ .sentRecord → put = (some pages, s1) → ∃ t, exec (.launchComplete l.lr.ident) s = .next t ∧ t.mem = s1.mem ∧
      ∀ x ∈ t.dealer.launches, x.accept = l.accept → x.phase = .parkedRecord pages))

/-! ### Events of the engines -/

/-- R67, R99 to R106, R425: a queued copy request is read and checked, and runs or finishes with the code of the check that failed; the
request at the head of its channel begins a step once the last one has ended; a step whose packets are acknowledged is counted in WP; a
cancelled request stops; a request that has finished leaves its channel; and the copies that a watchpoint has paused go on. That a
request which pre-emption has stopped is passed by those behind it is log entry 119 (the head of a channel, `headCopy`). -/
def Obligations.CopyEvents : Prop :=
  (∀ (s : State) (cl ch : Nat) (q : CopyReq),
    (s.eng.copies.find? fun x => x.cluster == cl && x.chan == ch && x.phase == .queued) = some q →
    ∃ t q', exec (.copyAccept cl ch) s = .next t ∧ q' ∈ t.eng.copies ∧ q'.id = q.id ∧ q'.unit = q.unit ∧
      ((s.readRequest q).1 = 0 → q'.phase = .running) ∧
      ((s.readRequest q).1 ≠ 0 → q'.phase = .finishing (s.readRequest q).1)) ∧
  (∀ (s : State) (cl ch : Nat) (q : CopyReq) (j : CopyJob), s.headCopy cl ch = some q → q.job = some j → q.phase = .running →
    j.writes = [] →
    (j.stepBytes ≠ 0 → s.stepOut q = false → ∃ t, exec (.copyStep cl ch) s = .next t ∧ t.mem = s.mem ∧
      ∃ q' ∈ t.eng.copies, q'.id = q.id ∧ q'.job = some { j with wp := j.wp + j.stepBytes, stepBytes := 0 } ∧
        q'.phase = (if j.total ≤ j.wp + j.stepBytes then .finishing 0 else .running)) ∧
    (j.stepBytes = 0 → q.cancel = true → ∃ t, exec (.copyStep cl ch) s = .next t ∧ t.mem = s.mem ∧ t.wgs = s.wgs ∧
      ∃ q' ∈ t.eng.copies, q'.id = q.id ∧ q'.phase = .finishing 8) ∧
    (j.stepBytes = 0 → q.cancel = false → s.panelWaits q = false →
      (s.gangStopping q.unit = false ∨ q.panel = true ∨ j.moving = true) → j.reads = [] →
      s.copyMove q = some .step ∧ exec (.copyStep cl ch) s = .next (s.beginStep q j))) ∧
  (∀ (s : State) (cl ch code : Nat) (q : CopyReq) (j : CopyJob), s.headCopy cl ch = some q → q.job = some j →
    q.phase = .finishing code → q.id < s.nextId →
    ∃ t, exec (.copyComplete cl ch) s = .next t ∧ (∀ x ∈ t.eng.copies, x.id ≠ q.id) ∧
      ∀ u, q.unit = .crew q.unit.ident q.unit.gang (wgOf q.unit) u → q.vocab = none → ∀ x, s.unit? q.unit = some (.crew x) →
        ∃ y, t.unit? q.unit = some (.crew y) ∧ y.scal.cpy = x.scal.cpy - 1 ∧ y.v = x.v ∧ y.scal.s = x.scal.s) ∧
  (∀ (s : State) (n : Nat),
    ∃ t, exec (.watchResume n) s = .next t ∧ t.mem = s.mem ∧ t.crews = s.crews ∧
      t.eng.copies = s.eng.copies.map fun q => if q.phase = .watched n then { q with phase := .running, skipWatch := n :: q.skipWatch } else q)

/-- R86, R88, R101 to R103, R107 to R110, R411: what a step of a copy moves. A step that nothing stops delivers up to 256 destination
bytes in iteration order, from its source bytes: those of memory as they stand then, those of a scratchpad as the passes of the step
have read them before. Bytes of a scratchpad are read and written in passes of one word a bank at the copy engine's port, each in its
turn, and the step ends with the last of them (how a step falls into passes is log entry 102). Elements are taken with dimension 0 fastest, by their
strides, through the permutation in dimension 0, and E2M1X blocks by BAXIS. Equal formats move the bytes, another pair converts each
element, and a container that is written has zero bits above its elements. A reducing request applies each
element as an atomic without return, or in a deterministic launch sends it as an ordered update with its key; other packages get
packets, each selected rank its own, and a deterministic update that crosses is held for its round here too. -/
def Obligations.CopyMoves : Prop :=
  (∀ (s s1 s2 : State) (cl ch : Nat) (q : CopyReq) (j : CopyJob) (sp dp : List (Nat × Nat × Nat)), s.headCopy cl ch = some q →
    q.job = some j → s.copyMove q = some .step → q.isDw = false → q.upset = false →
    let n := min 256 (j.total - j.wp)
    let z := fmtBytes j.dfmt
    let dvas := (List.range n).map fun k => q.dstAddr j (j.wp + k)
    let units := (List.range (n / z)).map fun k => j.wp / z + k
    let svas (u : Nat) : List Nat := (q.srcRuns j u).flatMap fun r => (List.range r.2).map fun k => r.1 + k
    s.copyWatch q dvas = none → s.copyPages q false (units.flatMap svas) = (.ok sp, s1) → s1.copyPages q true dvas = (.ok dp, s2) →
    let src := (units.flatMap svas).map fun va => (va, s2.copyLoc q sp va)
    let dst := dvas.map fun va => (va, s2.copyLoc q dp va)
    let type (ps : List (Nat × Nat × Nat)) (va : Nat) : Nat := ((ps.find? fun p => p.1 == va / 2 ^ 16).map fun p => p.2.2).getD 0
    let ranked (l : Loc) : List Loc := match l with
      | .mem pa => if j.rmask = 0 then [l] else j.ranks.map fun p => .mem (p * 2 ^ 44 + paLocal pa)
      | l => [l]
    let inSp (x : Nat × Loc) : Bool := (s2.copyPort q x.2).isSome
    (∀ x ∈ src, s2.copyBad x.2 (type sp x.1) = false) → (∀ x ∈ dst, ∀ l ∈ ranked x.2, s2.copyBad l (type dp x.1) = false) →
    ((s2.lrec q.unit.ident).determ = true → j.redop ≠ 0 → ∀ x ∈ dst, ∀ pa, x.2 = .mem pa →
      (s2.lrec q.unit.ident).inSet (paPkg pa) = true) →
    s2.badLine ((src.filter fun x => !(inSp x)).map Prod.snd) = none →
    let r := s2.copyPasses q false (((src.map Prod.snd).eraseDups).map fun l => (l, 0))
    let byte (l : Loc) : Byte := ((j.got.find? fun x => x.1 == l).map Prod.snd).getD (s2.rdLoc l 0)
    let data := units.flatMap fun u => q.unitOf (s2.lrec q.unit.ident).determ j u ((svas u).map fun va => byte (s2.copyLoc q sp va))
    let far := dst.flatMap fun x => (ranked x.2).map fun l => (x.1, l)
    let x := (((s2.copyReach q src).copyReach q far).askLines (src.map Prod.snd)).deliver q j dst data
    let w := x.2.copyPasses x.1 true ((dst.map Prod.snd).zip data)
    let j1 : CopyJob := { j with stepBytes := n, got := [], writes := w.1 }
    let q1 : CopyReq := { x.1 with job := some j1, skipWatch := [] }
    let v := w.2.setCopy q1
    (src.any inSp = true → j.got = [] → exec (.copyStep cl ch) s = .next (r.2.setCopy { q with job := some { j with reads := r.1 } })) ∧
    ((src.any inSp = false ∨ j.got ≠ []) →
      exec (.copyStep cl ch) s = .next (if w.1 ≠ [] ∨ v.stepOut q1 = true then v else v.countStep q1 j1))) ∧
  (∀ (s : State) (q : CopyReq) (write : Bool) (xs : List (Loc × Byte)),
    ∃ (ps : List CopyPass), s.copyPasses q write xs = (ps, { s with nextId := s.nextId + ps.length }) ∧
      (∀ k p, ps[k]? = some p → p.id = s.nextId + k) ∧
      (∀ p ∈ ps, p.locs ≠ [] ∧ (∀ l ∈ p.locs, ∃ w, s.copyPort q l = some (p.port, w)) ∧
        ∀ l ∈ p.locs, ∀ l' ∈ p.locs, ∀ w w', s.copyPort q l = some (p.port, w) → s.copyPort q l' = some (p.port, w') →
          w % 32 = w' % 32 → w = w') ∧
      (∀ l, (∃ p ∈ ps, l ∈ p.locs) ↔ (∃ b, (l, b) ∈ xs) ∧ s.copyPort q l ≠ none) ∧
      (write = true → ∀ y, (∃ p ∈ ps, y ∈ p.locs.zip p.bytes) ↔ y ∈ xs ∧ s.copyPort q y.1 ≠ none)) ∧
  (∀ (s : State) (cl ch : Nat) (q : CopyReq) (j : CopyJob) (p : CopyPass), s.headCopy cl ch = some q → q.job = some j →
    (s.copyMove q = some (.read p) → s.badLine p.locs = none → ∃ t, exec (.copyStep cl ch) s = .next t ∧ t.mem = s.mem ∧ t.wgs = s.wgs ∧
      ∃ q' ∈ t.eng.copies, q'.id = q.id ∧ q'.job = some { j with reads := j.reads.filter (fun x => x.id != p.id)
                                                                 got := j.got ++ p.locs.map fun l => (l, s.rdLoc l 0) }) ∧
    (s.copyMove q = some (.write p) →
      let j1 : CopyJob := { j with writes := j.writes.filter fun x => x.id != p.id }
      let q1 : CopyReq := { q with job := some j1 }
      let v := ((s.passTaken (some p.port)).wrLocs p.locs p.bytes).setCopy q1
      exec (.copyStep cl ch) s = .next (if j1.writes ≠ [] ∨ v.stepOut q1 = true then v else v.countStep q1 j1))) ∧
  (∀ (s : State) (ls : List Loc) (bs : List Byte) (i : Word) (g w : Nat) (x : Workgroup), s.wg? i g w = some x → twf 0 x.sp = true →
    (∀ l ∈ ls, ∃ off, l = .sp i g w off) → ls.Nodup → ls.length = bs.length →
    ∃ y, (s.wrLocs ls bs).wg? i g w = some y ∧ (s.wrLocs ls bs).mem = s.mem ∧ y.acc = x.acc ∧
      (∀ k off : Nat, ls[k]? = some (Loc.sp i g w off) → tget 0 y.sp off = (bs[k]?).getD 0) ∧
      ∀ off, (∀ l ∈ ls, l ≠ Loc.sp i g w off) → tget 0 y.sp off = tget 0 x.sp off) ∧
  (∀ (q : CopyReq) (j : CopyJob) (x0 x1 x2 x3 b : Nat), isNfCode j.dfmt = false → x0 < j.ext 0 → x1 < j.ext 1 → x2 < j.ext 2 →
    b < fmtBytes j.dfmt →
    let n := ((x3 * j.ext 2 + x2) * j.ext 1 + x1) * j.ext 0 + x0
    let size := fmtBytes j.sfmt
    let rows (f : Nat → Int) : Int := x2 * f 2 + x3 * f 3
    q.dstAddr j (n * fmtBytes j.dfmt + b) = ((j.dst.toNat : Int) + x0 * fmtBytes j.dfmt + b + x1 * j.ds 1 + rows j.ds).toNat ∧
    (j.sfmt < 4 → q.srcRuns j n = [(((j.src.toNat : Int) + (if j.perm then (j.table[x0]?).getD 0 else x0 : Nat) * size + x1 * j.ss 1 +
      rows j.ss).toNat, size)]) ∧
    (j.sfmt = 4 → j.baxis = false →
      q.srcRuns j n = [(((j.src.toNat : Int) + (x0 / 32 : Nat) * 18 + x1 * j.ss 1 + rows j.ss).toNat, 18)]) ∧
    (j.sfmt = 4 → j.baxis = true →
      q.srcRuns j n = [(((j.src.toNat : Int) + x0 * 18 + (x1 / 32 : Nat) * j.ss 1 + rows j.ss).toNat, 18)])) ∧
  (∀ (q : CopyReq) (det : Bool) (j : CopyJob) (n : Nat) (bs : List Byte),
    let i := n % q.rowUnits j
    let row := n / q.rowUnits j % j.ext 1
    let f := q.nfAt j.sfmt
    let as_ (x : FV) : List Byte := if j.dfmt = 1 then leBytes 2 (bf16.ofFV .near x).1 else leBytes 4 (f32.ofFV .near x).1
    (j.sfmt = j.dfmt → j.sfmt < 4 → q.unitOf det j n bs = bs) ∧
    (j.dfmt = 1 ∨ j.dfmt = 3 → j.sfmt ≠ j.dfmt →
      (j.sfmt = 1 → q.unitOf det j n bs = as_ (bf16.decode (leNat bs))) ∧
      (j.sfmt = 2 → q.unitOf det j n bs = as_ (f16.decode (leNat bs))) ∧
      (j.sfmt = 3 → q.unitOf det j n bs = as_ (f32.decode (leNat bs))) ∧
      (j.sfmt = 4 → q.unitOf det j n bs = as_ (blockElem bs (if j.baxis then row % 32 else i % 32))) ∧
      (isNfCode j.sfmt = true → q.unitOf det j n bs = as_ (f.decode (f.elem (leNat bs) (j.permOf i % f.count))))) ∧
    (isNfCode j.sfmt = true → j.dfmt = j.sfmt → bs.length = 4 → j.perm = false →
      let out := leNat (q.unitOf det j n bs)
      out < 2 ^ (f.w * f.count) ∧ ∀ k, k < f.count → i * f.count + k < j.ext 0 → f.elem out k = f.elem (leNat bs) k)) ∧
  (∀ (s : State) (q : CopyReq) (j : CopyJob) (dst : List (Nat × Loc)) (pas : List Nat) (data : List Byte),
    dst.map Prod.snd = pas.map .mem → pas.length = data.length →
    let own : Prop := j.rmask = 0 ∧ ∀ pa ∈ pas, paPkg pa = s.pkg
    let z := reduceBytes j.redop
    let size := data.length / z
    let kinds : List (Nat × Nat) := [(0, 4), (0, 6), (0, 10), (2, 10), (1, 10), (0, 9)]
    let kind := (kinds[j.redop - 1]?).getD (0, 0)
    let dir := if szfFloat kind.2 then 2 else 0
    let opnd (k : Nat) : DWord := BitVec.ofNat 64 (leNat ((data.drop (k * z)).take z))
    let at_ (k : Nat) : Nat := (pas[k * z]?).getD 0
    (own → j.redop = 0 → pas.Nodup → memoryInv s → ∃ t, s.deliver q j dst data = (q, t) ∧ t.wgs = s.wgs ∧
      (∀ k, k < data.length → tget 0 t.mem ((pas[k]?).getD 0) = (data[k]?).getD 0) ∧ ∀ a, a ∉ pas → tget 0 t.mem a = tget 0 s.mem a) ∧
    (own → pas ≠ [] → 1 ≤ j.redop → j.redop ≤ 6 → (s.lrec q.unit.ident).determ = false →
      s.deliver q j dst data = (q, (List.range size).foldl (fun (t : State) k =>
        (t.atomAt (.mem (at_ k)) ⟨kind.1, kind.2, opnd k, 0, dir⟩).2) s)) ∧
    (own → pas ≠ [] → 1 ≤ j.redop → j.redop ≤ 5 → (s.lrec q.unit.ident).determ = true →
      q.vocab = none → ∃ t, s.deliver q j dst data = (q, t) ∧ t.mem = s.mem ∧ t.wgs = s.wgs ∧
        t.flight.updates = s.flight.updates ++ (List.range size).map fun k =>
          { id := s.nextId + k, unit := q.unit, pa := at_ k, aop := kind.1, szf := kind.2, operand := opnd k, dir := dir
            kclass := q.kclass, issuer := q.issuer, icount := q.icount, elempos := j.wp / z + k, round := q.round
            slice := s.homeSlice (at_ k), place := .sent, remote := false, copy := some q.id }) ∧
    (j.rmask ≠ 0 → j.redop = 0 → (∀ p ∈ j.ranks, p ≠ s.pkg) → ∃ q' t, s.deliver q j dst data = (q', t) ∧ t.mem = s.mem ∧ t.wgs = s.wgs ∧
      t.fab.out.map (fun o => (o.dst, o.pkt.slice, o.pkt.payload, o.origin)) =
        s.fab.out.map (fun o => (o.dst, o.pkt.slice, o.pkt.payload, o.origin)) ++ j.ranks.flatMap fun p =>
          (splitLines ((pas.map fun pa => p * 2 ^ 44 + paLocal pa).zip data)).filterMap fun g => g.head?.map fun b =>
            (p, s.homeSlice b.1, .write (paLocal b.1) (g.map Prod.snd), .copy q.id)) ∧
    (j.rmask = 0 → (∀ pa ∈ pas, paPkg pa ≠ s.pkg) → pas ≠ [] → 1 ≤ j.redop → j.redop ≤ 6 → q.vocab = none →
      let det := (s.lrec q.unit.ident).determ
      ∃ q' t, s.deliver q j dst data = (q', t) ∧ t.mem = s.mem ∧ t.wgs = s.wgs ∧
        t.flight.updates = s.flight.updates ++ (if det then (List.range size).map fun k =>
          { id := s.nextId + k, unit := q.unit, pa := at_ k, aop := kind.1, szf := kind.2, operand := opnd k, dir := dir
            kclass := q.kclass, issuer := q.issuer, icount := q.icount, elempos := j.wp / z + k, round := q.round
            slice := s.homeSlice (at_ k), place := .sent, remote := true, copy := some q.id } else []) ∧
        t.fab.out.map (fun o => (o.dst, o.pkt.slice, o.pkt.payload, o.origin)) =
          s.fab.out.map (fun o => (o.dst, o.pkt.slice, o.pkt.payload, o.origin)) ++ (List.range size).map fun k =>
            let a : RemoteAtomic := ⟨kind.1, kind.2, opnd k, 0, dir⟩
            (paPkg (at_ k), s.homeSlice (at_ k),
              if det then .ordered (paLocal (at_ k)) a q.kclass q.issuer q.icount (j.wp / z + k) q.round else .atomic (paLocal (at_ k)) a,
              if det then .copyUpdate q.id (s.nextId + k) else .copy q.id)))

/-- R328, R330 to R332, R336, R338, R354, R400: the head of a matrix queue completes and leaves it, or waits for its writes to another
package, and operations that found no room move up behind it (log entry 120); a vocabulary tile is committed, and the next one is named
in the descriptor. A fired slot takes its action piece by piece: a put or a get writes its destination bytes with the source's, here or
as packets, and a reducing put applies each element at its home slice; KIND 3 raises its counter, here or by an increment message; KIND 4
writes its signal record. Then it raises counter 1 and counter 2, and goes on with its next firing, and after the last one that waits it
is armed again with REARM, and otherwise its slot is free. -/
def Obligations.EngineEvents : Prop :=
  let sent (s : State) : List (Nat × Nat × Payload × Origin) := s.fab.out.map fun o => (o.dst, o.pkt.slice, o.pkt.payload, o.origin)
  (∀ (s : State) (cl co : Nat) (op : MatOp) (rest : List MatOp), s.matReady (s.matrix cl co) = true →
    (s.matrix cl co).queue = op :: rest → (∀ acc dst stride fmt xl, op.kind ≠ .mdrain acc dst stride fmt xl) →
    ∃ t, exec (.matrixOpComplete cl co) s = .next t ∧ (t.matrix cl co).queue.length ≤ 8 ∧
      (t.matrix cl co).ops.map MatOp.id = (rest ++ (s.matrix cl co).backlog).map MatOp.id) ∧
  (∀ (s : State) (cl co : Nat) (op : MatOp) (rest : List MatOp), s.matReady (s.matrix cl co) = true →
    (s.matrix cl co).queue = op :: rest →
    ∃ t, exec (.matrixOpComplete cl co) s = .next t ∧
      ((t.matrix cl co).ops.map MatOp.id = (rest ++ (s.matrix cl co).backlog).map MatOp.id ∨
        (op.sent = false ∧ (t.matrix cl co).queue.head?.map MatOp.sent = some true ∧
          (t.matrix cl co).queue.map MatOp.id = op.id :: rest.map MatOp.id))) ∧
  (∀ (s : State) (cl co : Nat) (op : MatOp) (rest : List MatOp) (j : VocabJob) (w : Workgroup),
    s.tileReady (s.matrix cl co) = true → (s.matrix cl co).queue = op :: rest → op.kind = .vocab j →
    s.wg? op.unit.ident op.unit.gang op.wg = some w → twf 0 w.sp = true →
    ∃ t op' j' v, exec (.vocabTileCommit cl co) s = .next t ∧ (t.matrix cl co).queue.head? = some op' ∧ op'.id = op.id ∧
      op'.kind = .vocab j' ∧ j'.tile = j.tile + 1 ∧ t.wg? op.unit.ident op.unit.gang op.wg = some v ∧
      getBytes v.sp (j.off + 68) 4 = leBytes 4 (j.tile + 1) ∧ t.mem = s.mem ∧ t.crews = s.crews) ∧
  (∀ (s : State) (p : Post), s.post? p.slot = some p → p.state = .transferring → (s.postWaits p = false ∨ (p.acted = false ∧ p.told = false)) →
    ∃ t, exec (.postedTransferComplete p.slot) s = .next t ∧
      (p.told = true → p.waiting ≤ 1 ∧ (p.closing = true ∨ p.rearm = false) → t.post? p.slot = none) ∧
      (p.told = true → ¬ (p.waiting ≤ 1 ∧ (p.closing = true ∨ p.rearm = false)) → t.post? p.slot = some
        { p with state := if p.waiting - 1 = 0 then .armed else .transferring, waiting := p.waiting - 1, done := 0, told := false }) ∧
      (p.told = false → p.acted = true → t.post? p.slot = some { p with told := true } ∧ t.mem = s.mem ∧ t.wgs = s.wgs ∧
        ((∀ c, p.c1 = some c ∨ p.c2 = some c → c.1 = s.pkg) → t.fab = s.fab ∧
          t.eng.raises = s.eng.raises ++ (p.c1.toList ++ p.c2.toList).zipIdx.map fun c => ⟨s.nextId + c.2, c.1.2.1, c.1.2.2, true, none⟩) ∧
        ((∀ c, p.c1 = some c ∨ p.c2 = some c → c.1 ≠ s.pkg) → t.eng.raises = s.eng.raises ∧
          sent t = sent s ++ (p.c1.toList ++ p.c2.toList).map fun c => (c.1, 48, .increment c.2.1 c.2.2 true, .post p.slot))) ∧
      (p.told = false → p.acted = false → p.kind = 4 → t.post? p.slot = some { p with done := 1 } ∧ t.eng.raises = s.eng.raises ∧
        t.wgs = s.wgs ∧ t.mem = (s.ringPost .signal (leBytes 4 0 ++ leBytes 4 p.len.toNat ++ leBytes 2 p.slot ++ leBytes 2 0 ++
          leBytes 4 p.ident.toNat)).mem)) ∧
  (∀ (s s1 s2 : State) (p : Post) (from_ to_ : List Nat), s.post? p.slot = some p → p.state = .transferring → p.told = false →
    p.acted = false → p.kind ≤ 2 → p.src.toNat + p.len.toNat ≤ 2 ^ 56 → p.dst.toNat + p.len.toNat ≤ 2 ^ 56 →
    let n := min 256 (p.len.toNat - p.done)
    let run (a : Nat) : List Nat := (List.range n).map fun k => a + p.done + k
    s.postBytes p false (p.kind != 1) (run p.src.toNat) = (.ok from_, s1) → s1.postBytes p true (p.kind == 1) (run p.dst.toNat) = (.ok to_, s2) →
    s2.postCheck p from_ to_ = none → memoryInv s2 →
    let data := s2.rdLocs (from_.map .mem)
    let kinds : List (Nat × Nat) := [(0, 4), (0, 6), (0, 10), (2, 10), (1, 10), (0, 9)]
    let kind := (kinds[p.redop - 1]?).getD (0, 0)
    let z := if p.redop = 2 then 8 else if p.redop = 6 then 2 else 4
    let atom (k : Nat) : RemoteAtomic :=
      ⟨kind.1, kind.2, BitVec.ofNat 64 (leNat ((data.drop (k * z)).take z)), 0, if szfFloat kind.2 then 2 else 0⟩
    let at_ (k : Nat) : Nat := (to_[k]?).getD 0
    ∃ t, exec (.postedTransferComplete p.slot) s = .next t ∧ t.post? p.slot = some { p with done := p.done + n } ∧ t.wgs = s2.wgs ∧
      t.eng.raises = s2.eng.raises ∧
      ((∀ pa ∈ to_, paPkg pa = s2.pkg) → t.fab = s2.fab ∧
        (p.kind ≠ 2 → to_.Nodup → (∀ k, k < n → tget 0 t.mem (at_ k) = (data[k]?).getD 0) ∧ ∀ a, a ∉ to_ → tget 0 t.mem a = tget 0 s2.mem a) ∧
        (p.kind = 2 → 1 ≤ p.redop → p.redop ≤ 6 →
          t.mem = ((List.range (n / z)).foldl (fun (t : State) k => (t.atomAt (.mem (at_ (k * z))) (atom k)).2) s2).mem)) ∧
      ((∀ pa ∈ to_, paPkg pa ≠ s2.pkg) → t.mem = s2.mem ∧
        (p.kind ≠ 2 → sent t = sent s2 ++ (splitLines (to_.zip data)).filterMap fun g => g.head?.map fun b =>
          (paPkg b.1, s2.homeSlice b.1, .write (paLocal b.1) (g.map Prod.snd), .post p.slot)) ∧
        (p.kind = 2 → 1 ≤ p.redop → p.redop ≤ 6 → sent t = sent s2 ++ (List.range (n / z)).map fun k =>
          (paPkg (at_ (k * z)), s2.homeSlice (at_ (k * z)), .atomic (paLocal (at_ (k * z))) (atom k), .post p.slot)))) ∧
  (∀ (s s1 : State) (p : Post) (pa : Nat), s.post? p.slot = some p → p.state = .transferring → p.told = false → p.acted = false →
    p.kind = 3 → s.postByte p p.dst.toNat true = (.ok (pa, 2), s1) → targetOf (paLocal pa) = .trigger → s1.inDomain (paPkg pa) = true →
    pa % 2 ^ 16 < 4096 →
    ∃ t, exec (.postedTransferComplete p.slot) s = .next t ∧ t.post? p.slot = some { p with done := 1 } ∧ t.mem = s1.mem ∧ t.wgs = s1.wgs ∧
      (paPkg pa = s1.pkg → t.fab = s1.fab ∧ t.eng.raises = s1.eng.raises ++ [⟨s1.nextId, ctrIndex pa, p.len, true, some p.asid⟩]) ∧
      (paPkg pa ≠ s1.pkg → t.eng.raises = s1.eng.raises ∧
        sent t = sent s1 ++ [(paPkg pa, 48, .increment (ctrIndex pa) p.len true, .post p.slot)]))

/-- R85, R200, R342 to R346: what the operations of a matrix queue do whose sources pass their checks. MLDB fills its B slot with the
values of its rows and keeps the reload descriptor it is asked for; a line that fails its check leaves the slot reading zero, with
code 7. MLDA fills its row buffer, with the slice count of its values. MMA adds to each plane of each element of its tile the eight
chunks of 32 products in turn, each rounded once under the key of its element and chunk. MZERO sets every plane of its tile to zero.
MDRAIN writes the elements of its rows in its format, a later row over an earlier one, to a scratchpad, to this package's memory, or as
packets to another package, and leaves the tile. Everything else in storage stays. A chunk all of whose
products are zero leaves a plane as it is; a product is truncated toward zero; a plane rounds in the direction drawn for it, and to
nearest even in single-lane mode. -/
def Obligations.MatrixResults : Prop :=
  (∀ (s : State) (cl co : Nat) (op : MatOp) (rest : List MatOp) (w : Workgroup),
    let m := s.matrix cl co
    let r := op.unit
    let lr := s.lrec r.ident
    s.matReady m = true → m.queue = op :: rest → op.sent = false → op.code = 0 → s.wg? r.ident r.gang op.wg = some w →
    let ends (t : State) (code : Nat) : Prop := exec (.matrixOpComplete cl co) s = .next (t.endMatOp cl co op code)
    let tile (acc off : Nat) : Prop := acc ≤ off ∧ off < acc + lr.tileBytes
    -- The address space counts no accesses (R77): no event record is written for one.
    let uncounted : Prop :=
      (tget 0 s.xlat.asctx (4 * lr.asid + 2)).getLsbD 31 = false ∧ (tget 0 s.xlat.asctx (4 * lr.asid + 2)).getLsbD 23 = false
    (∀ slot src stride reload xl, op.kind = .mldb slot src stride reload xl → slot < 8 → twf 0 m.macros = true →
      let row (k : Nat) : List Loc := (List.range 512).map fun j => s.opLoc op xl (src.toNat + k * stride + j)
      ((∀ k, k < 256 → s.badLine (row k) = none) → ∃ t, ends t 0 ∧ t.wgs = s.wgs ∧ (uncounted → t.mem = s.mem) ∧
        (∀ k n, k < 256 → n < 256 → (t.matrix cl co).bAt slot k n =
          leNat (s.rdLocs [s.opLoc op xl (src.toNat + k * stride + 2 * n), s.opLoc op xl (src.toNat + k * stride + (2 * n + 1))])) ∧
        (∀ o k n, o < 8 → o ≠ slot → k < 256 → n < 256 → (t.matrix cl co).bAt o k n = m.bAt o k n) ∧
        ((t.matrix cl co).reload.filter fun x => x.slot == slot) = (if reload then [⟨slot, src, stride, none⟩] else [])) ∧
      ((∃ k, k < 256 ∧ s.badLine (row k) ≠ none) → ∃ t, ends t 7 ∧ t.wgs = s.wgs ∧
        ∀ k n, k < 256 → n < 256 → (t.matrix cl co).bAt slot k n = 0)) ∧
    (∀ buf off stride, op.kind = .mlda buf off stride → buf < 2 → twf 0 m.rows = true →
      (∀ i, i < 64 → s.poolCheck r op.wg false (off + i * stride) 512 = none) →
      let v (i k : Nat) : Nat := leNat (getBytes w.sp (off + i * stride + 2 * k) 2)
      ∃ t, ends t 0 ∧ t.mem = s.mem ∧ t.wgs = s.wgs ∧
        (∀ i k, i < 64 → k < 256 → (t.matrix cl co).aAt buf i k = v i k ∧ (t.matrix cl co).aAt (1 - buf) i k = m.aAt (1 - buf) i k) ∧
        (let n := if buf = 0 then (t.matrix cl co).slices0 else (t.matrix cl co).slices1
         (n = 2 ∨ n = 4 ∨ n = 8) ∧ (n = 2 ↔ ∀ i k, i < 64 → k < 256 → sigWidth (v i k) ≤ 2) ∧
         (n = 8 ↔ ∃ i k, i < 64 ∧ k < 256 ∧ 4 < sigWidth (v i k)))) ∧
    (∀ acc base step chunk word, op.kind = .mma acc base step chunk word → twf 0 w.acc = true →
      let buf := bits word.toNat 3 1
      let slot := bits word.toNat 0 3
      m.slotCheck slot = none → m.rowsCheck buf = none → s.poolCheck r op.wg true acc lr.tileBytes = none →
      ∃ t v, ends t 0 ∧ t.mem = s.mem ∧ t.eng = s.eng ∧ t.wg? r.ident r.gang op.wg = some v ∧ v.sp = w.sp ∧
        (∀ off, ¬ tile acc off → tget 0 v.acc off = tget 0 w.acc off) ∧
        ∀ p i j, p ∈ lr.planes → i < 64 → j < 256 → v.accWord (tileOff acc p i j) =
          (List.range 8).foldl (fun x k => addChunk lr ((base + i * step + j) % 2 ^ 32) (chunk + k) (bits word.toNat 16 16) p x
            ((List.range 32).map fun l => (m.aAt buf i (32 * k + l), m.bAt slot (32 * k + l) j))) (w.accWord (tileOff acc p i j))) ∧
    (∀ acc, op.kind = .mzero acc → ∃ t v, ends t 0 ∧ t.mem = s.mem ∧ t.eng = s.eng ∧ t.wg? r.ident r.gang op.wg = some v ∧ v.sp = w.sp ∧
      ∀ off, tget 0 v.acc off = if acc ≤ off ∧ off < acc + lr.tileBytes then 0 else tget 0 w.acc off) ∧
    (∀ acc (dst : DWord) stride fmt xl, op.kind = .mdrain acc dst stride fmt xl → fmt < 4 →
      s.poolCheck r op.wg true acc lr.tileBytes = none → (∀ o ∈ s.fab.out, o.origin ≠ .matrix op.id) →
      let e := if fmt = 0 then 12 else if fmt = 3 then 2 else 4
      let c (p i j : Nat) : Nat := w.accWord (tileOff acc p i j)
      let elem (i j : Nat) : List Byte :=
        if fmt = 0 then leBytes 4 (c 0 i j) ++ leBytes 4 (c 1 i j) ++ leBytes 4 (c 2 i j)
        else if fmt = 1 then leBytes 4 (mdWord (c 0 i j) (c 1 i j) (c 2 i j))
        else if fmt = 2 then leBytes 4 (c 0 i j)
        else leBytes 2 (match (if lr.single then some (c 0 i j) else f32.median (c 0 i j) (c 1 i j) (c 2 i j)) with
          | some y => (bf16.ofFV .near (f32.decode y)).1
          | none => bf16.qnan)
      let row (i : Nat) : List Byte := (List.range 256).flatMap (elem i)
      -- The byte `b` of row `i` is not written again by a later row.
      let last (i b : Nat) : Prop := i < 64 ∧ b < 256 * e ∧ (i = 63 ∨ b < stride)
      (∀ g lo x, s.wg? r.ident r.gang g = some x → twf 0 x.sp = true →
        (∀ i k, i < 64 → k < 256 * e → s.opLoc op xl (dst.toNat + i * stride + k) = .sp r.ident r.gang g (lo + i * stride + k)) →
        ∃ t v, ends t 0 ∧ t.mem = s.mem ∧ t.eng = s.eng ∧ t.wg? r.ident r.gang g = some v ∧ v.acc = x.acc ∧
          (∀ i b, last i b → tget 0 v.sp (lo + i * stride + b) = ((row i)[b]?).getD 0) ∧
          ∀ a, (∀ i, i < 64 → a < lo + i * stride ∨ lo + i * stride + 256 * e ≤ a) → tget 0 v.sp a = tget 0 x.sp a) ∧
      (∀ at_ : Nat → Nat, memoryInv s → uncounted →
        let used (a : Nat) : Prop := ∃ i b, i < 64 ∧ b < 256 * e ∧ a = i * stride + b
        (∀ i k, i < 64 → k < 256 * e → s.opLoc op xl (dst.toNat + i * stride + k) = .mem (at_ (i * stride + k))) →
        (∀ a b, used a → used b → at_ a = at_ b → a = b) →
        ((∀ a, used a → paPkg (at_ a) = s.pkg) → ∃ t, ends t 0 ∧ t.wgs = s.wgs ∧ t.eng = s.eng ∧ t.fab = s.fab ∧
          (∀ i b, last i b → tget 0 t.mem (at_ (i * stride + b)) = ((row i)[b]?).getD 0) ∧
          ∀ a, (∀ b, used b → a ≠ at_ b) → tget 0 t.mem a = tget 0 s.mem a) ∧
        ((∀ a, used a → paPkg (at_ a) ≠ s.pkg) → ∃ t, exec (.matrixOpComplete cl co) s = .next t ∧ t.wgs = s.wgs ∧ t.mem = s.mem ∧
          (t.matrix cl co).queue = { op with sent := true } :: rest ∧
          t.fab.out.map (fun o => (o.dst, o.pkt.slice, o.pkt.payload, o.origin)) =
            s.fab.out.map (fun o => (o.dst, o.pkt.slice, o.pkt.payload, o.origin)) ++ (List.range 64).flatMap fun i =>
              (splitLines (((List.range (256 * e)).map fun b => at_ (i * stride + b)).zip (row i))).filterMap fun g =>
                g.head?.map fun b => (paPkg b.1, s.homeSlice b.1, .write (paLocal b.1) (g.map Prod.snd), .matrix op.id))))) ∧
  (∀ (lr : LaunchRec) (elem chunk tag p old : Nat) (ps : List (Nat × Nat)),
    let product (x : Nat × Nat) : FV := ((bf16.decode x.1).mul (bf16.decode x.2)).1
    ((∀ x ∈ ps, ∃ n e, product x = .fin n 0 e) → addChunk lr elem chunk tag p old ps = old) ∧
    (∀ x, chunkSum ps = some x → addChunk lr elem chunk tag p old ps =
      (f32.finish (planeDir lr elem chunk tag p) ((f32.decode old).add (planeDir lr elem chunk tag p) x)).1) ∧
    (∀ q n m e, let v := truncTo q (.fin n m e)
      (q ≤ e → v = (if n then -1 else 1) * (m * 2 ^ (e - q).toNat : Nat)) ∧
      (e < q → v = (if n then -1 else 1) * (m / 2 ^ (q - e).toNat : Nat))) ∧
    planeDir lr elem chunk tag p = (if lr.single then .near
      else if (chunkDraw lr.seed elem chunk tag).getLsbD p then .up else .down))

/-- R352 to R354, R358 to R360, R363: what a vocabulary tile and a meld compute. A panel that has arrived adds its chunks of 32 products to
the logits of its rows and tokens, in each plane, under the key of row, token and chunk. The commit of a streaming tile writes each
row's record: the maximum, the sum rescaled to it and rounded once, the label's logits when the label is in the tile, and the best
entries; and names the next tile. A regeneration, once the panels of a
tile have arrived, adds to its dH planes the products of the gradients of the tile with the weights of the window, in chunks of 32
tokens, and asks for one reducing copy of the tile's dW elements, the median of their planes; its commit only names the next tile. A
meld, or a move, writes the left records of its rows and nothing else, and neither does with a nonzero reserved field in a record's
header (that a move judges the headers of both sides is log entry 125, the model's reading). The best entries are those
of largest key, and of the smaller token where keys are equal. An exponential is two roundings, each under its own chunk. -/
def Obligations.VocabularyResults : Prop :=
  (∀ (s : State) (q : CopyReq) (co : Nat) (op : MatOp) (rest : List MatOp) (j : VocabJob) (w : Workgroup),
    let m := s.matrix q.cluster co
    let r := op.unit
    let lr := s.lrec r.ident
    let d := VDesc.of j.desc
    m.queue = op :: rest → op.kind = .vocab j → r = q.unit → op.code = 0 → s.wg? r.ident r.gang op.wg = some w → twf 0 w.acc = true →
    d.rows ≤ 64 → s.poolCheck r op.wg false (d.ring + (j.tile * d.dblk + j.block) % d.ringN * 131072) 131072 = none →
    s.tileSources m op j = none →
    ∃ v, (s.vocabDone q co false 0).wg? r.ident r.gang op.wg = some v ∧ v.sp = w.sp ∧ (s.vocabDone q co false 0).mem = s.mem ∧
      ∀ p i x, p ∈ lr.planes → i < d.rows → x < min 256 (d.tokCnt - 256 * j.tile) → v.logit d p i x =
        (List.range 8).foldl (fun a c =>
          addChunk lr (elemOf ((d.rowKey + i) % 2 ^ 32) (d.tokBase + 256 * j.tile + x)) (8 * j.block + c) d.tag p a
            ((List.range 32).map fun k => (m.hidden d i (256 * j.block + (32 * c + k)),
              leNat (getBytes w.sp (d.ring + (j.tile * d.dblk + j.block) % d.ringN * 131072 + 512 * x + 2 * (32 * c + k)) 2))))
          (w.logit d p i x)) ∧
  (∀ (s : State) (cl co : Nat) (op : MatOp) (rest : List MatOp) (j : VocabJob) (w : Workgroup),
    let m := s.matrix cl co
    let r := op.unit
    let lr := s.lrec r.ident
    let d := VDesc.of j.desc
    let place (i : Nat) : Bool × Nat := ((recordPlaces d lr)[i]?).getD (true, 0)
    let old (i : Nat) : RowRec := RowRec.of (w.recGet (place i) (64 + 8 * d.k))
    s.tileReady m = true → m.queue = op :: rest → op.kind = .vocab j → j.regen = false → s.wg? r.ident r.gang op.wg = some w →
    twf 0 w.sp = true → twf 0 w.acc = true → (∀ i, i < d.rows → (old i).k = d.k) → fitCount (recordPlaces d lr) = d.rows →
    ∃ (t : State) (v : Workgroup), exec (.vocabTileCommit cl co) s = .next (t.kick cl co) ∧ t.mem = s.mem ∧ t.wg? r.ident r.gang op.wg = some v ∧
      getBytes v.sp (j.off + 68) 4 = leBytes 4 (j.tile + 1) ∧ (∀ a, a < j.off + 68 ∨ j.off + 72 ≤ a → tget 0 v.sp a = tget 0 w.sp a) ∧
      ∀ i, i < d.rows → ∃ new : RowRec, v.recGet (place i) (64 + 8 * new.ents.length) = new.bytes ∧
        (new.label, new.rkey, new.lo, new.hi, new.k, new.valid, new.tag) =
          ((old i).label, (old i).rkey, (old i).lo, (old i).hi, (old i).k, (old i).valid, (old i).tag) ∧
        (let toks := List.range (min 256 (d.tokCnt - 256 * j.tile))
         let token (x : Nat) : Nat := d.tokBase + 256 * j.tile + x
         let rkey := (d.rowKey + i) % 2 ^ 32
         let key := elemOf rkey (2 ^ 24 - 1)
         let chunk := 2 ^ 41 + 4 * (d.tokBase / 256 + j.tile)
         (∀ p, p ∈ lr.planes →
           let mx := ((old i).mx[p]?).getD 0
           let mx' := toks.foldl (fun a x => (f32.minMax true a (w.logit d p i x)).1) mx
           let f := if mx = f32.infBits true then 0 else expE lr key chunk d.tag p mx mx'
           (new.mx[p]?).getD 0 = mx' ∧ (new.sum[p]?).getD 0 = roundSum (planeDir lr key (chunk + 2) d.tag p)
             (((f32.decode (((old i).sum[p]?).getD 0)).mul (f32.decode f)).1 ::
               toks.map fun x => f32.decode (expE lr (elemOf rkey (token x)) (2 ^ 40) d.tag p (w.logit d p i x) mx'))) ∧
         ((∀ x ∈ toks, token x ≠ (old i).label) → new.lbl = (old i).lbl ∧ new.lseen = (old i).lseen) ∧
         (∀ x ∈ toks, token x = (old i).label → (old i).label ≠ 0xFFFFFFFF → new.lseen = true ∧
           ∀ p, p ∈ lr.planes → (new.lbl[p]?).getD 0 = w.logit d p i x) ∧
         new.ents = bestOf d.k ((old i).ents ++ toks.map fun x =>
           (rankKey lr.single (w.logit d 0 i x) (w.logit d 1 i x) (w.logit d 2 i x), token x)))) ∧
  (∀ (s : State) (cl co : Nat) (op : MatOp) (rest : List MatOp) (j : VocabJob) (w : Workgroup) (cap : Nat) (recs : Bool × Nat × Nat),
    let m := s.matrix cl co
    let r := op.unit
    let lr := s.lrec r.ident
    let d := VDesc.of j.desc
    m.queue = op :: rest → op.kind = .vocab j → op.code = 0 → j.started = true → j.regen = true → j.graded = false → j.waiting = false →
    j.tile < d.tiles → j.block = d.dblk → (d.dwBase = 0 ∨ s.panelRoom cl d.chan = true) →
    s.wg? r.ident r.gang op.wg = some w → twf 0 w.acc = true → s.recRun r op.wg (BitVec.ofNat 32 d.finRec) d.rows = .ok (cap, recs) →
    let present := min 256 (d.tokCnt - 256 * j.tile)
    let token (x : Nat) : Nat := d.tokBase + 256 * j.tile + x
    let grad (p i x : Nat) : Nat :=
      gradient lr d (RowRec.of (s.recBytes r recs (i * (64 + 8 * cap)) 64)) i (token x) p (w.logit d p i x)
    let dn := 256 * d.dnBlk
    let planeAt (p i y : Nat) : Nat := d.dhOff + ((p * d.rows + i) * dn + y) * 4
    let wide := 256 * d.dblk
    let dw (x y p : Nat) : Nat := (List.range 2).foldl (fun a c =>
      addChunk lr (2 ^ 62 + token x * 2 ^ 16 + y) c d.tag p a
        (((List.range 32).filter fun k => 32 * c + k < d.rows).map fun k => (grad p (32 * c + k) x, m.hidden d (32 * c + k) y))) 0
    let t := s.kick cl co
    ∃ v, t.wg? r.ident r.gang op.wg = some v ∧ v.sp = w.sp ∧ t.mem = s.mem ∧
      (∀ p i y, p ∈ lr.planes → i < d.rows → y < dn → v.accWord (planeAt p i y) =
        (List.range 8).foldl (fun a c =>
          addChunk lr (2 ^ 63 + (d.rowKey + i) % 2 ^ 32 * 2 ^ 16 + (256 * d.dloBlk + y)) (d.tokBase / 32 + 8 * j.tile + c) d.tag p a
            (((List.range 32).filter fun k => 32 * c + k < present).map fun k =>
              (grad p i (32 * c + k), (tget 0 j.window (256 * (256 * d.dloBlk + y) + (32 * c + k))).toNat)))
          (w.accWord (planeAt p i y))) ∧
      (∀ off, off < d.dhOff ∨ d.dhOff + 12 * d.rows * dn ≤ off → tget 0 v.acc off = tget 0 w.acc off) ∧
      (d.dwBase = 0 → t.eng.copies = s.eng.copies) ∧
      (d.dwBase ≠ 0 → ∃ q jb, t.eng.copies = s.eng.copies ++ [q] ∧ q.unit = r ∧ q.chan = d.chan ∧ q.phase = .queued ∧
        q.vocab = some (co, true, 256 * j.tile) ∧ q.job = some jb ∧ (jb.sfmt, jb.dfmt, jb.redop) = (3, 3, 3) ∧
        jb.dst = BitVec.ofNat 64 (d.dwBase + 256 * j.tile * d.dwStride) ∧ jb.exts = [wide, present, 1, 1] ∧ jb.dstr = [(d.dwStride : Int), 0, 0] ∧
        ∀ x y, x < present → y < wide → q.data[x * wide + y]? =
          some (BitVec.ofNat 32 (if lr.single then dw x y 0 else (f32.median (dw x y 0) (dw x y 1) (dw x y 2)).getD f32.qnan)))) ∧
  (∀ (s : State) (cl co : Nat) (op : MatOp) (rest : List MatOp) (j : VocabJob) (w : Workgroup),
    let r := op.unit
    s.tileReady (s.matrix cl co) = true → (s.matrix cl co).queue = op :: rest → op.kind = .vocab j → j.regen = true →
    s.wg? r.ident r.gang op.wg = some w → twf 0 w.sp = true →
    ∃ (t : State) (v : Workgroup), exec (.vocabTileCommit cl co) s = .next (t.kick cl co) ∧ t.mem = s.mem ∧ t.eng.copies = s.eng.copies ∧
      t.wg? r.ident r.gang op.wg = some v ∧ v.acc = w.acc ∧ getBytes v.sp (j.off + 68) 4 = leBytes 4 (j.tile + 1) ∧
      ∀ a, a < j.off + 68 ∨ j.off + 72 ≤ a → tget 0 v.sp a = tget 0 w.sp a) ∧
  (∀ (lr : LaunchRec) (d : VDesc) (x : RowRec) (i token p logit : Nat) (neg : Bool) (n : Nat) (e : Int),
    let key := elemOf ((d.rowKey + i) % 2 ^ 32) token
    let dir := planeDir lr key (2 ^ 40 + 2) d.tag p
    let weight := f32.decode (expE lr key (2 ^ 40) d.tag p logit ((x.mx[p]?).getD 0))
    let sum := f32.decode ((x.sum[p]?).getD 0)
    sum = .fin neg (n + 1) e → gradient lr d x i token p logit = (bf16.ofFV dir
      ((((if x.label = token then (weight.add dir sum.negate).1 else weight).mul (f32.decode d.gScale)).1.div sum).1)).1) ∧
  (∀ (s : State) (cl co : Nat) (op : MatOp) (rest : List MatOp) (left right : Word) (n lk rk : Nat) (move : Bool) (lp rp : Bool × Nat × Nat),
    let m := s.matrix cl co
    let r := op.unit
    s.matReady m = true → m.queue = op :: rest → op.sent = false → op.code = 0 → op.kind = .meld left right n move → 1 ≤ n → n ≤ 64 →
    s.recRun r op.wg left n = .ok (lk, lp) → s.recRun r op.wg right n = .ok (rk, rp) → s.meldSources op left right n move = none →
    let l (i : Nat) : List Byte := s.recBytes r lp (i * (64 + 8 * lk)) (64 + 8 * lk)
    let q (i : Nat) : List Byte := s.recBytes r rp (i * (64 + 8 * rk)) (64 + 8 * rk)
    let both (i : Nat) : Bool := (RowRec.of (l i)).valid && (RowRec.of (q i)).valid
    let put (t : State) (i : Nat) (bs : List Byte) : State :=
      t.modWg r.ident r.gang lp.2.1 fun w => w.recPut (lp.1, lp.2.2 + i * (64 + 8 * lk)) bs
    let ends (t : State) (code : Nat) : Prop := exec (.matrixOpComplete cl co) s = .next (t.endMatOp cl co op code)
    let reserved : Prop := ∃ i, i < n ∧ (recReserved (l i) = true ∨ recReserved (q i) = true)
    let apart : Prop := ∃ i, i < n ∧ both i = true ∧ ¬ ((RowRec.of (l i)).k = (RowRec.of (q i)).k ∧ (RowRec.of (l i)).tag = (RowRec.of (q i)).tag ∧
      (RowRec.of (l i)).rkey = (RowRec.of (q i)).rkey ∧ (RowRec.of (l i)).label = (RowRec.of (q i)).label ∧
      (RowRec.of (l i)).hi < (RowRec.of (q i)).lo)
    (reserved → ends s 1) ∧
    (move = true → ¬ reserved → ends ((List.range n).foldl (fun t i => put t i (q i)) s) 0) ∧
    (move = false → ¬ reserved → apart → ends s 15) ∧
    (move = false → ¬ reserved → ¬ apart → ends ((List.range n).foldl (fun t i =>
      if both i then put t i (meldRec (s.lrec r.ident) (RowRec.of (l i)) (RowRec.of (q i))).bytes
      else if (RowRec.of (l i)).valid then t else put t i (q i)) s) 0)) ∧
  (∀ (lr : LaunchRec) (l q : RowRec),
    let x := meldRec lr l q
    let key := elemOf l.rkey (2 ^ 24 - 1)
    let chunk := 2 ^ 42 + 8 * (l.lo * 2 ^ 20 + q.hi)
    (x.label, x.rkey, x.lo, x.hi, x.k, x.valid, x.tag) = (l.label, l.rkey, l.lo, q.hi, l.k, l.valid, l.tag) ∧
    x.lseen = (l.lseen || q.lseen) ∧ x.lbl = (if l.lseen then l.lbl else q.lbl) ∧ x.ents = bestOf l.k (l.ents ++ q.ents) ∧
    ∀ p, p ∈ lr.planes →
      let a := (l.mx[p]?).getD 0
      let b := (q.mx[p]?).getD 0
      let mx := (f32.minMax true a b).1
      let scaled (y : RowRec) (old step : Nat) : FV := ((f32.decode ((y.sum[p]?).getD 0)).mul
        (f32.decode (if old = f32.infBits true then 0 else expE lr key (chunk + step) l.tag p old mx))).1
      (x.mx[p]?).getD 0 = mx ∧ (x.sum[p]?).getD 0 = roundSum (planeDir lr key (chunk + 4) l.tag p) [scaled l a 0, scaled q b 2]) ∧
  (∀ (k : Nat) (es : List (Nat × Nat)), (∀ e ∈ es, (f32.decode e.1).isNan = false) →
    let best := bestOf k es
    let before (a b : Nat × Nat) : Prop := (f32.decode b.1).lt (f32.decode a.1) = true ∨
      ((f32.decode a.1).lt (f32.decode b.1) = false ∧ (f32.decode b.1).lt (f32.decode a.1) = false ∧ a.2 < b.2)
    best.length = min k es.length ∧ (∀ e ∈ best, e ∈ es) ∧ best.Pairwise (fun a b => ¬ before b a) ∧
      ∀ a ∈ es, a ∉ best → ∀ b ∈ best, ¬ before a b) ∧
  (∀ (lr : LaunchRec) (elem chunk tag p a b : Nat),
    let exact := ((f32.decode a).add .near (f32.decode b).negate).1
    let z := (f32.ofFV (planeDir lr elem chunk tag p) (exact.mul (f32.decode 0x3FB8AA3B)).1).1
    expE lr elem chunk tag p a b = (trRepro .exp2 f32 (planeDir lr elem (chunk + 1) tag p) z).1)

/-! ### Events of the fabric -/

/-- R402, R404 to R409, R412, R414: the receiver applies the next packet of a stream and acknowledges it, acknowledges one it has seen,
drops one ahead of a gap, and counts a stale one; an atomic on a line that fails its check is not applied, and its stream goes no
further; the counts of a dealer come to the trigger unit. An acknowledged packet is kept no longer, and shows in what this package knows
of the other's memory; marks and idle entries free the receiver's; a timeout resends, or fails the stream after RETRYMAX resends: it
ends with an abort mark, and a copy that it carried finishes with code 10, or 7 where the line is known to fail its check. A drain is
over once every token is back, and another package's token goes back on a link that is up. That an acknowledged packet shows in an image
of the other's memory is log entry 57, that a peer's token goes back at once log entry 82 (both DESIGN CHOICE), and that an atomic on a
bad line is recorded and not acknowledged log entry 121: these are the model's choices. -/
def Obligations.FabricEvents : Prop :=
  (∀ (s : State) (p : Packet), s.fromFar p = true → rightPlace p = true →
    exec (.remoteIncrement p) s = exec (.fabricPacket p) s ∧
    let run : Out := exec (.fabricPacket p) s
    let hwm : Word := ((s.fab.hwm.find? fun x => x.key == p.key && x.slice == p.slice).map HwmEntry.hwm).getD 0
    let known (t : State) : Prop :=
      (t.fab.hwm.find? fun x => x.key == p.key && x.slice == p.slice) = some ⟨p.key, p.slice, p.seq⟩
    (s.stale p.key.ident = true → ∃ t, run = .next t ∧ t.fab.stale = s.fab.stale + 1 ∧ t.mem = s.mem ∧ t.ctrs = s.ctrs ∧
      t.outputs = s.outputs) ∧
    (s.stale p.key.ident = false → (s.fab.hwm.filter fun x => x.slice == p.slice).length < 8192 →
      (p.seq ≠ hwm + 1 → ∃ t, run = .next t ∧ t.mem = s.mem ∧ t.ctrs = s.ctrs ∧
        t.outputs = s.outputs ++ (if (hwm - p.seq).toNat < 2 ^ 31 then [.ack p.key p.slice p.seq] else [])) ∧
      (∀ i v b, twf 0 s.ctrs = true → p.payload = .increment i v b → p.seq = hwm + 1 → ∃ t, run = .next t ∧ t.mem = s.mem ∧
        tget 0 t.ctrs (i % 4096) = tget 0 s.ctrs (i % 4096) + v ∧ t.outputs = s.outputs ++ [.ack p.key p.slice p.seq] ∧ known t) ∧
      (∀ a data, memoryInv s → p.payload = .write a data → p.seq = hwm + 1 → a % 2 ^ 44 + data.length ≤ 2 ^ 44 →
        let pas := (List.range data.length).map fun k => s.ownPa (a + k)
        ∃ t, run = .next t ∧ known t ∧
        ((∀ pa ∈ pas, s.servable pa = true) →
          (∀ k, k < data.length → tget 0 t.mem (s.ownPa (a + k)) = (data[k]?).getD 0) ∧
          (∀ x, x ∉ pas → tget 0 t.mem x = tget 0 s.mem x) ∧
          t.outputs = (s.l2Writes (s.ownPa a) data).outputs ++ [.ack p.key p.slice p.seq]) ∧
        ((∃ pa ∈ pas, s.servable pa = false) → t.mem = s.mem ∧ t.outputs = s.outputs ++ [.ack p.key p.slice p.seq])) ∧
      (∀ a x, p.payload = .atomic a x → p.seq = hwm + 1 →
        let l := Loc.mem (s.ownPa a)
        let bad := s.badLine (locRun l (szfSize x.szf))
        (s.servable (s.ownPa a) = false → ∃ t, run = .next t ∧ t.mem = s.mem ∧ known t ∧
          t.outputs = s.outputs ++ [.ack p.key p.slice p.seq]) ∧
        (s.servable (s.ownPa a) = true → bad = none → ∃ t, run = .next t ∧ t.mem = (s.atomAt l x).2.mem ∧ known t ∧
          t.outputs = (s.atomAt l x).2.outputs ++ [.ack p.key p.slice p.seq]) ∧
        (s.servable (s.ownPa a) = true → bad ≠ none → ∃ t, run = .next t ∧
          (t.fab.hwm.find? fun y => y.key == p.key && y.slice == p.slice) = some ⟨p.key, p.slice, hwm⟩ ∧
          (p.key.unitKind = 2 ∨ p.key.unitKind = 3 → ∀ o ∈ t.outputs.drop s.outputs.length, o ≠ .ack p.key p.slice p.seq))))) ∧
  (∀ (s : State) (o : OutPacket),
    let run (x : OutPacket) : Bool := x.pkt.key == o.pkt.key && x.dst == o.dst && x.pkt.slice == o.pkt.slice
    let mine (x : OutPacket) : Bool := run x && x.pkt.seq == o.pkt.seq
    s.fab.out.find? mine = some o → ∃ t, exec (.fabricAck ⟨o.dst, o.pkt.key⟩ o.pkt.slice o.pkt.seq) s = .next t ∧
      t.fab.out.map OutPacket.pkt = (s.fab.out.filter fun x => !(mine x)).map OutPacket.pkt ∧
      ((∀ x ∈ s.fab.out, run x = true → x = o ∨ x.shown = true ∨ 2 ^ 31 ≤ (o.pkt.seq - x.pkt.seq).toNat) → o.shown = false →
        ∀ a data, o.pkt.payload = .write a data →
          (∀ x, x < o.dst * 2 ^ 44 + a ∨ o.dst * 2 ^ 44 + a + data.length ≤ x → tget 0 t.mem x = tget 0 s.mem x) ∧
          (memoryInv s → t.rdMem (o.dst * 2 ^ 44 + a) data.length = data)) ∧
      ((∀ x ∈ s.fab.out, run x = true → x = o ∨ x.shown = true ∨ 2 ^ 31 ≤ (o.pkt.seq - x.pkt.seq).toNat) → o.shown = false →
        ∀ a x, o.pkt.payload = .atomic a x → (s.fab.out.filter fun y => y == o) = [o] →
          let l := Loc.mem (o.dst * 2 ^ 44 + a)
          s.badLine (locRun l (szfSize x.szf)) = none → t.mem = (s.atomAt l x).2.mem)) ∧
  (∀ (s : State) (key : StreamKey) (slice : Nat),
    let keep (gone : HwmEntry → Bool) : State := { s with fab := { s.fab with hwm := s.fab.hwm.filter fun x => !(gone x) } }
    exec (.streamEndMark key) s = .next (keep fun x => x.key == key) ∧
    exec (.streamAbortMark key) s = .next (keep fun x => x.key == key) ∧
    exec (.hwmEntryExpiry key slice) s = .next (keep fun x => x.key == key && x.slice == slice)) ∧
  (∀ (s : State) (dst : Nat) (key : StreamKey) (slice : Nat) (o : OutPacket),
    let mine (x : OutPacket) : Bool := x.pkt.key == key && x.dst == dst && x.pkt.slice == slice
    s.fab.out.find? mine = some o →
    (o.resends < max 1 s.fab.retryMax.toNat → ∃ t, exec (.endToEndTimeout ⟨dst, key⟩ slice) s = .next t ∧ t.mem = s.mem ∧
      t.outputs = s.outputs ++ (s.fab.out.filter mine).map (fun x => x.origin.output x.dst (s.linkFor x.dst x.pkt.slice) x.pkt) ∧
      t.fab.out = s.fab.out.map fun x => if mine x then { x with resends := o.resends + 1 } else x) ∧
    (max 1 s.fab.retryMax.toNat ≤ o.resends → ∃ t, exec (.endToEndTimeout ⟨dst, key⟩ slice) s = .next t ∧ .abortMark key ∈ t.outputs ∧
      ((∀ l ∈ s.caches.l1, l.dirty = 0) → (∀ x ∈ t.fab.out, x.pkt.key ≠ key) ∧ ∀ x ∈ t.fab.streams, x.key ≠ key) ∧
      (∀ first id, (s.fab.out.find? fun x => x.pkt.key == key) = some first → first.origin = .copy id →
        (∀ x ∈ s.fab.out, x.pkt.key = key → x.origin = .copy id) →
        ∀ x ∈ t.eng.copies, x.id = id →
          (x.phase = .finishing 10 ∨ x.phase = .finishing 7) ∧ (s.checks = [] → x.phase = .finishing 10)))) ∧
  (∀ (s : State) (k : Nat) (l : Link), s.fab.links[k]? = some l →
    (l.en = true → l.gen ≠ 0 → ∃ t, exec (.linkFlitCrcError k) s = .next t ∧ t.mem = s.mem ∧
      t.fab.links[k]? = some { l with retry := if l.retry = 0xFFFFFFFF#32 then l.retry else l.retry + 1 }) ∧
    (∀ gen, l.en = true → gen ≠ 0 → gen ≤ 2 → ∃ t, exec (.damhedanLinkTraining k gen) s = .next t ∧ t.mem = s.mem ∧
      t.fab.links[k]? = some { l with gen := gen }) ∧
    (∃ t, exec (.damhedanLinkDown k) s = .next t ∧ t.mem = s.mem ∧ t.fab.links[k]? = some { l with gen := 0 } ∧
      k ∉ t.fab.draining)) ∧
  (∀ (s : State) (k : Nat),
    (s.fab.draining ≠ [] → exec .drain s = .next s) ∧
    (s.fab.draining = [] → ∃ t, exec .drain s = .next t ∧ t.mem = s.mem ∧ t.outputs = s.outputs ++ t.fab.draining.map .drainToken ∧
      ∀ n, n ∈ t.fab.draining ↔ n < 16 ∧ ∃ l, s.fab.links[n]? = some l ∧ l.en = true ∧ l.gen ≠ 0) ∧
    (∃ t, exec (.drainTokenReturn ⟨k, false⟩) s = .next t ∧ t.mem = s.mem ∧ t.outputs = s.outputs ∧
      ∀ n, n ∈ t.fab.draining ↔ n ∈ s.fab.draining ∧ n ≠ k) ∧
    exec (.drainTokenReturn ⟨k, true⟩) s = .next (if s.linkUp k then { s with outputs := s.outputs ++ [.drainReturn k] } else s)) ∧
  (∀ (s : State) (n : Nat) (v : DWord), n < 1024 → twf 0 s.fab.idtab = true →
    let old := tget 0 s.fab.idtab n
    ∃ t, exec (.idtabWrite n v) s = .next t ∧ t.mem = s.mem ∧ tget 0 t.fab.idtab n = v &&& 0x80000000FFFFFFFF#64 ∧
      (∀ k, k ≠ n → tget 0 t.fab.idtab k = tget 0 s.fab.idtab k) ∧
      (old.getLsbD 63 = true → t.idKnown (old.extractLsb' 0 32) = false → ∀ x ∈ t.fab.hwm, x.key.ident ≠ old.extractLsb' 0 32) ∧
      (old.getLsbD 63 = false → t.fab.hwm = s.fab.hwm))

/-! ### Events of pre-emption and debug -/

/-- R379, R391, R401: a command has the gangs that it names saved, or sets NOTFOUND when it names none; it is ignored while an
earlier one is busy; and once a gang's parties and engines have stopped it has no place, and its launch places it again first. -/
def Obligations.PreemptionEvents : Prop :=
  (∀ (s : State) (c : DWord), c.getLsbD 63 = true →
    let cmd : Instr := if c.getLsbD 62 then .preemptLaunch c else .preemptGang c
    let ident : Word := c.extractLsb' 0 32
    let all := c.getLsbD 62 || (s.lrec ident).persist
    let named (g : Gang) : Bool := g.ident == ident && !g.saved && (all || g.gang == s.dealer.preemptGang.toNat)
    (s.preemptBusy = true → exec cmd s = .next s) ∧
    (s.preemptBusy = false → (∀ g ∈ s.gangs, named g = false) →
      exec cmd s = .next { s with dealer := { s.dealer with preemptNotFound := true } }) ∧
    (s.preemptBusy = false → (s.launch? ident).map Launch.cancelled = some false → (∃ g ∈ s.gangs, named g = true) →
      ∃ t, exec cmd s = .next t ∧ t.mem = s.mem ∧ t.crews = s.crews ∧
        t.gangs = s.gangs.map fun g => if named g then { g with saving := true } else g)) ∧
  (∀ (s : State) (g : Gang), s.gang? g.ident g.gang = some g → g.saving = true → g.saved = false → s.saveReady g = true →
    ∃ t, exec (.preemptSaveDone g.ident g.gang) s = .next t ∧
      (t.gang? g.ident g.gang) = some { g with saving := false, saved := true } ∧
      (∀ c ∈ t.crews, c.ident = g.ident → c.gang = g.gang → c.place = none) ∧
      (∀ i, t.issuer = some i → ¬(i.unit.ident = g.ident ∧ i.unit.gang = g.gang)) ∧
      (∀ l, s.launch? g.ident = some l → (t.launch? g.ident).map Launch.returned =
        some ((g.gang - l.lr.rankOf s.pkg) / l.lr.setSize :: l.returned)) ∧
      (g.ident, g.gang) ∉ t.dealer.preempting)

/-- R157, R383, R421 to R423, R426 to R428: STOP halts a partition and RESUME lets it go on; STEP issues one instruction of the crew
named; CTRCLR clears the counters. A cycle chooses, of the candidates, the one of the largest WAIT where that is 56 or more, else one of
the highest priority class, the oldest where several are equal; of its two ready slots the one that did not issue last; and the WAIT of
every other candidate rises. It is charged to TOTAL and to one leaf, and none is while the partition is stopped. While SAMPLE is 1 each
period of cycles adds a sample record of the crew and leaf of that cycle, which is written, or dropped when the ring is full. The mailbox
dumps a crew of a stopped partition or writes one of its register lanes, of any class, and answers 1 where there is no such crew and 2
where there is no such register. That the cycles of a period are counted from 0 while SAMPLE is 1 is log entry 106, result 2 for a class
or number that does not exist log entry 90, and for an invalid number format log entry 114: these are the model's readings. -/
def Obligations.DebugEvents : Prop :=
  (∀ (s : State) (p : Nat), s.pidExists p = true →
    let d := s.part p
    (d.halted = false → ∃ t, exec (.dbgStop p) s = .next t ∧
      t.part p = { d with halted := true, why := 1, num := 0, tag := 0, cplace := 0 } ∧ t.crews = s.crews) ∧
    (d.halted = true → exec (.dbgStop p) s = .next s) ∧
    (d.halted = true → ∃ t, exec (.dbgResume p) s = .next t ∧ t.mem = s.mem ∧
      t.part p = { d with halted := false, why := 0, num := 0, tag := 0, cplace := 0 }) ∧
    (d.halted = false → exec (.dbgResume p) s = .next s ∧ exec (.dbgStep p) s = .next s) ∧
    (d.halted = true →
      let who := (s.unitAt p d.place.toNat).bind fun u => (u.pickSlot (s.ready u)).map fun k => (u.ref, k)
      ∃ t, exec (.dbgStep p) s = .next t ∧
        t.part p = { d with halted := true, why := if who.isSome then 5 else 6, num := 0, tag := 0, cplace := d.place, spare := 0 } ∧
        (who = none → t.crews = s.crews ∧ t.issuer = s.issuer) ∧
        (∀ r k, who = some (r, k) → t.issuer = some ⟨r, k⟩ ∧
          t.unit? r = (s.unit? r).map fun u => u.setSlot k (u.slot k).trim)) ∧
    (∃ t, exec (.ctrclr p) s = .next t ∧ t.mem = s.mem ∧ t.part p = { d with counters := List.replicate 10 0 }) ∧
    (∀ x rest, d.samples = x :: rest → ∃ t, exec (.sampleTick p) s = .next t ∧ t.crews = s.crews ∧ t.coxes = s.coxes ∧
      t.part p = { d with samples := rest } ∧
      (((s.ring .debug).held = [] ∧ (s.ring .debug).room = true → (t.ring .debug).put = (s.ring .debug).put + 1) ∧
        ((s.ring .debug).room = false → t.mem = s.mem ∧ (t.ring .debug).drop = min ((s.ring .debug).drop + 1) 65535 ∧
          (t.ring .debug).full = true))) ∧
    (d.halted = true → ∃ t, exec (.partitionCycle p) s = .next t ∧ t.crews = s.crews ∧ t.issuer = s.issuer ∧ t.part p = d) ∧
    (d.halted = false → ∃ t leaf spare since samples, exec (.partitionCycle p) s = .next t ∧ t.mem = s.mem ∧ 1 ≤ leaf ∧ leaf ≤ 9 ∧
      t.part p = { d with
        counters := d.counters.mapIdx fun i x => if i = 0 ∨ i = leaf then x + 1 else x
        spare := spare, since := since, samples := samples } ∧
      (let period := 2 ^ max 10 (min 24 d.sper.toNat)
       (d.sample = false → since = 0 ∧ samples = d.samples) ∧
       (d.sample = true → d.since + 1 < period → since = d.since + 1 ∧ samples = d.samples) ∧
       let u := s.tick (pidCluster p / 12)
       leaf = (u.cycleOf p).2 ∧
       (d.sample = true → period ≤ d.since + 1 → since = 0 ∧
         samples = d.samples ++ [u.sampleBytes p (u.cycleOf p).1 (u.cycleOf p).2])) ∧
      (s.residents p = [] → leaf = 9 ∧ t.issuer = s.issuer) ∧
      (let u := s.tick (pidCluster p / 12)
       let us := u.residents p
       let cs := u.candidates us
       (us.map UnitSt.ref).Nodup → (∀ x ∈ us, u.unit? x.ref = some x ∧ u.prio x ≤ 7 ∧ x.waited < 2 ^ 64) →
       (cs = [] → t.issuer = s.issuer) ∧
       (cs ≠ [] → ∃ x ks k, (x, ks) ∈ cs ∧ k ∈ ks ∧ t.issuer = some ⟨x.ref, k⟩ ∧
         (∀ a b, ks = [a, b] → ∀ y, x = .crew y → k = if y.last1 then 0 else 1) ∧
         ((∃ y ∈ cs, 56 ≤ y.1.waited) → 56 ≤ x.waited ∧
           ∀ y ∈ cs, y.1.waited ≤ x.waited ∧ (y.1.waited = x.waited → x.age ≤ y.1.age)) ∧
         ((∀ y ∈ cs, y.1.waited < 56) → ∀ y ∈ cs, u.prio y.1 ≤ u.prio x ∧ (u.prio y.1 = u.prio x → x.age ≤ y.1.age))) ∧
       ∀ x c, x ∈ us → x = .crew c → ∃ v, t.unit? x.ref = some v ∧
         v.waited = if (t.issuer.map Issuer.unit) ≠ some x.ref ∧ ∃ y ∈ cs, y.1 = x then x.waited + 1 else 0))) ∧
  (∀ s : State, s.dbg.mbBusy = true →
    (fldAt s.mailbox 0 1 = 1 → ∃ t, exec .mbReadCrewState s = .next t ∧ t.dbg.mbBusy = false ∧ t.crews = s.crews ∧
      (s.mbCrew = none → t.dbg.mbResult = 1 ∧ t.mem = s.mem) ∧
      (∀ c, s.mbCrew = some c → t.dbg.mbResult = 0 ∧
        (memoryInv s → t.rdMem (s.hostPa (fldAt s.mailbox 8 8)) (s.dumpOf c ++ s.pendingList c).length = s.dumpOf c ++ s.pendingList c))) ∧
    (fldAt s.mailbox 0 1 = 2 → ∃ t, exec .mbWriteRegister s = .next t ∧ t.dbg.mbBusy = false ∧ t.mem = s.mem ∧
      (s.mbCrew = none → t.dbg.mbResult = 1 ∧ t.crews = s.crews) ∧
      (∀ c, s.mbCrew = some c → 6 ≤ fldAt s.mailbox 5 1 → t.dbg.mbResult = 2 ∧ t.crews = s.crews) ∧
      (∀ c, s.mbCrew = some c → s.unit? c.ref = some (.crew c) → fldAt s.mailbox 5 1 = 1 → fldAt s.mailbox 6 1 < 128 → t.dbg.mbResult = 0 ∧
        ∃ y, t.unit? c.ref = some (.crew y) ∧
          (twf 0 c.scal.s = true → y.scal.sget (fldAt s.mailbox 6 1) = BitVec.ofNat 32 (fldAt s.mailbox 8 8))) ∧
      (∀ c cls n, s.mbCrew = some c → s.unit? c.ref = some (.crew c) →
        ([(.v, (s.lrec c.ident).vregs), (.s, 128), (.p, 64), (.q, 16), (.h, 16), (.nf, 4)] : List (RegClass × Nat))[fldAt s.mailbox 5 1]? =
          some (cls, n) →
        let reg := fldAt s.mailbox 6 1
        let lane := fldAt s.mailbox 7 1
        let perLane : Bool := cls == .v || cls == .p
        let v : Word := BitVec.ofNat 32 (fldAt s.mailbox 8 8)
        let v := if cls = .nf then nfFields v else v
        let refused : Prop := n ≤ reg ∨ perLane = true ∧ 96 ≤ lane ∨ cls = .nf ∧ nfValid v = false
        let l := if perLane then lane else 0
        (refused → t.dbg.mbResult = 2 ∧ t.crews = s.crews) ∧
        (¬ refused → t.dbg.mbResult = 0 ∧ t.unit? c.ref = some ((UnitSt.crew c).fill ⟨cls, reg, l, v⟩) ∧
          (twf 0 c.vEmpty = true → twf 0 c.pEmpty = true →
            (((UnitSt.crew c).fill ⟨cls, reg, l, v⟩).emptyLanes cls reg).getLsbD l = false) ∧
          ∀ x ∈ s.crews, x.ref ≠ c.ref → x ∈ t.crews))))

/-! ### Events of the host link and the platform -/

/-- R8, R35, R37, R395 to R397, R413, R414, R416 to R418: an access of the host through BAR2, or over CXL.mem from revision 3 on, reads
what stands at its address, or writes it where there is storage; a write of 4 or 8 bytes at a trigger counter raises it. A home slice
answers a snoop with the line it holds, which is then clean, or gives it up to a write of the host, and sends no line that fails its check; a request of another package is answered from this one's storage, with no data where there is none or a line fails its check,
and an atomic read is a packet of a stream, answered with the value from before; links train to the best that both
ends offer; firmware that is unsigned or older than the fuses leaves the part in recovery; no authenticated request is answered before
the device's algorithm has been negotiated; and a write of a register changes each of its fields by the field's access code and no other
register, or starts the command of a command register. That accesses of other sizes to a trigger page change nothing is log entry 91, the
answers to snoops and the lines that the host may hold are log entry 107, and that a W1S bit reads 0 is log entry 126: these are the
model's readings. -/
def Obligations.PlatformEvents : Prop :=
  -- A write of the host at LOCAL address `l`, and what it leaves.
  let written (s t : State) (l : Nat) (data : List Byte) : Prop :=
    (targetOf (l % 2 ^ 44) ≠ .trigger → t.ctrs = s.ctrs ∧
      ∀ k, k < data.length → s.backed (s.ownPa (l + k)) = true → targetOf (paLocal (s.ownPa (l + k))) ≠ .trigger → memoryInv s →
        tget 0 t.mem (s.ownPa (l + k)) = (data[k]?).getD 0) ∧
    (targetOf (l % 2 ^ 44) = .trigger → t.mem = s.mem ∧
      (l % 16 = 0 → l % 2 ^ 16 < 4096 → data.length = 4 ∨ data.length = 8 → twf 0 s.ctrs = true →
        tget 0 t.ctrs (ctrIndex (s.ownPa l)) = tget 0 s.ctrs (ctrIndex (s.ownPa l)) + BitVec.ofNat 32 (leNat (data.take 4)) ∧
        ∀ k, k ≠ ctrIndex (s.ownPa l) → tget 0 t.ctrs k = tget 0 s.ctrs k) ∧
      (¬ (l % 16 = 0 ∧ l % 2 ^ 16 < 4096 ∧ (data.length = 4 ∨ data.length = 8)) → t.ctrs = s.ctrs)) ∧
    ∀ a, (∀ k, k < data.length → a ≠ s.ownPa (l + k)) → tget 0 t.mem a = tget 0 s.mem a
  -- The bits of a register that a write sets, those that it clears by writing 1, and those that stay; none of a command register.
  let access (g : Reg) : Option (DWord × DWord × DWord) := match g with
    | .ident | .unitcnt | .corecnt0 | .corecnt1 | .route _ | .clmap _ | .linkStat _ | .staleCnt | .drainStat | .mbStat | .dbgStat _
    | .counter .. | .ring _ 2 | .mig _ 3 | .queue _ 3 => some (0, 0, BitVec.allOnes 64)
    | .apwin => some (0x00000FFFC0000000, 0, 0)
    | .ring _ 0 => some (0xFFFFFFFFFFFFF000, 0, 0)
    | .ring _ 1 => some (0x800000000000001F, 0, 0)
    | .ring _ 3 | .preemptGang => some (0xFFFFFFFF, 0, 0)
    | .ring .access 4 => some (0, 0, BitVec.allOnes 64)
    | .ring _ 4 => some (0, 1, 0xFFFFFFFFFFFFFFFE)
    | .asctx _ 0 => some (0x000FFFFFFFFFF001, 0, 0)
    | .asctx _ 1 => some (0x800FFFFF0FFF00FF, 0, 0)
    | .asctx _ 2 => some (0x000000009F9F0000, 0, 0)
    | .replayAddr | .invAddr | .mig _ 0 => some (0x3FFFFFFFFFFF0000, 0, 0)
    | .replayStat => some (0, 2, 0xFFFFFFFF00000000)
    | .invStat | .preemptStat => some (0, 2, 1)
    | .mig _ 1 => some (0x000FFFFFFFFF0000, 0, 0)
    | .queue _ 0 => some (0x000FFFFFFFFFF000, 0, 0)
    | .queue _ 1 => some (0x8000000000003F1F, 0x8000, 0)
    | .etoCtl => some (0xFFFFFFFFFF, 0, 0)
    | .idtab _ => some (0x80000000FFFFFFFF, 0, 0)
    | .dumpBase => some (0xFFFFFFFFFFFFF001, 0, 0)
    | .mbCmd _ | .watch _ 0 | .watch _ 2 => some (BitVec.allOnes 64, 0, 0)
    | .watch _ 1 => some (0xC0FFFFFFFFFFFFFF, 0, 0)
    | .abp .. => some (0xBFFFFFFFFFFFFFFC, 0, 0)
    | _ => none
  let present (s : State) (g : Reg) : Prop := match g with
    | .mig n _ => n < s.xlat.migs.length
    | .queue n _ => n < s.dealer.queues.length
    | .mbCmd k => k < s.dbg.mbCmd.length
    | .watch n _ => n < s.dbg.watches.length
    | .abp p n => s.pidExists p = true ∧ n < (s.part p).abp.length
    | .asctx .. => twf 0 s.xlat.asctx = true
    | .idtab _ => twf 0 s.fab.idtab = true
    | _ => True
  (∀ (s : State) (off n : Nat), 0 < n → off + n ≤ 2 ^ 30 →
    let l := s.plat.apwin.toNat * 2 ^ 30 + off
    (∃ t, exec (.bar2Access off n none) s = .next t ∧ t.crews = s.crews ∧
      (s.badLines l n = [] → t.mem = s.mem ∧
        t.outputs = s.outputs ++ [.hostRead ((List.range n).map fun k => s.hostByte (l + k))])) ∧
    (∀ data, data.length = n → ∃ t, exec (.bar2Access off n (some data)) s = .next t ∧ t.crews = s.crews ∧ written s t l data)) ∧
  (∀ (s : State) (addr n : Nat), 0 < n → 3 ≤ s.plat.cxlRev → addr + n ≤ bits s.plat.unitcnt.toNat 20 12 * 2 ^ 30 →
    let l := 0x010000000000 + addr
    (∃ t, exec (.cxlMemAccess addr n none) s = .next t ∧ t.crews = s.crews ∧
      (s.badLines l n = [] → t.mem = s.mem ∧
        t.outputs = s.outputs ++ [.hostRead ((List.range n).map fun k => s.hostByte (l + k))])) ∧
    (∀ data, data.length = n → ∃ t, exec (.cxlMemAccess addr n (some data)) s = .next t ∧ t.crews = s.crews ∧ written s t l data)) ∧
  (∀ (s : State) (line : Nat) (write : Option (List Byte)),
    let pa := s.hostPa (64 * line)
    let held := s.l2Find (pa / 64)
    (2 ^ 37 ≤ line → exec (.hostSnoop ⟨line, write⟩) s = .next s) ∧
    (line < 2 ^ 37 → (held.isSome = true → s.lineBad pa = false) → ∃ t, exec (.hostSnoop ⟨line, write⟩) s = .next t ∧
      t.outputs = s.outputs ++ [.snoopAnswer line (if held.isSome then s.rdMem pa 64 else [])] ∧ t.crews = s.crews ∧
      (write = none → t.mem = s.mem ∧ (t.l2Find (pa / 64)).map L2Line.dirty = held.map fun _ => false) ∧
      (∀ bs, write = some bs → bs.length = 64 → t.l2Find (pa / 64) = none ∧ (memoryInv s → t.rdMem pa 64 = bs))) ∧
    (line < 2 ^ 37 → held.isSome = true → s.lineBad pa = true → ∃ t, exec (.hostSnoop ⟨line, write⟩) s = .next t ∧ t.crews = s.crews ∧
      t.outputs.getLast? = some (.snoopAnswer line []) ∧
      (∀ bs, write = some bs → bs.length = 64 → t.l2Find (pa / 64) = none ∧ (memoryInv s → t.rdMem pa 64 = bs)))) ∧
  (∀ (s : State) (src addr n : Nat), exec (.remoteReadRequest s.pkg addr n none) s = .next s ∧
    (s.inDomain src = false → exec (.remoteReadRequest src addr n none) s = .next s) ∧
    (src ≠ s.pkg → s.inDomain src = true →
      let pas := (List.range n).map fun k => s.ownPa (addr + k)
      ((∃ pa ∈ pas, s.servable pa = false) → exec (.remoteReadRequest src addr n none) s =
        .next { s with outputs := s.outputs ++ [.remoteRead src []] }) ∧
      ((∀ pa ∈ pas, s.servable pa = true) → s.badLines addr n = [] → ∃ t, exec (.remoteReadRequest src addr n none) s = .next t ∧
        t.mem = s.mem ∧ t.crews = s.crews ∧
        t.outputs = s.outputs ++ [.remoteRead src (pas.map fun pa => tget 0 s.mem pa)]) ∧
      ((∀ pa ∈ pas, s.servable pa = true) → s.badLines addr n ≠ [] → ∃ t, exec (.remoteReadRequest src addr n none) s = .next t ∧
        t.crews = s.crews ∧ t.outputs.getLast? = some (.remoteRead src [])))) ∧
  (∀ (s : State) (p : Packet) (a : Nat) (x : RemoteAtomic), s.fromFar p = true → p.payload = .atomic a x → rightPlace p = true →
    s.stale p.key.ident = false → (s.fab.hwm.filter fun y => y.slice == p.slice).length < 8192 →
    p.seq = ((s.fab.hwm.find? fun y => y.key == p.key && y.slice == p.slice).map HwmEntry.hwm).getD 0 + 1 →
    let l := Loc.mem (s.ownPa a)
    ∃ t, exec (.remoteReadRequest p.key.pkg a (szfSize x.szf) (some p)) s = .next t ∧
      (s.servable (s.ownPa a) = false → t.mem = s.mem ∧
        t.outputs = s.outputs ++ [.ack p.key p.slice p.seq, .remoteRead p.key.pkg []]) ∧
      (s.servable (s.ownPa a) = true → s.badLine (locRun l (szfSize x.szf)) = none → t.mem = (s.atomAt l x).2.mem ∧
        t.outputs = (s.atomAt l x).2.outputs ++
          [.ack p.key p.slice p.seq, .remoteRead p.key.pkg (s.rdMem (s.ownPa a) (szfSize x.szf))])) ∧
  (∀ (s : State) (rev rate width : Nat),
    ((rev < 2 ∨ width < 4) → exec (.cxlLinkTraining rev rate width) s =
      .next { s with plat := { s.plat with cxlRev := 0, cxlRate := 0, cxlWidth := 0 } }) ∧
    (2 ≤ rev → 4 ≤ width → ∃ t, exec (.cxlLinkTraining rev rate width) s = .next t ∧ t.mem = s.mem ∧ t.plat.cxlRev = min 4 rev ∧
      t.plat.cxlRate ≤ rate ∧ t.plat.cxlWidth ≤ width ∧ t.plat.cxlWidth ∈ [4, 8, 16])) ∧
  (∀ (s : State) (die : Nat), die < 4 →
    (∃ t, exec (.supplyDroop die) s = .next t ∧ t.mem = s.mem ∧ t.plat.droop.getLsbD die = true) ∧
    (∃ t, exec (.supplyRecovery die) s = .next t ∧ t.mem = s.mem ∧ t.plat.droop.getLsbD die = false)) ∧
  (∀ (s : State) (images : List FwImage) (cfg : FwConfig), s.plat.booted = false → s.plat.recovery = false →
    ((images = [] ∨ ∃ i ∈ images, i.signed = false ∨ i.version < s.plat.fuse) → exec (.firmwareBoot images cfg) s =
      .next { s with plat := { s.plat with recovery := true } }) ∧
    (images ≠ [] → (∀ i ∈ images, i.signed = true ∧ s.plat.fuse ≤ i.version) → ∃ t, exec (.firmwareBoot images cfg) s = .next t ∧
      t.plat.booted = true ∧ t.plat.recovery = false ∧ t.mem = s.mem ∧ s.plat.fuse ≤ t.plat.fuse ∧ t.plat.pkgnum = cfg.pkgnum ∧
      (∀ i ∈ images, i.raises = true → i.version ≤ t.plat.fuse))) ∧
  (∀ (s : State) (req : SpdmRequest), ∃ t code data, exec (.spdmRequest req) s = .next t ∧ t.mem = s.mem ∧
    t.outputs = s.outputs ++ [.spdm code data] ∧
    (req ≠ .getVersion → req ≠ .getCapabilities → (∀ e, req ≠ .negotiateAlgorithms e) → s.plat.spdmPhase ≠ 3 →
      code = 0x7F ∧ t.plat = s.plat)) ∧
  (∀ (s : State) (off : Nat) (v : DWord), off < 2 ^ 24 →
    (∃ t, exec (.registerWrite off v) s = .next t) ∧
    (regAt off = none → exec (.registerWrite off v) s = .next s) ∧
    (off = 0x08 → ∃ t, exec (.registerWrite off v) s = .next t ∧ t.regRead .apwin = v &&& 0x00000FFFC0000000#64 ∧ t.mem = s.mem) ∧
    (∀ p, regAt off = some (.dbgStat p) → exec (.registerWrite off v) s = .next s) ∧
    (∀ g rw w1c ro, regAt off = some g → access g = some (rw, w1c, ro) → present s g → ∃ t, exec (.registerWrite off v) s = .next t ∧
      t.mem = s.mem ∧ t.crews = s.crews ∧ t.regRead g = (v &&& rw) ||| (s.regRead g &&& w1c &&& ~~~v) ||| (s.regRead g &&& ro) ∧
      ∀ o h, regAt o = some h → h ≠ g → t.regRead h = s.regRead h) ∧
    (∀ p, regAt off = some (.dbgCtl p) → s.pidExists p = true → v &&& 0xE004000000000000 = 0 → ∃ t, exec (.registerWrite off v) s = .next t ∧
      t.mem = s.mem ∧ t.crews = s.crews ∧ t.regRead (.dbgCtl p) = v &&& 0x1FF8000000000000 ∧
      ∀ o h, regAt o = some h → h ≠ .dbgCtl p → t.regRead h = s.regRead h) ∧
    (let command (g : Reg) (i : Instr) : Prop := regAt off = some g → exec (.registerWrite off v) s = exec i s
     command .replayCmd (.replay v) ∧ (v.getLsbD 63 = true → command .drainCmd .drain) ∧ command .preemptCmd (.preemptGang v) ∧
     (∀ n, n < s.xlat.migs.length → command (.mig n 2) (.migrate n v)) ∧
     (∀ n, n < s.dealer.queues.length → command (.queue n 2) (.submissionTailWrite n v)) ∧
     (∀ n, n < s.dbg.watches.length → v.getLsbD 63 = true → command (.watch n 3) (.watchResume n)) ∧
     (v.getLsbD 63 = true → (bits v.toNat 60 3 = 0 → command .invCmd (.invalidateRange (v.extractLsb' 0 32))) ∧
       (bits v.toNat 60 3 = 1 → command .invCmd .invalidateAsid) ∧ (bits v.toNat 60 3 = 2 → command .invCmd .invalidateAll)) ∧
     (∀ p, regAt off = some (.dbgCtl p) → s.pidExists p = true →
       let t := s.setPart p { s.part p with
         place := v.extractLsb' 58 3, claim := v.getLsbD 57, sample := v.getLsbD 56, sper := v.extractLsb' 51 5 }
       let starts (w : DWord) (i : Instr) : Prop := v &&& 0xE004000000000000 = w → exec (.registerWrite off v) s = exec i t
       starts 0x8000000000000000 (.dbgStop p) ∧ starts 0x4000000000000000 (.dbgResume p) ∧ starts 0x2000000000000000 (.dbgStep p) ∧
       starts 0x0004000000000000 (.ctrclr p))))

/-! ### What instructions leave unchanged -/

/-- Beside its destination registers, and in vector and predicate registers only in acting lanes, an instruction of the scalar,
vector, float, packed, lane or bit families changes no register; it only adds to ARITHSTAT's flag bits; the bracket, the limb
binding, the handles, the engine counters, the round and the trap record stay; and so do memory, scratchpads, counters, caches,
engines, launches and every other unit. This holds whenever it takes no trap: the issuer is there and is in a handler as before. -/
def Obligations.RegisterFrame : Prop :=
  ∀ (s t : State) (i : Instr) (c : Ctx) (v : UnitSt), registerOnly i = true → Ready s i c → c.slot.unfinished = none →
    exec i s = .next t → t.unit? c.iss.unit = some v → v.scal.trap.inh = c.u.scal.trap.inh →
    (t.mem = s.mem ∧ t.checks = s.checks ∧ t.ctrs = s.ctrs ∧ t.wgs = s.wgs ∧ t.gangs = s.gangs ∧ t.caches = s.caches ∧
      t.xlat = s.xlat ∧ t.eng = s.eng ∧ t.dealer = s.dealer ∧ t.fab = s.fab ∧ t.plat = s.plat ∧ t.dbg = s.dbg ∧
      t.outputs = s.outputs ∧ t.flight.loads = s.flight.loads ∧ t.flight.stores = s.flight.stores ∧
      t.flight.atomics = s.flight.atomics ∧ t.flight.updates = s.flight.updates ∧ t.flight.limbs = s.flight.limbs ∧
      ∀ r, r ≠ c.iss.unit → t.unit? r = s.unit? r) ∧
    (∀ cls n l, l < 96 → ¬ Target c i cls n l →
      v.runVal ⟨cls, n, 1, 1⟩ l = c.u.runVal ⟨cls, n, 1, 1⟩ l ∧ (v.emptyLanes cls n).getLsbD l = (c.u.emptyLanes cls n).getLsbD l) ∧
    (v.scal.cpy = c.u.scal.cpy ∧ v.scal.net = c.u.scal.net ∧ v.scal.mat = c.u.scal.mat ∧ v.scal.voc = c.u.scal.voc ∧
      v.scal.round = c.u.scal.round ∧ v.scal.trap = c.u.scal.trap ∧ (v.slot (1 - c.iss.slot)) = c.u.slot (1 - c.iss.slot)) ∧
    (∀ x y, c.u = .crew x → v = .crew y → y.arithCtl = x.arithCtl ∧ (∃ w : Word, w.toNat < 256 ∧ y.arithStat = x.arithStat ||| w) ∧
      y.bracket = x.bracket ∧ y.exited = x.exited ∧ y.lanes = x.lanes ∧ y.limbN = x.limbN ∧ y.limbChi = x.limbChi ∧
      y.limbCarry = x.limbCarry ∧ y.place = x.place)
end

