-- ==== Sys2Proof/Laws/Memory.lean ====
section
/-! SUPPORT. The laws of tables, bytes and memory: a read after a write, what a write leaves alone, and that every memory operation keeps the canonical form. -/

namespace Sys2Proof.Laws

open Sys2Proof Sys2Proof.Machine

/-! ### Tables -/

theorem twf_tail {β : Type} [DecidableEq β] {d : β} {k : Nat} {v : β} {r : Tab β} (h : twf d ((k, v) :: r) = true) :
    twf d r = true := by
  cases r with
  | nil => rfl
  | cons x r => simp only [twf, Bool.and_eq_true] at h; exact h.2

theorem twf_head_ne {β : Type} [DecidableEq β] {d : β} {k : Nat} {v : β} {r : Tab β} (h : twf d ((k, v) :: r) = true) : v ≠ d := by
  cases r with
  | nil => simpa [twf] using h
  | cons x r => simp only [twf, Bool.and_eq_true, decide_eq_true_eq] at h; exact h.1.1

/-- Every key of a canonical table's tail lies above its first key. -/
theorem twf_lt {β : Type} [DecidableEq β] {d : β} {k : Nat} {v : β} {r : Tab β} (h : twf d ((k, v) :: r) = true) :
    ∀ x ∈ r, k < x.1 := by
  induction r generalizing k v with
  | nil => simp
  | cons y r ih =>
    obtain ⟨k', v'⟩ := y
    simp only [twf, Bool.and_eq_true, decide_eq_true_eq] at h
    intro x hx
    rcases List.mem_cons.1 hx with rfl | hx
    · exact h.1.2
    · exact Nat.lt_trans h.1.2 (ih h.2 x hx)

theorem twf_cons {β : Type} [DecidableEq β] {d : β} {k : Nat} {v : β} {r : Tab β} (hv : v ≠ d) (hr : twf d r = true)
    (hk : ∀ x ∈ r, k < x.1) : twf d ((k, v) :: r) = true := by
  cases r with
  | nil => simpa [twf] using hv
  | cons y r =>
    obtain ⟨k', v'⟩ := y
    simp only [twf, Bool.and_eq_true, decide_eq_true_eq]
    exact ⟨⟨hv, hk (k', v') List.mem_cons_self⟩, hr⟩

/-- A key below every key of the table is unlisted. -/
theorem tget_below {β : Type} {d : β} {r : Tab β} {n : Nat} (h : ∀ x ∈ r, n < x.1) : tget d r n = d := by
  induction r with
  | nil => rfl
  | cons y r ih =>
    obtain ⟨k, v⟩ := y
    have : n < k := h (k, v) List.mem_cons_self
    simp only [tget, if_neg (Nat.ne_of_gt this)]
    exact ih fun x hx => h x (List.mem_cons_of_mem _ hx)

/-- A write leaves every other key alone. -/
theorem tget_tset_ne {β : Type} [DecidableEq β] {d : β} (t : Tab β) {n k : Nat} (v : β) (h : n ≠ k) :
    tget d (tset d t n v) k = tget d t k := by
  induction t with
  | nil => simp only [tset]; split <;> simp [tget, h]
  | cons y r ih =>
    obtain ⟨m, w⟩ := y
    simp only [tset]
    split
    · split
      · rfl
      · simp [tget, h]
    · split
      · rename_i hm
        subst hm
        split <;> simp [tget, h]
      · simp only [tget]
        split
        · rfl
        · exact ih

/-- A read after a write gives what was written. -/
theorem tget_tset {β : Type} [DecidableEq β] {d : β} (t : Tab β) (n : Nat) (v : β) (h : twf d t = true) :
    tget d (tset d t n v) n = v := by
  induction t with
  | nil => simp only [tset]; split <;> simp_all [tget]
  | cons y r ih =>
    obtain ⟨m, w⟩ := y
    simp only [tset]
    split
    · rename_i hm
      split
      · rename_i hv
        rw [hv]
        refine tget_below fun x hx => ?_
        rcases List.mem_cons.1 hx with rfl | hx
        · exact hm
        · exact Nat.lt_trans hm (twf_lt h x hx)
      · simp [tget]
    · split
      · rename_i hm
        subst hm
        split
        · rename_i hv
          rw [hv]
          exact tget_below (twf_lt h)
        · simp [tget]
      · rename_i hm
        simp only [tget, if_neg (Ne.symm hm)]
        exact ih (twf_tail h)

/-- A read after a write, at any key. -/
theorem tget_tset_if {β : Type} [DecidableEq β] {d : β} (t : Tab β) (n k : Nat) (v : β) (h : twf d t = true) :
    tget d (tset d t n v) k = if k = n then v else tget d t k := by
  split
  · rename_i hk; subst hk; exact tget_tset t k v h
  · rename_i hk; exact tget_tset_ne t v (Ne.symm hk)

theorem tset_mem {β : Type} [DecidableEq β] {d : β} (t : Tab β) (n : Nat) (v : β) : ∀ x ∈ tset d t n v, x = (n, v) ∨ x ∈ t := by
  induction t with
  | nil => simp only [tset]; split <;> simp
  | cons y r ih =>
    obtain ⟨k, w⟩ := y
    simp only [tset]
    intro x hx
    split at hx
    · split at hx
      · exact .inr hx
      · rcases List.mem_cons.1 hx with h | h
        · exact .inl h
        · exact .inr h
    · split at hx
      · split at hx
        · exact .inr (List.mem_cons_of_mem _ hx)
        · rcases List.mem_cons.1 hx with h | h
          · exact .inl h
          · exact .inr (List.mem_cons_of_mem _ h)
      · rcases List.mem_cons.1 hx with h | h
        · exact .inr (h ▸ List.mem_cons_self)
        · rcases ih x h with h | h
          · exact .inl h
          · exact .inr (List.mem_cons_of_mem _ h)

/-- A write keeps the canonical form. -/
theorem twf_tset {β : Type} [DecidableEq β] {d : β} (t : Tab β) (n : Nat) (v : β) (h : twf d t = true) : twf d (tset d t n v) = true := by
  induction t with
  | nil => simp only [tset]; split <;> simp_all [twf]
  | cons y r ih =>
    obtain ⟨k, w⟩ := y
    have hw := twf_head_ne h
    have hr := twf_tail h
    have hk := twf_lt h
    simp only [tset]
    split
    · rename_i hn
      split
      · exact h
      · rename_i hv
        refine twf_cons hv h fun x hx => ?_
        rcases List.mem_cons.1 hx with rfl | hx
        · exact hn
        · exact Nat.lt_trans hn (hk x hx)
    · rename_i hn
      split
      · rename_i he
        subst he
        split
        · exact hr
        · rename_i hv; exact twf_cons hv hr hk
      · rename_i he
        refine twf_cons hw (ih hr) fun x hx => ?_
        rcases tset_mem r n v x hx with rfl | hx
        · have : k < n := by omega
          exact this
        · exact hk x hx

/-! ### Bytes -/

@[simp] theorem leBytes_length (n v : Nat) : (leBytes n v).length = n := by
  induction n generalizing v with
  | zero => rfl
  | succ n ih => simp [leBytes, ih]

@[simp] theorem leNat_leBytes (n v : Nat) : leNat (leBytes n v) = v % 256 ^ n := by
  induction n generalizing v with
  | zero => simp [leBytes, leNat, Nat.mod_one]
  | succ n ih =>
    simp only [leBytes, leNat, ih, BitVec.toNat_ofNat]
    rw [show (256 : Nat) ^ (n + 1) = 256 * 256 ^ n by rw [Nat.pow_succ, Nat.mul_comm], Nat.mod_mul]

theorem leNat_lt (bs : List Byte) : leNat bs < 256 ^ bs.length := by
  induction bs with
  | nil => simp [leNat]
  | cons b r ih =>
    have := b.isLt
    simp only [leNat, List.length_cons, Nat.pow_succ]
    omega

theorem leBytes_leNat (bs : List Byte) : leBytes bs.length (leNat bs) = bs := by
  induction bs with
  | nil => rfl
  | cons b r ih =>
    have hb := b.isLt
    have h1 : (b.toNat + 256 * leNat r) / 256 = leNat r := by omega
    simp only [leBytes, List.length_cons, leNat, h1, ih]
    congr 1
    apply BitVec.eq_of_toNat_eq
    simp only [BitVec.toNat_ofNat]
    omega

@[simp] theorem getBytes_length (m : Tab Byte) (a n : Nat) : (getBytes m a n).length = n := by
  induction n generalizing a with
  | zero => rfl
  | succ n ih => simp [getBytes, ih]

/-- Byte `k` of a run of bytes is the byte at its address. -/
theorem getBytes_get (m : Tab Byte) (a n k : Nat) (h : k < n) : (getBytes m a n)[k]? = some (tget 0 m (a + k)) := by
  induction n generalizing a k with
  | zero => omega
  | succ n ih =>
    cases k with
    | zero => simp [getBytes]
    | succ k =>
      simp only [getBytes, List.getElem?_cons_succ]
      rw [ih (a + 1) k (by omega)]
      congr 2
      omega

/-- Bytes written keep the canonical form. -/
theorem twf_putBytes (m : Tab Byte) (a : Nat) (bs : List Byte) (h : twf 0 m = true) : twf 0 (putBytes m a bs) = true := by
  induction bs generalizing m a with
  | nil => exact h
  | cons b r ih => exact ih _ _ (twf_tset m a b h)

/-- Bytes written leave every byte outside them alone. -/
theorem tget_putBytes_out (m : Tab Byte) (a : Nat) (bs : List Byte) (x : Nat) (h : x < a ∨ a + bs.length ≤ x) :
    tget 0 (putBytes m a bs) x = tget 0 m x := by
  induction bs generalizing m a with
  | nil => rfl
  | cons b r ih =>
    have hl : (b :: r).length = r.length + 1 := rfl
    simp only [putBytes]
    rw [ih (tset 0 m a b) (a + 1) (by omega), tget_tset_ne]
    omega

/-- Bytes written read back. -/
theorem tget_putBytes_in (m : Tab Byte) (a : Nat) (bs : List Byte) (k : Nat) (h : twf 0 m = true) (hk : k < bs.length) :
    tget 0 (putBytes m a bs) (a + k) = (bs[k]?).getD 0 := by
  induction bs generalizing m a k with
  | nil => simp at hk
  | cons b r ih =>
    simp only [putBytes]
    cases k with
    | zero =>
      rw [tget_putBytes_out _ _ _ _ (by omega)]
      simpa using tget_tset m a b h
    | succ k =>
      have := ih (tset 0 m a b) (a + 1) k (twf_tset m a b h) (by simpa using hk)
      rw [show a + (k + 1) = a + 1 + k by omega, this]
      simp

theorem getBytes_putBytes (m : Tab Byte) (a : Nat) (bs : List Byte) (h : twf 0 m = true) :
    getBytes (putBytes m a bs) a bs.length = bs := by
  apply List.ext_getElem?
  intro k
  by_cases hk : k < bs.length
  · rw [getBytes_get _ _ _ _ hk, tget_putBytes_in m a bs k h hk]
    simp [hk]
  · rw [List.getElem?_eq_none (by simpa using hk), List.getElem?_eq_none (by omega)]

/-! ### Global memory -/

/-- A write to global memory keeps its canonical form. -/
theorem wrMem_wf (s : State) (pa : Nat) (bs : List Byte) (h : Memory.wf s.mem = true) : Memory.wf (s.wrMem pa bs).mem = true :=
  twf_putBytes s.mem pa bs h

/-- A write to global memory leaves every byte outside it alone. -/
theorem wrMem_out (s : State) (pa : Nat) (bs : List Byte) (x : Nat) (h : x < pa ∨ pa + bs.length ≤ x) :
    tget 0 (s.wrMem pa bs).mem x = tget 0 s.mem x :=
  tget_putBytes_out s.mem pa bs x h

/-- A read of global memory after a write to the same place. -/
theorem rdMem_wrMem (s : State) (pa : Nat) (bs : List Byte) (h : Memory.wf s.mem = true) :
    (s.wrMem pa bs).rdMem pa bs.length = bs :=
  getBytes_putBytes s.mem pa bs h

theorem reset_mem_wf : Memory.wf State.reset.mem = true := rfl

end Sys2Proof.Laws
end

