-- ==== Sys2Proof/Laws/State.lean ====
section
/-! SUPPORT. What each named update of the state leaves alone, one lemma for each field. -/

namespace Sys2Proof.Laws

open Sys2Proof Sys2Proof.Machine

/-! ### setCrew -/

@[simp] theorem setCrew_inbox (s : State) (c : Crew) : (s.setCrew c).inbox = s.inbox := rfl
@[simp] theorem setCrew_upsets (s : State) (c : Crew) : (s.setCrew c).upsets = s.upsets := rfl
@[simp] theorem setCrew_issuer (s : State) (c : Crew) : (s.setCrew c).issuer = s.issuer := rfl
@[simp] theorem setCrew_free (s : State) (c : Crew) : (s.setCrew c).free = s.free := rfl
@[simp] theorem setCrew_nextId (s : State) (c : Crew) : (s.setCrew c).nextId = s.nextId := rfl
@[simp] theorem setCrew_outputs (s : State) (c : Crew) : (s.setCrew c).outputs = s.outputs := rfl
@[simp] theorem setCrew_coxes (s : State) (c : Crew) : (s.setCrew c).coxes = s.coxes := rfl
@[simp] theorem setCrew_wgs (s : State) (c : Crew) : (s.setCrew c).wgs = s.wgs := rfl
@[simp] theorem setCrew_gangs (s : State) (c : Crew) : (s.setCrew c).gangs = s.gangs := rfl
@[simp] theorem setCrew_mem (s : State) (c : Crew) : (s.setCrew c).mem = s.mem := rfl
@[simp] theorem setCrew_checks (s : State) (c : Crew) : (s.setCrew c).checks = s.checks := rfl
@[simp] theorem setCrew_ctrs (s : State) (c : Crew) : (s.setCrew c).ctrs = s.ctrs := rfl
@[simp] theorem setCrew_caches (s : State) (c : Crew) : (s.setCrew c).caches = s.caches := rfl
@[simp] theorem setCrew_flight (s : State) (c : Crew) : (s.setCrew c).flight = s.flight := rfl
@[simp] theorem setCrew_xlat (s : State) (c : Crew) : (s.setCrew c).xlat = s.xlat := rfl
@[simp] theorem setCrew_dealer (s : State) (c : Crew) : (s.setCrew c).dealer = s.dealer := rfl
@[simp] theorem setCrew_eng (s : State) (c : Crew) : (s.setCrew c).eng = s.eng := rfl
@[simp] theorem setCrew_fab (s : State) (c : Crew) : (s.setCrew c).fab = s.fab := rfl
@[simp] theorem setCrew_plat (s : State) (c : Crew) : (s.setCrew c).plat = s.plat := rfl
@[simp] theorem setCrew_dbg (s : State) (c : Crew) : (s.setCrew c).dbg = s.dbg := rfl

/-! ### setCox -/

@[simp] theorem setCox_inbox (s : State) (c : Cox) : (s.setCox c).inbox = s.inbox := rfl
@[simp] theorem setCox_upsets (s : State) (c : Cox) : (s.setCox c).upsets = s.upsets := rfl
@[simp] theorem setCox_issuer (s : State) (c : Cox) : (s.setCox c).issuer = s.issuer := rfl
@[simp] theorem setCox_free (s : State) (c : Cox) : (s.setCox c).free = s.free := rfl
@[simp] theorem setCox_nextId (s : State) (c : Cox) : (s.setCox c).nextId = s.nextId := rfl
@[simp] theorem setCox_outputs (s : State) (c : Cox) : (s.setCox c).outputs = s.outputs := rfl
@[simp] theorem setCox_crews (s : State) (c : Cox) : (s.setCox c).crews = s.crews := rfl
@[simp] theorem setCox_wgs (s : State) (c : Cox) : (s.setCox c).wgs = s.wgs := rfl
@[simp] theorem setCox_gangs (s : State) (c : Cox) : (s.setCox c).gangs = s.gangs := rfl
@[simp] theorem setCox_mem (s : State) (c : Cox) : (s.setCox c).mem = s.mem := rfl
@[simp] theorem setCox_checks (s : State) (c : Cox) : (s.setCox c).checks = s.checks := rfl
@[simp] theorem setCox_ctrs (s : State) (c : Cox) : (s.setCox c).ctrs = s.ctrs := rfl
@[simp] theorem setCox_caches (s : State) (c : Cox) : (s.setCox c).caches = s.caches := rfl
@[simp] theorem setCox_flight (s : State) (c : Cox) : (s.setCox c).flight = s.flight := rfl
@[simp] theorem setCox_xlat (s : State) (c : Cox) : (s.setCox c).xlat = s.xlat := rfl
@[simp] theorem setCox_dealer (s : State) (c : Cox) : (s.setCox c).dealer = s.dealer := rfl
@[simp] theorem setCox_eng (s : State) (c : Cox) : (s.setCox c).eng = s.eng := rfl
@[simp] theorem setCox_fab (s : State) (c : Cox) : (s.setCox c).fab = s.fab := rfl
@[simp] theorem setCox_plat (s : State) (c : Cox) : (s.setCox c).plat = s.plat := rfl
@[simp] theorem setCox_dbg (s : State) (c : Cox) : (s.setCox c).dbg = s.dbg := rfl

/-! ### setUnit -/

@[simp] theorem setUnit_inbox (s : State) (u : UnitSt) : (s.setUnit u).inbox = s.inbox := by cases u <;> rfl
@[simp] theorem setUnit_upsets (s : State) (u : UnitSt) : (s.setUnit u).upsets = s.upsets := by cases u <;> rfl
@[simp] theorem setUnit_issuer (s : State) (u : UnitSt) : (s.setUnit u).issuer = s.issuer := by cases u <;> rfl
@[simp] theorem setUnit_free (s : State) (u : UnitSt) : (s.setUnit u).free = s.free := by cases u <;> rfl
@[simp] theorem setUnit_nextId (s : State) (u : UnitSt) : (s.setUnit u).nextId = s.nextId := by cases u <;> rfl
@[simp] theorem setUnit_outputs (s : State) (u : UnitSt) : (s.setUnit u).outputs = s.outputs := by cases u <;> rfl
@[simp] theorem setUnit_wgs (s : State) (u : UnitSt) : (s.setUnit u).wgs = s.wgs := by cases u <;> rfl
@[simp] theorem setUnit_gangs (s : State) (u : UnitSt) : (s.setUnit u).gangs = s.gangs := by cases u <;> rfl
@[simp] theorem setUnit_mem (s : State) (u : UnitSt) : (s.setUnit u).mem = s.mem := by cases u <;> rfl
@[simp] theorem setUnit_checks (s : State) (u : UnitSt) : (s.setUnit u).checks = s.checks := by cases u <;> rfl
@[simp] theorem setUnit_ctrs (s : State) (u : UnitSt) : (s.setUnit u).ctrs = s.ctrs := by cases u <;> rfl
@[simp] theorem setUnit_caches (s : State) (u : UnitSt) : (s.setUnit u).caches = s.caches := by cases u <;> rfl
@[simp] theorem setUnit_flight (s : State) (u : UnitSt) : (s.setUnit u).flight = s.flight := by cases u <;> rfl
@[simp] theorem setUnit_xlat (s : State) (u : UnitSt) : (s.setUnit u).xlat = s.xlat := by cases u <;> rfl
@[simp] theorem setUnit_dealer (s : State) (u : UnitSt) : (s.setUnit u).dealer = s.dealer := by cases u <;> rfl
@[simp] theorem setUnit_eng (s : State) (u : UnitSt) : (s.setUnit u).eng = s.eng := by cases u <;> rfl
@[simp] theorem setUnit_fab (s : State) (u : UnitSt) : (s.setUnit u).fab = s.fab := by cases u <;> rfl
@[simp] theorem setUnit_plat (s : State) (u : UnitSt) : (s.setUnit u).plat = s.plat := by cases u <;> rfl
@[simp] theorem setUnit_dbg (s : State) (u : UnitSt) : (s.setUnit u).dbg = s.dbg := by cases u <;> rfl

/-! ### modUnit -/

@[simp] theorem modUnit_inbox (s : State) (r : UnitRef) (f : UnitSt → UnitSt) : (s.modUnit r f).inbox = s.inbox := by unfold State.modUnit; split <;> simp
@[simp] theorem modUnit_upsets (s : State) (r : UnitRef) (f : UnitSt → UnitSt) : (s.modUnit r f).upsets = s.upsets := by unfold State.modUnit; split <;> simp
@[simp] theorem modUnit_issuer (s : State) (r : UnitRef) (f : UnitSt → UnitSt) : (s.modUnit r f).issuer = s.issuer := by unfold State.modUnit; split <;> simp
@[simp] theorem modUnit_free (s : State) (r : UnitRef) (f : UnitSt → UnitSt) : (s.modUnit r f).free = s.free := by unfold State.modUnit; split <;> simp
@[simp] theorem modUnit_nextId (s : State) (r : UnitRef) (f : UnitSt → UnitSt) : (s.modUnit r f).nextId = s.nextId := by unfold State.modUnit; split <;> simp
@[simp] theorem modUnit_outputs (s : State) (r : UnitRef) (f : UnitSt → UnitSt) : (s.modUnit r f).outputs = s.outputs := by unfold State.modUnit; split <;> simp
@[simp] theorem modUnit_wgs (s : State) (r : UnitRef) (f : UnitSt → UnitSt) : (s.modUnit r f).wgs = s.wgs := by unfold State.modUnit; split <;> simp
@[simp] theorem modUnit_gangs (s : State) (r : UnitRef) (f : UnitSt → UnitSt) : (s.modUnit r f).gangs = s.gangs := by unfold State.modUnit; split <;> simp
@[simp] theorem modUnit_mem (s : State) (r : UnitRef) (f : UnitSt → UnitSt) : (s.modUnit r f).mem = s.mem := by unfold State.modUnit; split <;> simp
@[simp] theorem modUnit_checks (s : State) (r : UnitRef) (f : UnitSt → UnitSt) : (s.modUnit r f).checks = s.checks := by unfold State.modUnit; split <;> simp
@[simp] theorem modUnit_ctrs (s : State) (r : UnitRef) (f : UnitSt → UnitSt) : (s.modUnit r f).ctrs = s.ctrs := by unfold State.modUnit; split <;> simp
@[simp] theorem modUnit_caches (s : State) (r : UnitRef) (f : UnitSt → UnitSt) : (s.modUnit r f).caches = s.caches := by unfold State.modUnit; split <;> simp
@[simp] theorem modUnit_flight (s : State) (r : UnitRef) (f : UnitSt → UnitSt) : (s.modUnit r f).flight = s.flight := by unfold State.modUnit; split <;> simp
@[simp] theorem modUnit_xlat (s : State) (r : UnitRef) (f : UnitSt → UnitSt) : (s.modUnit r f).xlat = s.xlat := by unfold State.modUnit; split <;> simp
@[simp] theorem modUnit_dealer (s : State) (r : UnitRef) (f : UnitSt → UnitSt) : (s.modUnit r f).dealer = s.dealer := by unfold State.modUnit; split <;> simp
@[simp] theorem modUnit_eng (s : State) (r : UnitRef) (f : UnitSt → UnitSt) : (s.modUnit r f).eng = s.eng := by unfold State.modUnit; split <;> simp
@[simp] theorem modUnit_fab (s : State) (r : UnitRef) (f : UnitSt → UnitSt) : (s.modUnit r f).fab = s.fab := by unfold State.modUnit; split <;> simp
@[simp] theorem modUnit_plat (s : State) (r : UnitRef) (f : UnitSt → UnitSt) : (s.modUnit r f).plat = s.plat := by unfold State.modUnit; split <;> simp
@[simp] theorem modUnit_dbg (s : State) (r : UnitRef) (f : UnitSt → UnitSt) : (s.modUnit r f).dbg = s.dbg := by unfold State.modUnit; split <;> simp

/-! ### modCrew -/

@[simp] theorem modCrew_inbox (s : State) (r : UnitRef) (f : Crew → Crew) : (s.modCrew r f).inbox = s.inbox := by unfold State.modCrew; split <;> simp
@[simp] theorem modCrew_upsets (s : State) (r : UnitRef) (f : Crew → Crew) : (s.modCrew r f).upsets = s.upsets := by unfold State.modCrew; split <;> simp
@[simp] theorem modCrew_issuer (s : State) (r : UnitRef) (f : Crew → Crew) : (s.modCrew r f).issuer = s.issuer := by unfold State.modCrew; split <;> simp
@[simp] theorem modCrew_free (s : State) (r : UnitRef) (f : Crew → Crew) : (s.modCrew r f).free = s.free := by unfold State.modCrew; split <;> simp
@[simp] theorem modCrew_nextId (s : State) (r : UnitRef) (f : Crew → Crew) : (s.modCrew r f).nextId = s.nextId := by unfold State.modCrew; split <;> simp
@[simp] theorem modCrew_outputs (s : State) (r : UnitRef) (f : Crew → Crew) : (s.modCrew r f).outputs = s.outputs := by unfold State.modCrew; split <;> simp
@[simp] theorem modCrew_coxes (s : State) (r : UnitRef) (f : Crew → Crew) : (s.modCrew r f).coxes = s.coxes := by unfold State.modCrew; split <;> simp
@[simp] theorem modCrew_wgs (s : State) (r : UnitRef) (f : Crew → Crew) : (s.modCrew r f).wgs = s.wgs := by unfold State.modCrew; split <;> simp
@[simp] theorem modCrew_gangs (s : State) (r : UnitRef) (f : Crew → Crew) : (s.modCrew r f).gangs = s.gangs := by unfold State.modCrew; split <;> simp
@[simp] theorem modCrew_mem (s : State) (r : UnitRef) (f : Crew → Crew) : (s.modCrew r f).mem = s.mem := by unfold State.modCrew; split <;> simp
@[simp] theorem modCrew_checks (s : State) (r : UnitRef) (f : Crew → Crew) : (s.modCrew r f).checks = s.checks := by unfold State.modCrew; split <;> simp
@[simp] theorem modCrew_ctrs (s : State) (r : UnitRef) (f : Crew → Crew) : (s.modCrew r f).ctrs = s.ctrs := by unfold State.modCrew; split <;> simp
@[simp] theorem modCrew_caches (s : State) (r : UnitRef) (f : Crew → Crew) : (s.modCrew r f).caches = s.caches := by unfold State.modCrew; split <;> simp
@[simp] theorem modCrew_flight (s : State) (r : UnitRef) (f : Crew → Crew) : (s.modCrew r f).flight = s.flight := by unfold State.modCrew; split <;> simp
@[simp] theorem modCrew_xlat (s : State) (r : UnitRef) (f : Crew → Crew) : (s.modCrew r f).xlat = s.xlat := by unfold State.modCrew; split <;> simp
@[simp] theorem modCrew_dealer (s : State) (r : UnitRef) (f : Crew → Crew) : (s.modCrew r f).dealer = s.dealer := by unfold State.modCrew; split <;> simp
@[simp] theorem modCrew_eng (s : State) (r : UnitRef) (f : Crew → Crew) : (s.modCrew r f).eng = s.eng := by unfold State.modCrew; split <;> simp
@[simp] theorem modCrew_fab (s : State) (r : UnitRef) (f : Crew → Crew) : (s.modCrew r f).fab = s.fab := by unfold State.modCrew; split <;> simp
@[simp] theorem modCrew_plat (s : State) (r : UnitRef) (f : Crew → Crew) : (s.modCrew r f).plat = s.plat := by unfold State.modCrew; split <;> simp
@[simp] theorem modCrew_dbg (s : State) (r : UnitRef) (f : Crew → Crew) : (s.modCrew r f).dbg = s.dbg := by unfold State.modCrew; split <;> simp

/-! ### modLaunch -/

@[simp] theorem modLaunch_inbox (s : State) (n : Word) (f : Launch → Launch) : (s.modLaunch n f).inbox = s.inbox := rfl
@[simp] theorem modLaunch_upsets (s : State) (n : Word) (f : Launch → Launch) : (s.modLaunch n f).upsets = s.upsets := rfl
@[simp] theorem modLaunch_issuer (s : State) (n : Word) (f : Launch → Launch) : (s.modLaunch n f).issuer = s.issuer := rfl
@[simp] theorem modLaunch_free (s : State) (n : Word) (f : Launch → Launch) : (s.modLaunch n f).free = s.free := rfl
@[simp] theorem modLaunch_nextId (s : State) (n : Word) (f : Launch → Launch) : (s.modLaunch n f).nextId = s.nextId := rfl
@[simp] theorem modLaunch_outputs (s : State) (n : Word) (f : Launch → Launch) : (s.modLaunch n f).outputs = s.outputs := rfl
@[simp] theorem modLaunch_crews (s : State) (n : Word) (f : Launch → Launch) : (s.modLaunch n f).crews = s.crews := rfl
@[simp] theorem modLaunch_coxes (s : State) (n : Word) (f : Launch → Launch) : (s.modLaunch n f).coxes = s.coxes := rfl
@[simp] theorem modLaunch_wgs (s : State) (n : Word) (f : Launch → Launch) : (s.modLaunch n f).wgs = s.wgs := rfl
@[simp] theorem modLaunch_gangs (s : State) (n : Word) (f : Launch → Launch) : (s.modLaunch n f).gangs = s.gangs := rfl
@[simp] theorem modLaunch_mem (s : State) (n : Word) (f : Launch → Launch) : (s.modLaunch n f).mem = s.mem := rfl
@[simp] theorem modLaunch_checks (s : State) (n : Word) (f : Launch → Launch) : (s.modLaunch n f).checks = s.checks := rfl
@[simp] theorem modLaunch_ctrs (s : State) (n : Word) (f : Launch → Launch) : (s.modLaunch n f).ctrs = s.ctrs := rfl
@[simp] theorem modLaunch_caches (s : State) (n : Word) (f : Launch → Launch) : (s.modLaunch n f).caches = s.caches := rfl
@[simp] theorem modLaunch_flight (s : State) (n : Word) (f : Launch → Launch) : (s.modLaunch n f).flight = s.flight := rfl
@[simp] theorem modLaunch_xlat (s : State) (n : Word) (f : Launch → Launch) : (s.modLaunch n f).xlat = s.xlat := rfl
@[simp] theorem modLaunch_eng (s : State) (n : Word) (f : Launch → Launch) : (s.modLaunch n f).eng = s.eng := rfl
@[simp] theorem modLaunch_fab (s : State) (n : Word) (f : Launch → Launch) : (s.modLaunch n f).fab = s.fab := rfl
@[simp] theorem modLaunch_plat (s : State) (n : Word) (f : Launch → Launch) : (s.modLaunch n f).plat = s.plat := rfl
@[simp] theorem modLaunch_dbg (s : State) (n : Word) (f : Launch → Launch) : (s.modLaunch n f).dbg = s.dbg := rfl

/-! ### modWg -/

@[simp] theorem modWg_inbox (s : State) (n : Word) (g w : Nat) (f : Workgroup → Workgroup) : (s.modWg n g w f).inbox = s.inbox := rfl
@[simp] theorem modWg_upsets (s : State) (n : Word) (g w : Nat) (f : Workgroup → Workgroup) : (s.modWg n g w f).upsets = s.upsets := rfl
@[simp] theorem modWg_issuer (s : State) (n : Word) (g w : Nat) (f : Workgroup → Workgroup) : (s.modWg n g w f).issuer = s.issuer := rfl
@[simp] theorem modWg_free (s : State) (n : Word) (g w : Nat) (f : Workgroup → Workgroup) : (s.modWg n g w f).free = s.free := rfl
@[simp] theorem modWg_nextId (s : State) (n : Word) (g w : Nat) (f : Workgroup → Workgroup) : (s.modWg n g w f).nextId = s.nextId := rfl
@[simp] theorem modWg_outputs (s : State) (n : Word) (g w : Nat) (f : Workgroup → Workgroup) : (s.modWg n g w f).outputs = s.outputs := rfl
@[simp] theorem modWg_crews (s : State) (n : Word) (g w : Nat) (f : Workgroup → Workgroup) : (s.modWg n g w f).crews = s.crews := rfl
@[simp] theorem modWg_coxes (s : State) (n : Word) (g w : Nat) (f : Workgroup → Workgroup) : (s.modWg n g w f).coxes = s.coxes := rfl
@[simp] theorem modWg_gangs (s : State) (n : Word) (g w : Nat) (f : Workgroup → Workgroup) : (s.modWg n g w f).gangs = s.gangs := rfl
@[simp] theorem modWg_mem (s : State) (n : Word) (g w : Nat) (f : Workgroup → Workgroup) : (s.modWg n g w f).mem = s.mem := rfl
@[simp] theorem modWg_checks (s : State) (n : Word) (g w : Nat) (f : Workgroup → Workgroup) : (s.modWg n g w f).checks = s.checks := rfl
@[simp] theorem modWg_ctrs (s : State) (n : Word) (g w : Nat) (f : Workgroup → Workgroup) : (s.modWg n g w f).ctrs = s.ctrs := rfl
@[simp] theorem modWg_caches (s : State) (n : Word) (g w : Nat) (f : Workgroup → Workgroup) : (s.modWg n g w f).caches = s.caches := rfl
@[simp] theorem modWg_flight (s : State) (n : Word) (g w : Nat) (f : Workgroup → Workgroup) : (s.modWg n g w f).flight = s.flight := rfl
@[simp] theorem modWg_xlat (s : State) (n : Word) (g w : Nat) (f : Workgroup → Workgroup) : (s.modWg n g w f).xlat = s.xlat := rfl
@[simp] theorem modWg_dealer (s : State) (n : Word) (g w : Nat) (f : Workgroup → Workgroup) : (s.modWg n g w f).dealer = s.dealer := rfl
@[simp] theorem modWg_eng (s : State) (n : Word) (g w : Nat) (f : Workgroup → Workgroup) : (s.modWg n g w f).eng = s.eng := rfl
@[simp] theorem modWg_fab (s : State) (n : Word) (g w : Nat) (f : Workgroup → Workgroup) : (s.modWg n g w f).fab = s.fab := rfl
@[simp] theorem modWg_plat (s : State) (n : Word) (g w : Nat) (f : Workgroup → Workgroup) : (s.modWg n g w f).plat = s.plat := rfl
@[simp] theorem modWg_dbg (s : State) (n : Word) (g w : Nat) (f : Workgroup → Workgroup) : (s.modWg n g w f).dbg = s.dbg := rfl

/-! ### wrMem -/

@[simp] theorem wrMem_inbox (s : State) (pa : Nat) (bs : List Byte) : (s.wrMem pa bs).inbox = s.inbox := rfl
@[simp] theorem wrMem_upsets (s : State) (pa : Nat) (bs : List Byte) : (s.wrMem pa bs).upsets = s.upsets := rfl
@[simp] theorem wrMem_issuer (s : State) (pa : Nat) (bs : List Byte) : (s.wrMem pa bs).issuer = s.issuer := rfl
@[simp] theorem wrMem_free (s : State) (pa : Nat) (bs : List Byte) : (s.wrMem pa bs).free = s.free := rfl
@[simp] theorem wrMem_nextId (s : State) (pa : Nat) (bs : List Byte) : (s.wrMem pa bs).nextId = s.nextId := rfl
@[simp] theorem wrMem_outputs (s : State) (pa : Nat) (bs : List Byte) : (s.wrMem pa bs).outputs = s.outputs := rfl
@[simp] theorem wrMem_crews (s : State) (pa : Nat) (bs : List Byte) : (s.wrMem pa bs).crews = s.crews := rfl
@[simp] theorem wrMem_coxes (s : State) (pa : Nat) (bs : List Byte) : (s.wrMem pa bs).coxes = s.coxes := rfl
@[simp] theorem wrMem_wgs (s : State) (pa : Nat) (bs : List Byte) : (s.wrMem pa bs).wgs = s.wgs := rfl
@[simp] theorem wrMem_gangs (s : State) (pa : Nat) (bs : List Byte) : (s.wrMem pa bs).gangs = s.gangs := rfl
@[simp] theorem wrMem_ctrs (s : State) (pa : Nat) (bs : List Byte) : (s.wrMem pa bs).ctrs = s.ctrs := rfl
@[simp] theorem wrMem_caches (s : State) (pa : Nat) (bs : List Byte) : (s.wrMem pa bs).caches = s.caches := rfl
@[simp] theorem wrMem_flight (s : State) (pa : Nat) (bs : List Byte) : (s.wrMem pa bs).flight = s.flight := rfl
@[simp] theorem wrMem_xlat (s : State) (pa : Nat) (bs : List Byte) : (s.wrMem pa bs).xlat = s.xlat := rfl
@[simp] theorem wrMem_dealer (s : State) (pa : Nat) (bs : List Byte) : (s.wrMem pa bs).dealer = s.dealer := rfl
@[simp] theorem wrMem_eng (s : State) (pa : Nat) (bs : List Byte) : (s.wrMem pa bs).eng = s.eng := rfl
@[simp] theorem wrMem_fab (s : State) (pa : Nat) (bs : List Byte) : (s.wrMem pa bs).fab = s.fab := rfl
@[simp] theorem wrMem_plat (s : State) (pa : Nat) (bs : List Byte) : (s.wrMem pa bs).plat = s.plat := rfl
@[simp] theorem wrMem_dbg (s : State) (pa : Nat) (bs : List Byte) : (s.wrMem pa bs).dbg = s.dbg := rfl

/-! ### setMatrix -/

@[simp] theorem setMatrix_inbox (s : State) (m : Matrix) : (s.setMatrix m).inbox = s.inbox := rfl
@[simp] theorem setMatrix_upsets (s : State) (m : Matrix) : (s.setMatrix m).upsets = s.upsets := rfl
@[simp] theorem setMatrix_issuer (s : State) (m : Matrix) : (s.setMatrix m).issuer = s.issuer := rfl
@[simp] theorem setMatrix_free (s : State) (m : Matrix) : (s.setMatrix m).free = s.free := rfl
@[simp] theorem setMatrix_nextId (s : State) (m : Matrix) : (s.setMatrix m).nextId = s.nextId := rfl
@[simp] theorem setMatrix_outputs (s : State) (m : Matrix) : (s.setMatrix m).outputs = s.outputs := rfl
@[simp] theorem setMatrix_crews (s : State) (m : Matrix) : (s.setMatrix m).crews = s.crews := rfl
@[simp] theorem setMatrix_coxes (s : State) (m : Matrix) : (s.setMatrix m).coxes = s.coxes := rfl
@[simp] theorem setMatrix_wgs (s : State) (m : Matrix) : (s.setMatrix m).wgs = s.wgs := rfl
@[simp] theorem setMatrix_gangs (s : State) (m : Matrix) : (s.setMatrix m).gangs = s.gangs := rfl
@[simp] theorem setMatrix_mem (s : State) (m : Matrix) : (s.setMatrix m).mem = s.mem := rfl
@[simp] theorem setMatrix_checks (s : State) (m : Matrix) : (s.setMatrix m).checks = s.checks := rfl
@[simp] theorem setMatrix_ctrs (s : State) (m : Matrix) : (s.setMatrix m).ctrs = s.ctrs := rfl
@[simp] theorem setMatrix_caches (s : State) (m : Matrix) : (s.setMatrix m).caches = s.caches := rfl
@[simp] theorem setMatrix_flight (s : State) (m : Matrix) : (s.setMatrix m).flight = s.flight := rfl
@[simp] theorem setMatrix_xlat (s : State) (m : Matrix) : (s.setMatrix m).xlat = s.xlat := rfl
@[simp] theorem setMatrix_dealer (s : State) (m : Matrix) : (s.setMatrix m).dealer = s.dealer := rfl
@[simp] theorem setMatrix_fab (s : State) (m : Matrix) : (s.setMatrix m).fab = s.fab := rfl
@[simp] theorem setMatrix_plat (s : State) (m : Matrix) : (s.setMatrix m).plat = s.plat := rfl
@[simp] theorem setMatrix_dbg (s : State) (m : Matrix) : (s.setMatrix m).dbg = s.dbg := rfl

/-! ### setPart -/

@[simp] theorem setPart_inbox (s : State) (p : Nat) (d : PartDebug) : (s.setPart p d).inbox = s.inbox := rfl
@[simp] theorem setPart_upsets (s : State) (p : Nat) (d : PartDebug) : (s.setPart p d).upsets = s.upsets := rfl
@[simp] theorem setPart_issuer (s : State) (p : Nat) (d : PartDebug) : (s.setPart p d).issuer = s.issuer := rfl
@[simp] theorem setPart_free (s : State) (p : Nat) (d : PartDebug) : (s.setPart p d).free = s.free := rfl
@[simp] theorem setPart_nextId (s : State) (p : Nat) (d : PartDebug) : (s.setPart p d).nextId = s.nextId := rfl
@[simp] theorem setPart_outputs (s : State) (p : Nat) (d : PartDebug) : (s.setPart p d).outputs = s.outputs := rfl
@[simp] theorem setPart_crews (s : State) (p : Nat) (d : PartDebug) : (s.setPart p d).crews = s.crews := rfl
@[simp] theorem setPart_coxes (s : State) (p : Nat) (d : PartDebug) : (s.setPart p d).coxes = s.coxes := rfl
@[simp] theorem setPart_wgs (s : State) (p : Nat) (d : PartDebug) : (s.setPart p d).wgs = s.wgs := rfl
@[simp] theorem setPart_gangs (s : State) (p : Nat) (d : PartDebug) : (s.setPart p d).gangs = s.gangs := rfl
@[simp] theorem setPart_mem (s : State) (p : Nat) (d : PartDebug) : (s.setPart p d).mem = s.mem := rfl
@[simp] theorem setPart_checks (s : State) (p : Nat) (d : PartDebug) : (s.setPart p d).checks = s.checks := rfl
@[simp] theorem setPart_ctrs (s : State) (p : Nat) (d : PartDebug) : (s.setPart p d).ctrs = s.ctrs := rfl
@[simp] theorem setPart_caches (s : State) (p : Nat) (d : PartDebug) : (s.setPart p d).caches = s.caches := rfl
@[simp] theorem setPart_flight (s : State) (p : Nat) (d : PartDebug) : (s.setPart p d).flight = s.flight := rfl
@[simp] theorem setPart_xlat (s : State) (p : Nat) (d : PartDebug) : (s.setPart p d).xlat = s.xlat := rfl
@[simp] theorem setPart_dealer (s : State) (p : Nat) (d : PartDebug) : (s.setPart p d).dealer = s.dealer := rfl
@[simp] theorem setPart_eng (s : State) (p : Nat) (d : PartDebug) : (s.setPart p d).eng = s.eng := rfl
@[simp] theorem setPart_fab (s : State) (p : Nat) (d : PartDebug) : (s.setPart p d).fab = s.fab := rfl
@[simp] theorem setPart_plat (s : State) (p : Nat) (d : PartDebug) : (s.setPart p d).plat = s.plat := rfl

/-! ### setL1 -/

@[simp] theorem setL1_inbox (s : State) (ls : List L1Line) : (s.setL1 ls).inbox = s.inbox := rfl
@[simp] theorem setL1_upsets (s : State) (ls : List L1Line) : (s.setL1 ls).upsets = s.upsets := rfl
@[simp] theorem setL1_issuer (s : State) (ls : List L1Line) : (s.setL1 ls).issuer = s.issuer := rfl
@[simp] theorem setL1_free (s : State) (ls : List L1Line) : (s.setL1 ls).free = s.free := rfl
@[simp] theorem setL1_nextId (s : State) (ls : List L1Line) : (s.setL1 ls).nextId = s.nextId := rfl
@[simp] theorem setL1_outputs (s : State) (ls : List L1Line) : (s.setL1 ls).outputs = s.outputs := rfl
@[simp] theorem setL1_crews (s : State) (ls : List L1Line) : (s.setL1 ls).crews = s.crews := rfl
@[simp] theorem setL1_coxes (s : State) (ls : List L1Line) : (s.setL1 ls).coxes = s.coxes := rfl
@[simp] theorem setL1_wgs (s : State) (ls : List L1Line) : (s.setL1 ls).wgs = s.wgs := rfl
@[simp] theorem setL1_gangs (s : State) (ls : List L1Line) : (s.setL1 ls).gangs = s.gangs := rfl
@[simp] theorem setL1_mem (s : State) (ls : List L1Line) : (s.setL1 ls).mem = s.mem := rfl
@[simp] theorem setL1_checks (s : State) (ls : List L1Line) : (s.setL1 ls).checks = s.checks := rfl
@[simp] theorem setL1_ctrs (s : State) (ls : List L1Line) : (s.setL1 ls).ctrs = s.ctrs := rfl
@[simp] theorem setL1_flight (s : State) (ls : List L1Line) : (s.setL1 ls).flight = s.flight := rfl
@[simp] theorem setL1_xlat (s : State) (ls : List L1Line) : (s.setL1 ls).xlat = s.xlat := rfl
@[simp] theorem setL1_dealer (s : State) (ls : List L1Line) : (s.setL1 ls).dealer = s.dealer := rfl
@[simp] theorem setL1_eng (s : State) (ls : List L1Line) : (s.setL1 ls).eng = s.eng := rfl
@[simp] theorem setL1_fab (s : State) (ls : List L1Line) : (s.setL1 ls).fab = s.fab := rfl
@[simp] theorem setL1_plat (s : State) (ls : List L1Line) : (s.setL1 ls).plat = s.plat := rfl
@[simp] theorem setL1_dbg (s : State) (ls : List L1Line) : (s.setL1 ls).dbg = s.dbg := rfl

/-! ### setMig -/

@[simp] theorem setMig_inbox (s : State) (k : Nat) (m : MigSlot) : (s.setMig k m).inbox = s.inbox := rfl
@[simp] theorem setMig_upsets (s : State) (k : Nat) (m : MigSlot) : (s.setMig k m).upsets = s.upsets := rfl
@[simp] theorem setMig_issuer (s : State) (k : Nat) (m : MigSlot) : (s.setMig k m).issuer = s.issuer := rfl
@[simp] theorem setMig_free (s : State) (k : Nat) (m : MigSlot) : (s.setMig k m).free = s.free := rfl
@[simp] theorem setMig_nextId (s : State) (k : Nat) (m : MigSlot) : (s.setMig k m).nextId = s.nextId := rfl
@[simp] theorem setMig_outputs (s : State) (k : Nat) (m : MigSlot) : (s.setMig k m).outputs = s.outputs := rfl
@[simp] theorem setMig_crews (s : State) (k : Nat) (m : MigSlot) : (s.setMig k m).crews = s.crews := rfl
@[simp] theorem setMig_coxes (s : State) (k : Nat) (m : MigSlot) : (s.setMig k m).coxes = s.coxes := rfl
@[simp] theorem setMig_wgs (s : State) (k : Nat) (m : MigSlot) : (s.setMig k m).wgs = s.wgs := rfl
@[simp] theorem setMig_gangs (s : State) (k : Nat) (m : MigSlot) : (s.setMig k m).gangs = s.gangs := rfl
@[simp] theorem setMig_mem (s : State) (k : Nat) (m : MigSlot) : (s.setMig k m).mem = s.mem := rfl
@[simp] theorem setMig_checks (s : State) (k : Nat) (m : MigSlot) : (s.setMig k m).checks = s.checks := rfl
@[simp] theorem setMig_ctrs (s : State) (k : Nat) (m : MigSlot) : (s.setMig k m).ctrs = s.ctrs := rfl
@[simp] theorem setMig_caches (s : State) (k : Nat) (m : MigSlot) : (s.setMig k m).caches = s.caches := rfl
@[simp] theorem setMig_flight (s : State) (k : Nat) (m : MigSlot) : (s.setMig k m).flight = s.flight := rfl
@[simp] theorem setMig_dealer (s : State) (k : Nat) (m : MigSlot) : (s.setMig k m).dealer = s.dealer := rfl
@[simp] theorem setMig_eng (s : State) (k : Nat) (m : MigSlot) : (s.setMig k m).eng = s.eng := rfl
@[simp] theorem setMig_fab (s : State) (k : Nat) (m : MigSlot) : (s.setMig k m).fab = s.fab := rfl
@[simp] theorem setMig_plat (s : State) (k : Nat) (m : MigSlot) : (s.setMig k m).plat = s.plat := rfl
@[simp] theorem setMig_dbg (s : State) (k : Nat) (m : MigSlot) : (s.setMig k m).dbg = s.dbg := rfl

/-! ### setPost -/

@[simp] theorem setPost_inbox (s : State) (p : Post) : (s.setPost p).inbox = s.inbox := rfl
@[simp] theorem setPost_upsets (s : State) (p : Post) : (s.setPost p).upsets = s.upsets := rfl
@[simp] theorem setPost_issuer (s : State) (p : Post) : (s.setPost p).issuer = s.issuer := rfl
@[simp] theorem setPost_free (s : State) (p : Post) : (s.setPost p).free = s.free := rfl
@[simp] theorem setPost_nextId (s : State) (p : Post) : (s.setPost p).nextId = s.nextId := rfl
@[simp] theorem setPost_outputs (s : State) (p : Post) : (s.setPost p).outputs = s.outputs := rfl
@[simp] theorem setPost_crews (s : State) (p : Post) : (s.setPost p).crews = s.crews := rfl
@[simp] theorem setPost_coxes (s : State) (p : Post) : (s.setPost p).coxes = s.coxes := rfl
@[simp] theorem setPost_wgs (s : State) (p : Post) : (s.setPost p).wgs = s.wgs := rfl
@[simp] theorem setPost_gangs (s : State) (p : Post) : (s.setPost p).gangs = s.gangs := rfl
@[simp] theorem setPost_mem (s : State) (p : Post) : (s.setPost p).mem = s.mem := rfl
@[simp] theorem setPost_checks (s : State) (p : Post) : (s.setPost p).checks = s.checks := rfl
@[simp] theorem setPost_ctrs (s : State) (p : Post) : (s.setPost p).ctrs = s.ctrs := rfl
@[simp] theorem setPost_caches (s : State) (p : Post) : (s.setPost p).caches = s.caches := rfl
@[simp] theorem setPost_flight (s : State) (p : Post) : (s.setPost p).flight = s.flight := rfl
@[simp] theorem setPost_xlat (s : State) (p : Post) : (s.setPost p).xlat = s.xlat := rfl
@[simp] theorem setPost_dealer (s : State) (p : Post) : (s.setPost p).dealer = s.dealer := rfl
@[simp] theorem setPost_fab (s : State) (p : Post) : (s.setPost p).fab = s.fab := rfl
@[simp] theorem setPost_plat (s : State) (p : Post) : (s.setPost p).plat = s.plat := rfl
@[simp] theorem setPost_dbg (s : State) (p : Post) : (s.setPost p).dbg = s.dbg := rfl

/-! ### setCopy -/

@[simp] theorem setCopy_inbox (s : State) (q : CopyReq) : (s.setCopy q).inbox = s.inbox := rfl
@[simp] theorem setCopy_upsets (s : State) (q : CopyReq) : (s.setCopy q).upsets = s.upsets := rfl
@[simp] theorem setCopy_issuer (s : State) (q : CopyReq) : (s.setCopy q).issuer = s.issuer := rfl
@[simp] theorem setCopy_free (s : State) (q : CopyReq) : (s.setCopy q).free = s.free := rfl
@[simp] theorem setCopy_nextId (s : State) (q : CopyReq) : (s.setCopy q).nextId = s.nextId := rfl
@[simp] theorem setCopy_outputs (s : State) (q : CopyReq) : (s.setCopy q).outputs = s.outputs := rfl
@[simp] theorem setCopy_crews (s : State) (q : CopyReq) : (s.setCopy q).crews = s.crews := rfl
@[simp] theorem setCopy_coxes (s : State) (q : CopyReq) : (s.setCopy q).coxes = s.coxes := rfl
@[simp] theorem setCopy_wgs (s : State) (q : CopyReq) : (s.setCopy q).wgs = s.wgs := rfl
@[simp] theorem setCopy_gangs (s : State) (q : CopyReq) : (s.setCopy q).gangs = s.gangs := rfl
@[simp] theorem setCopy_mem (s : State) (q : CopyReq) : (s.setCopy q).mem = s.mem := rfl
@[simp] theorem setCopy_checks (s : State) (q : CopyReq) : (s.setCopy q).checks = s.checks := rfl
@[simp] theorem setCopy_ctrs (s : State) (q : CopyReq) : (s.setCopy q).ctrs = s.ctrs := rfl
@[simp] theorem setCopy_caches (s : State) (q : CopyReq) : (s.setCopy q).caches = s.caches := rfl
@[simp] theorem setCopy_flight (s : State) (q : CopyReq) : (s.setCopy q).flight = s.flight := rfl
@[simp] theorem setCopy_xlat (s : State) (q : CopyReq) : (s.setCopy q).xlat = s.xlat := rfl
@[simp] theorem setCopy_dealer (s : State) (q : CopyReq) : (s.setCopy q).dealer = s.dealer := rfl
@[simp] theorem setCopy_fab (s : State) (q : CopyReq) : (s.setCopy q).fab = s.fab := rfl
@[simp] theorem setCopy_plat (s : State) (q : CopyReq) : (s.setCopy q).plat = s.plat := rfl
@[simp] theorem setCopy_dbg (s : State) (q : CopyReq) : (s.setCopy q).dbg = s.dbg := rfl

/-! ### addStore -/

@[simp] theorem addStore_inbox (s : State) (o : StoreOp) : (s.addStore o).inbox = s.inbox := rfl
@[simp] theorem addStore_upsets (s : State) (o : StoreOp) : (s.addStore o).upsets = s.upsets := rfl
@[simp] theorem addStore_issuer (s : State) (o : StoreOp) : (s.addStore o).issuer = s.issuer := rfl
@[simp] theorem addStore_free (s : State) (o : StoreOp) : (s.addStore o).free = s.free := rfl
@[simp] theorem addStore_nextId (s : State) (o : StoreOp) : (s.addStore o).nextId = s.nextId := rfl
@[simp] theorem addStore_outputs (s : State) (o : StoreOp) : (s.addStore o).outputs = s.outputs := rfl
@[simp] theorem addStore_crews (s : State) (o : StoreOp) : (s.addStore o).crews = s.crews := rfl
@[simp] theorem addStore_coxes (s : State) (o : StoreOp) : (s.addStore o).coxes = s.coxes := rfl
@[simp] theorem addStore_wgs (s : State) (o : StoreOp) : (s.addStore o).wgs = s.wgs := rfl
@[simp] theorem addStore_gangs (s : State) (o : StoreOp) : (s.addStore o).gangs = s.gangs := rfl
@[simp] theorem addStore_mem (s : State) (o : StoreOp) : (s.addStore o).mem = s.mem := rfl
@[simp] theorem addStore_checks (s : State) (o : StoreOp) : (s.addStore o).checks = s.checks := rfl
@[simp] theorem addStore_ctrs (s : State) (o : StoreOp) : (s.addStore o).ctrs = s.ctrs := rfl
@[simp] theorem addStore_caches (s : State) (o : StoreOp) : (s.addStore o).caches = s.caches := rfl
@[simp] theorem addStore_xlat (s : State) (o : StoreOp) : (s.addStore o).xlat = s.xlat := rfl
@[simp] theorem addStore_dealer (s : State) (o : StoreOp) : (s.addStore o).dealer = s.dealer := rfl
@[simp] theorem addStore_eng (s : State) (o : StoreOp) : (s.addStore o).eng = s.eng := rfl
@[simp] theorem addStore_fab (s : State) (o : StoreOp) : (s.addStore o).fab = s.fab := rfl
@[simp] theorem addStore_plat (s : State) (o : StoreOp) : (s.addStore o).plat = s.plat := rfl
@[simp] theorem addStore_dbg (s : State) (o : StoreOp) : (s.addStore o).dbg = s.dbg := rfl

/-! ### putLink -/

@[simp] theorem putLink_inbox (s : State) (k : Nat) (l : Link) : (s.putLink k l).inbox = s.inbox := rfl
@[simp] theorem putLink_upsets (s : State) (k : Nat) (l : Link) : (s.putLink k l).upsets = s.upsets := rfl
@[simp] theorem putLink_issuer (s : State) (k : Nat) (l : Link) : (s.putLink k l).issuer = s.issuer := rfl
@[simp] theorem putLink_free (s : State) (k : Nat) (l : Link) : (s.putLink k l).free = s.free := rfl
@[simp] theorem putLink_nextId (s : State) (k : Nat) (l : Link) : (s.putLink k l).nextId = s.nextId := rfl
@[simp] theorem putLink_outputs (s : State) (k : Nat) (l : Link) : (s.putLink k l).outputs = s.outputs := rfl
@[simp] theorem putLink_crews (s : State) (k : Nat) (l : Link) : (s.putLink k l).crews = s.crews := rfl
@[simp] theorem putLink_coxes (s : State) (k : Nat) (l : Link) : (s.putLink k l).coxes = s.coxes := rfl
@[simp] theorem putLink_wgs (s : State) (k : Nat) (l : Link) : (s.putLink k l).wgs = s.wgs := rfl
@[simp] theorem putLink_gangs (s : State) (k : Nat) (l : Link) : (s.putLink k l).gangs = s.gangs := rfl
@[simp] theorem putLink_mem (s : State) (k : Nat) (l : Link) : (s.putLink k l).mem = s.mem := rfl
@[simp] theorem putLink_checks (s : State) (k : Nat) (l : Link) : (s.putLink k l).checks = s.checks := rfl
@[simp] theorem putLink_ctrs (s : State) (k : Nat) (l : Link) : (s.putLink k l).ctrs = s.ctrs := rfl
@[simp] theorem putLink_caches (s : State) (k : Nat) (l : Link) : (s.putLink k l).caches = s.caches := rfl
@[simp] theorem putLink_flight (s : State) (k : Nat) (l : Link) : (s.putLink k l).flight = s.flight := rfl
@[simp] theorem putLink_xlat (s : State) (k : Nat) (l : Link) : (s.putLink k l).xlat = s.xlat := rfl
@[simp] theorem putLink_dealer (s : State) (k : Nat) (l : Link) : (s.putLink k l).dealer = s.dealer := rfl
@[simp] theorem putLink_eng (s : State) (k : Nat) (l : Link) : (s.putLink k l).eng = s.eng := rfl
@[simp] theorem putLink_plat (s : State) (k : Nat) (l : Link) : (s.putLink k l).plat = s.plat := rfl
@[simp] theorem putLink_dbg (s : State) (k : Nat) (l : Link) : (s.putLink k l).dbg = s.dbg := rfl

/-! ### setRing -/

@[simp] theorem setRing_inbox (s : State) (i : RingId) (r : Ring) : (s.setRing i r).inbox = s.inbox := by cases i <;> rfl
@[simp] theorem setRing_upsets (s : State) (i : RingId) (r : Ring) : (s.setRing i r).upsets = s.upsets := by cases i <;> rfl
@[simp] theorem setRing_issuer (s : State) (i : RingId) (r : Ring) : (s.setRing i r).issuer = s.issuer := by cases i <;> rfl
@[simp] theorem setRing_free (s : State) (i : RingId) (r : Ring) : (s.setRing i r).free = s.free := by cases i <;> rfl
@[simp] theorem setRing_nextId (s : State) (i : RingId) (r : Ring) : (s.setRing i r).nextId = s.nextId := by cases i <;> rfl
@[simp] theorem setRing_outputs (s : State) (i : RingId) (r : Ring) : (s.setRing i r).outputs = s.outputs := by cases i <;> rfl
@[simp] theorem setRing_crews (s : State) (i : RingId) (r : Ring) : (s.setRing i r).crews = s.crews := by cases i <;> rfl
@[simp] theorem setRing_coxes (s : State) (i : RingId) (r : Ring) : (s.setRing i r).coxes = s.coxes := by cases i <;> rfl
@[simp] theorem setRing_wgs (s : State) (i : RingId) (r : Ring) : (s.setRing i r).wgs = s.wgs := by cases i <;> rfl
@[simp] theorem setRing_gangs (s : State) (i : RingId) (r : Ring) : (s.setRing i r).gangs = s.gangs := by cases i <;> rfl
@[simp] theorem setRing_mem (s : State) (i : RingId) (r : Ring) : (s.setRing i r).mem = s.mem := by cases i <;> rfl
@[simp] theorem setRing_checks (s : State) (i : RingId) (r : Ring) : (s.setRing i r).checks = s.checks := by cases i <;> rfl
@[simp] theorem setRing_ctrs (s : State) (i : RingId) (r : Ring) : (s.setRing i r).ctrs = s.ctrs := by cases i <;> rfl
@[simp] theorem setRing_caches (s : State) (i : RingId) (r : Ring) : (s.setRing i r).caches = s.caches := by cases i <;> rfl
@[simp] theorem setRing_flight (s : State) (i : RingId) (r : Ring) : (s.setRing i r).flight = s.flight := by cases i <;> rfl
@[simp] theorem setRing_dealer (s : State) (i : RingId) (r : Ring) : (s.setRing i r).dealer = s.dealer := by cases i <;> rfl
@[simp] theorem setRing_eng (s : State) (i : RingId) (r : Ring) : (s.setRing i r).eng = s.eng := by cases i <;> rfl
@[simp] theorem setRing_fab (s : State) (i : RingId) (r : Ring) : (s.setRing i r).fab = s.fab := by cases i <;> rfl

/-! ### spWrite -/

@[simp] theorem spWrite_inbox (s : State) (r : UnitRef) (w a : Nat) (bs : List Byte) : (s.spWrite r w a bs).inbox = s.inbox := rfl
@[simp] theorem spWrite_upsets (s : State) (r : UnitRef) (w a : Nat) (bs : List Byte) : (s.spWrite r w a bs).upsets = s.upsets := rfl
@[simp] theorem spWrite_issuer (s : State) (r : UnitRef) (w a : Nat) (bs : List Byte) : (s.spWrite r w a bs).issuer = s.issuer := rfl
@[simp] theorem spWrite_free (s : State) (r : UnitRef) (w a : Nat) (bs : List Byte) : (s.spWrite r w a bs).free = s.free := rfl
@[simp] theorem spWrite_nextId (s : State) (r : UnitRef) (w a : Nat) (bs : List Byte) : (s.spWrite r w a bs).nextId = s.nextId := rfl
@[simp] theorem spWrite_outputs (s : State) (r : UnitRef) (w a : Nat) (bs : List Byte) : (s.spWrite r w a bs).outputs = s.outputs := rfl
@[simp] theorem spWrite_crews (s : State) (r : UnitRef) (w a : Nat) (bs : List Byte) : (s.spWrite r w a bs).crews = s.crews := rfl
@[simp] theorem spWrite_coxes (s : State) (r : UnitRef) (w a : Nat) (bs : List Byte) : (s.spWrite r w a bs).coxes = s.coxes := rfl
@[simp] theorem spWrite_gangs (s : State) (r : UnitRef) (w a : Nat) (bs : List Byte) : (s.spWrite r w a bs).gangs = s.gangs := rfl
@[simp] theorem spWrite_mem (s : State) (r : UnitRef) (w a : Nat) (bs : List Byte) : (s.spWrite r w a bs).mem = s.mem := rfl
@[simp] theorem spWrite_checks (s : State) (r : UnitRef) (w a : Nat) (bs : List Byte) : (s.spWrite r w a bs).checks = s.checks := rfl
@[simp] theorem spWrite_ctrs (s : State) (r : UnitRef) (w a : Nat) (bs : List Byte) : (s.spWrite r w a bs).ctrs = s.ctrs := rfl
@[simp] theorem spWrite_caches (s : State) (r : UnitRef) (w a : Nat) (bs : List Byte) : (s.spWrite r w a bs).caches = s.caches := rfl
@[simp] theorem spWrite_flight (s : State) (r : UnitRef) (w a : Nat) (bs : List Byte) : (s.spWrite r w a bs).flight = s.flight := rfl
@[simp] theorem spWrite_xlat (s : State) (r : UnitRef) (w a : Nat) (bs : List Byte) : (s.spWrite r w a bs).xlat = s.xlat := rfl
@[simp] theorem spWrite_dealer (s : State) (r : UnitRef) (w a : Nat) (bs : List Byte) : (s.spWrite r w a bs).dealer = s.dealer := rfl
@[simp] theorem spWrite_eng (s : State) (r : UnitRef) (w a : Nat) (bs : List Byte) : (s.spWrite r w a bs).eng = s.eng := rfl
@[simp] theorem spWrite_fab (s : State) (r : UnitRef) (w a : Nat) (bs : List Byte) : (s.spWrite r w a bs).fab = s.fab := rfl
@[simp] theorem spWrite_plat (s : State) (r : UnitRef) (w a : Nat) (bs : List Byte) : (s.spWrite r w a bs).plat = s.plat := rfl
@[simp] theorem spWrite_dbg (s : State) (r : UnitRef) (w a : Nat) (bs : List Byte) : (s.spWrite r w a bs).dbg = s.dbg := rfl

/-! ### modSlot -/

@[simp] theorem modSlot_inbox (s : State) (c : Ctx) (f : Slot → Slot) : (s.modSlot c f).inbox = s.inbox := by simp [State.modSlot]
@[simp] theorem modSlot_upsets (s : State) (c : Ctx) (f : Slot → Slot) : (s.modSlot c f).upsets = s.upsets := by simp [State.modSlot]
@[simp] theorem modSlot_issuer (s : State) (c : Ctx) (f : Slot → Slot) : (s.modSlot c f).issuer = s.issuer := by simp [State.modSlot]
@[simp] theorem modSlot_free (s : State) (c : Ctx) (f : Slot → Slot) : (s.modSlot c f).free = s.free := by simp [State.modSlot]
@[simp] theorem modSlot_nextId (s : State) (c : Ctx) (f : Slot → Slot) : (s.modSlot c f).nextId = s.nextId := by simp [State.modSlot]
@[simp] theorem modSlot_outputs (s : State) (c : Ctx) (f : Slot → Slot) : (s.modSlot c f).outputs = s.outputs := by simp [State.modSlot]
@[simp] theorem modSlot_wgs (s : State) (c : Ctx) (f : Slot → Slot) : (s.modSlot c f).wgs = s.wgs := by simp [State.modSlot]
@[simp] theorem modSlot_gangs (s : State) (c : Ctx) (f : Slot → Slot) : (s.modSlot c f).gangs = s.gangs := by simp [State.modSlot]
@[simp] theorem modSlot_mem (s : State) (c : Ctx) (f : Slot → Slot) : (s.modSlot c f).mem = s.mem := by simp [State.modSlot]
@[simp] theorem modSlot_checks (s : State) (c : Ctx) (f : Slot → Slot) : (s.modSlot c f).checks = s.checks := by simp [State.modSlot]
@[simp] theorem modSlot_ctrs (s : State) (c : Ctx) (f : Slot → Slot) : (s.modSlot c f).ctrs = s.ctrs := by simp [State.modSlot]
@[simp] theorem modSlot_caches (s : State) (c : Ctx) (f : Slot → Slot) : (s.modSlot c f).caches = s.caches := by simp [State.modSlot]
@[simp] theorem modSlot_flight (s : State) (c : Ctx) (f : Slot → Slot) : (s.modSlot c f).flight = s.flight := by simp [State.modSlot]
@[simp] theorem modSlot_xlat (s : State) (c : Ctx) (f : Slot → Slot) : (s.modSlot c f).xlat = s.xlat := by simp [State.modSlot]
@[simp] theorem modSlot_dealer (s : State) (c : Ctx) (f : Slot → Slot) : (s.modSlot c f).dealer = s.dealer := by simp [State.modSlot]
@[simp] theorem modSlot_eng (s : State) (c : Ctx) (f : Slot → Slot) : (s.modSlot c f).eng = s.eng := by simp [State.modSlot]
@[simp] theorem modSlot_fab (s : State) (c : Ctx) (f : Slot → Slot) : (s.modSlot c f).fab = s.fab := by simp [State.modSlot]
@[simp] theorem modSlot_plat (s : State) (c : Ctx) (f : Slot → Slot) : (s.modSlot c f).plat = s.plat := by simp [State.modSlot]
@[simp] theorem modSlot_dbg (s : State) (c : Ctx) (f : Slot → Slot) : (s.modSlot c f).dbg = s.dbg := by simp [State.modSlot]

/-! ### writeRegs -/

@[simp] theorem writeRegs_inbox (s : State) (c : Ctx) (ws : List RegWrite) : (s.writeRegs c ws).inbox = s.inbox := by simp [State.writeRegs]
@[simp] theorem writeRegs_upsets (s : State) (c : Ctx) (ws : List RegWrite) : (s.writeRegs c ws).upsets = s.upsets := by simp [State.writeRegs]
@[simp] theorem writeRegs_issuer (s : State) (c : Ctx) (ws : List RegWrite) : (s.writeRegs c ws).issuer = s.issuer := by simp [State.writeRegs]
@[simp] theorem writeRegs_free (s : State) (c : Ctx) (ws : List RegWrite) : (s.writeRegs c ws).free = s.free := by simp [State.writeRegs]
@[simp] theorem writeRegs_nextId (s : State) (c : Ctx) (ws : List RegWrite) : (s.writeRegs c ws).nextId = s.nextId := by simp [State.writeRegs]
@[simp] theorem writeRegs_outputs (s : State) (c : Ctx) (ws : List RegWrite) : (s.writeRegs c ws).outputs = s.outputs := by simp [State.writeRegs]
@[simp] theorem writeRegs_wgs (s : State) (c : Ctx) (ws : List RegWrite) : (s.writeRegs c ws).wgs = s.wgs := by simp [State.writeRegs]
@[simp] theorem writeRegs_gangs (s : State) (c : Ctx) (ws : List RegWrite) : (s.writeRegs c ws).gangs = s.gangs := by simp [State.writeRegs]
@[simp] theorem writeRegs_mem (s : State) (c : Ctx) (ws : List RegWrite) : (s.writeRegs c ws).mem = s.mem := by simp [State.writeRegs]
@[simp] theorem writeRegs_checks (s : State) (c : Ctx) (ws : List RegWrite) : (s.writeRegs c ws).checks = s.checks := by simp [State.writeRegs]
@[simp] theorem writeRegs_ctrs (s : State) (c : Ctx) (ws : List RegWrite) : (s.writeRegs c ws).ctrs = s.ctrs := by simp [State.writeRegs]
@[simp] theorem writeRegs_caches (s : State) (c : Ctx) (ws : List RegWrite) : (s.writeRegs c ws).caches = s.caches := by simp [State.writeRegs]
@[simp] theorem writeRegs_flight (s : State) (c : Ctx) (ws : List RegWrite) : (s.writeRegs c ws).flight = s.flight := by simp [State.writeRegs]
@[simp] theorem writeRegs_xlat (s : State) (c : Ctx) (ws : List RegWrite) : (s.writeRegs c ws).xlat = s.xlat := by simp [State.writeRegs]
@[simp] theorem writeRegs_dealer (s : State) (c : Ctx) (ws : List RegWrite) : (s.writeRegs c ws).dealer = s.dealer := by simp [State.writeRegs]
@[simp] theorem writeRegs_eng (s : State) (c : Ctx) (ws : List RegWrite) : (s.writeRegs c ws).eng = s.eng := by simp [State.writeRegs]
@[simp] theorem writeRegs_fab (s : State) (c : Ctx) (ws : List RegWrite) : (s.writeRegs c ws).fab = s.fab := by simp [State.writeRegs]
@[simp] theorem writeRegs_plat (s : State) (c : Ctx) (ws : List RegWrite) : (s.writeRegs c ws).plat = s.plat := by simp [State.writeRegs]
@[simp] theorem writeRegs_dbg (s : State) (c : Ctx) (ws : List RegWrite) : (s.writeRegs c ws).dbg = s.dbg := by simp [State.writeRegs]

/-! ### produce -/

@[simp] theorem produce_inbox (s : State) (c : Ctx) (b : Bool) (ws : List RegWrite) (n : Bool) : (s.produce c b ws n).inbox = s.inbox := by unfold State.produce; split <;> simp [State.newId]
@[simp] theorem produce_upsets (s : State) (c : Ctx) (b : Bool) (ws : List RegWrite) (n : Bool) : (s.produce c b ws n).upsets = s.upsets := by unfold State.produce; split <;> simp [State.newId]
@[simp] theorem produce_issuer (s : State) (c : Ctx) (b : Bool) (ws : List RegWrite) (n : Bool) : (s.produce c b ws n).issuer = s.issuer := by unfold State.produce; split <;> simp [State.newId]
@[simp] theorem produce_free (s : State) (c : Ctx) (b : Bool) (ws : List RegWrite) (n : Bool) : (s.produce c b ws n).free = s.free := by unfold State.produce; split <;> simp [State.newId]
@[simp] theorem produce_outputs (s : State) (c : Ctx) (b : Bool) (ws : List RegWrite) (n : Bool) : (s.produce c b ws n).outputs = s.outputs := by unfold State.produce; split <;> simp [State.newId]
@[simp] theorem produce_wgs (s : State) (c : Ctx) (b : Bool) (ws : List RegWrite) (n : Bool) : (s.produce c b ws n).wgs = s.wgs := by unfold State.produce; split <;> simp [State.newId]
@[simp] theorem produce_gangs (s : State) (c : Ctx) (b : Bool) (ws : List RegWrite) (n : Bool) : (s.produce c b ws n).gangs = s.gangs := by unfold State.produce; split <;> simp [State.newId]
@[simp] theorem produce_mem (s : State) (c : Ctx) (b : Bool) (ws : List RegWrite) (n : Bool) : (s.produce c b ws n).mem = s.mem := by unfold State.produce; split <;> simp [State.newId]
@[simp] theorem produce_checks (s : State) (c : Ctx) (b : Bool) (ws : List RegWrite) (n : Bool) : (s.produce c b ws n).checks = s.checks := by unfold State.produce; split <;> simp [State.newId]
@[simp] theorem produce_ctrs (s : State) (c : Ctx) (b : Bool) (ws : List RegWrite) (n : Bool) : (s.produce c b ws n).ctrs = s.ctrs := by unfold State.produce; split <;> simp [State.newId]
@[simp] theorem produce_caches (s : State) (c : Ctx) (b : Bool) (ws : List RegWrite) (n : Bool) : (s.produce c b ws n).caches = s.caches := by unfold State.produce; split <;> simp [State.newId]
@[simp] theorem produce_xlat (s : State) (c : Ctx) (b : Bool) (ws : List RegWrite) (n : Bool) : (s.produce c b ws n).xlat = s.xlat := by unfold State.produce; split <;> simp [State.newId]
@[simp] theorem produce_dealer (s : State) (c : Ctx) (b : Bool) (ws : List RegWrite) (n : Bool) : (s.produce c b ws n).dealer = s.dealer := by unfold State.produce; split <;> simp [State.newId]
@[simp] theorem produce_eng (s : State) (c : Ctx) (b : Bool) (ws : List RegWrite) (n : Bool) : (s.produce c b ws n).eng = s.eng := by unfold State.produce; split <;> simp [State.newId]
@[simp] theorem produce_fab (s : State) (c : Ctx) (b : Bool) (ws : List RegWrite) (n : Bool) : (s.produce c b ws n).fab = s.fab := by unfold State.produce; split <;> simp [State.newId]
@[simp] theorem produce_plat (s : State) (c : Ctx) (b : Bool) (ws : List RegWrite) (n : Bool) : (s.produce c b ws n).plat = s.plat := by unfold State.produce; split <;> simp [State.newId]
@[simp] theorem produce_dbg (s : State) (c : Ctx) (b : Bool) (ws : List RegWrite) (n : Bool) : (s.produce c b ws n).dbg = s.dbg := by unfold State.produce; split <;> simp [State.newId]

/-! ### issued -/

@[simp] theorem issued_inbox (s : State) (c : Ctx) : (s.issued c).inbox = s.inbox := by unfold State.issued; simp
@[simp] theorem issued_upsets (s : State) (c : Ctx) : (s.issued c).upsets = s.upsets := by unfold State.issued; simp
@[simp] theorem issued_free (s : State) (c : Ctx) : (s.issued c).free = s.free := by unfold State.issued; simp
@[simp] theorem issued_nextId (s : State) (c : Ctx) : (s.issued c).nextId = s.nextId := by unfold State.issued; simp
@[simp] theorem issued_outputs (s : State) (c : Ctx) : (s.issued c).outputs = s.outputs := by unfold State.issued; simp
@[simp] theorem issued_wgs (s : State) (c : Ctx) : (s.issued c).wgs = s.wgs := by unfold State.issued; simp
@[simp] theorem issued_gangs (s : State) (c : Ctx) : (s.issued c).gangs = s.gangs := by unfold State.issued; simp
@[simp] theorem issued_mem (s : State) (c : Ctx) : (s.issued c).mem = s.mem := by unfold State.issued; simp
@[simp] theorem issued_checks (s : State) (c : Ctx) : (s.issued c).checks = s.checks := by unfold State.issued; simp
@[simp] theorem issued_ctrs (s : State) (c : Ctx) : (s.issued c).ctrs = s.ctrs := by unfold State.issued; simp
@[simp] theorem issued_caches (s : State) (c : Ctx) : (s.issued c).caches = s.caches := by unfold State.issued; simp
@[simp] theorem issued_flight (s : State) (c : Ctx) : (s.issued c).flight = s.flight := by unfold State.issued; simp
@[simp] theorem issued_xlat (s : State) (c : Ctx) : (s.issued c).xlat = s.xlat := by unfold State.issued; simp
@[simp] theorem issued_dealer (s : State) (c : Ctx) : (s.issued c).dealer = s.dealer := by unfold State.issued; simp
@[simp] theorem issued_eng (s : State) (c : Ctx) : (s.issued c).eng = s.eng := by unfold State.issued; simp
@[simp] theorem issued_fab (s : State) (c : Ctx) : (s.issued c).fab = s.fab := by unfold State.issued; simp
@[simp] theorem issued_plat (s : State) (c : Ctx) : (s.issued c).plat = s.plat := by unfold State.issued; simp
@[simp] theorem issued_dbg (s : State) (c : Ctx) : (s.issued c).dbg = s.dbg := by unfold State.issued; simp

@[simp] theorem issued_issuer (s : State) (c : Ctx) : (s.issued c).issuer = none := by unfold State.issued; simp
@[simp] theorem newId_snd (s : State) : s.newId.2 = { s with nextId := s.nextId + 1 } := rfl
@[simp] theorem newId_fst (s : State) : s.newId.1 = s.nextId := rfl
@[simp] theorem fresh_snd (s : State) : s.fresh.2 = { s with free := s.free + 1 } := rfl

end Sys2Proof.Laws
end

