-- ==== Sys2Proof/Laws/Reach.lean ====
section
/-! SUPPORT. What the L2 slices, rings, streams, L1 caches and limb landings leave alone, one lemma for each field. -/

namespace Sys2Proof.Laws

open Sys2Proof Sys2Proof.Machine

/-- A fold of steps that keep a part of the state keeps it. -/
theorem foldl_keep {α β : Type} (f : State → α → State) (g : State → β) (h : ∀ s a, g (f s a) = g s) (l : List α) :
    ∀ s, g (l.foldl f s) = g s := by
  induction l with
  | nil => exact fun _ => rfl
  | cons a l ih => exact fun s => (ih _).trans (h s a)

/-! ### setL2 -/

@[simp] theorem setL2_inbox (s : State) (ls : List L2Line) : (s.setL2 ls).inbox = s.inbox := rfl
@[simp] theorem setL2_upsets (s : State) (ls : List L2Line) : (s.setL2 ls).upsets = s.upsets := rfl
@[simp] theorem setL2_issuer (s : State) (ls : List L2Line) : (s.setL2 ls).issuer = s.issuer := rfl
@[simp] theorem setL2_free (s : State) (ls : List L2Line) : (s.setL2 ls).free = s.free := rfl
@[simp] theorem setL2_nextId (s : State) (ls : List L2Line) : (s.setL2 ls).nextId = s.nextId := rfl
@[simp] theorem setL2_outputs (s : State) (ls : List L2Line) : (s.setL2 ls).outputs = s.outputs := rfl
@[simp] theorem setL2_crews (s : State) (ls : List L2Line) : (s.setL2 ls).crews = s.crews := rfl
@[simp] theorem setL2_coxes (s : State) (ls : List L2Line) : (s.setL2 ls).coxes = s.coxes := rfl
@[simp] theorem setL2_wgs (s : State) (ls : List L2Line) : (s.setL2 ls).wgs = s.wgs := rfl
@[simp] theorem setL2_gangs (s : State) (ls : List L2Line) : (s.setL2 ls).gangs = s.gangs := rfl
@[simp] theorem setL2_mem (s : State) (ls : List L2Line) : (s.setL2 ls).mem = s.mem := rfl
@[simp] theorem setL2_checks (s : State) (ls : List L2Line) : (s.setL2 ls).checks = s.checks := rfl
@[simp] theorem setL2_ctrs (s : State) (ls : List L2Line) : (s.setL2 ls).ctrs = s.ctrs := rfl
@[simp] theorem setL2_flight (s : State) (ls : List L2Line) : (s.setL2 ls).flight = s.flight := rfl
@[simp] theorem setL2_xlat (s : State) (ls : List L2Line) : (s.setL2 ls).xlat = s.xlat := rfl
@[simp] theorem setL2_dealer (s : State) (ls : List L2Line) : (s.setL2 ls).dealer = s.dealer := rfl
@[simp] theorem setL2_eng (s : State) (ls : List L2Line) : (s.setL2 ls).eng = s.eng := rfl
@[simp] theorem setL2_fab (s : State) (ls : List L2Line) : (s.setL2 ls).fab = s.fab := rfl
@[simp] theorem setL2_plat (s : State) (ls : List L2Line) : (s.setL2 ls).plat = s.plat := rfl
@[simp] theorem setL2_dbg (s : State) (ls : List L2Line) : (s.setL2 ls).dbg = s.dbg := rfl

/-! ### restoreCheck -/

@[simp] theorem restoreCheck_inbox (s : State) (x : L2Line) : (s.restoreCheck x).inbox = s.inbox := by unfold State.restoreCheck; split <;> rfl
@[simp] theorem restoreCheck_upsets (s : State) (x : L2Line) : (s.restoreCheck x).upsets = s.upsets := by unfold State.restoreCheck; split <;> rfl
@[simp] theorem restoreCheck_issuer (s : State) (x : L2Line) : (s.restoreCheck x).issuer = s.issuer := by unfold State.restoreCheck; split <;> rfl
@[simp] theorem restoreCheck_free (s : State) (x : L2Line) : (s.restoreCheck x).free = s.free := by unfold State.restoreCheck; split <;> rfl
@[simp] theorem restoreCheck_nextId (s : State) (x : L2Line) : (s.restoreCheck x).nextId = s.nextId := by unfold State.restoreCheck; split <;> rfl
@[simp] theorem restoreCheck_outputs (s : State) (x : L2Line) : (s.restoreCheck x).outputs = s.outputs := by unfold State.restoreCheck; split <;> rfl
@[simp] theorem restoreCheck_crews (s : State) (x : L2Line) : (s.restoreCheck x).crews = s.crews := by unfold State.restoreCheck; split <;> rfl
@[simp] theorem restoreCheck_coxes (s : State) (x : L2Line) : (s.restoreCheck x).coxes = s.coxes := by unfold State.restoreCheck; split <;> rfl
@[simp] theorem restoreCheck_wgs (s : State) (x : L2Line) : (s.restoreCheck x).wgs = s.wgs := by unfold State.restoreCheck; split <;> rfl
@[simp] theorem restoreCheck_gangs (s : State) (x : L2Line) : (s.restoreCheck x).gangs = s.gangs := by unfold State.restoreCheck; split <;> rfl
@[simp] theorem restoreCheck_mem (s : State) (x : L2Line) : (s.restoreCheck x).mem = s.mem := by unfold State.restoreCheck; split <;> rfl
@[simp] theorem restoreCheck_ctrs (s : State) (x : L2Line) : (s.restoreCheck x).ctrs = s.ctrs := by unfold State.restoreCheck; split <;> rfl
@[simp] theorem restoreCheck_caches (s : State) (x : L2Line) : (s.restoreCheck x).caches = s.caches := by unfold State.restoreCheck; split <;> rfl
@[simp] theorem restoreCheck_flight (s : State) (x : L2Line) : (s.restoreCheck x).flight = s.flight := by unfold State.restoreCheck; split <;> rfl
@[simp] theorem restoreCheck_xlat (s : State) (x : L2Line) : (s.restoreCheck x).xlat = s.xlat := by unfold State.restoreCheck; split <;> rfl
@[simp] theorem restoreCheck_dealer (s : State) (x : L2Line) : (s.restoreCheck x).dealer = s.dealer := by unfold State.restoreCheck; split <;> rfl
@[simp] theorem restoreCheck_eng (s : State) (x : L2Line) : (s.restoreCheck x).eng = s.eng := by unfold State.restoreCheck; split <;> rfl
@[simp] theorem restoreCheck_fab (s : State) (x : L2Line) : (s.restoreCheck x).fab = s.fab := by unfold State.restoreCheck; split <;> rfl
@[simp] theorem restoreCheck_plat (s : State) (x : L2Line) : (s.restoreCheck x).plat = s.plat := by unfold State.restoreCheck; split <;> rfl
@[simp] theorem restoreCheck_dbg (s : State) (x : L2Line) : (s.restoreCheck x).dbg = s.dbg := by unfold State.restoreCheck; split <;> rfl

/-! ### restoreLine -/

@[simp] theorem restoreLine_inbox (s : State) (x : L2Line) : (s.restoreLine x).inbox = s.inbox := by unfold State.restoreLine; split <;> rfl
@[simp] theorem restoreLine_upsets (s : State) (x : L2Line) : (s.restoreLine x).upsets = s.upsets := by unfold State.restoreLine; split <;> rfl
@[simp] theorem restoreLine_issuer (s : State) (x : L2Line) : (s.restoreLine x).issuer = s.issuer := by unfold State.restoreLine; split <;> rfl
@[simp] theorem restoreLine_free (s : State) (x : L2Line) : (s.restoreLine x).free = s.free := by unfold State.restoreLine; split <;> rfl
@[simp] theorem restoreLine_nextId (s : State) (x : L2Line) : (s.restoreLine x).nextId = s.nextId := by unfold State.restoreLine; split <;> rfl
@[simp] theorem restoreLine_outputs (s : State) (x : L2Line) : (s.restoreLine x).outputs = s.outputs := by unfold State.restoreLine; split <;> rfl
@[simp] theorem restoreLine_crews (s : State) (x : L2Line) : (s.restoreLine x).crews = s.crews := by unfold State.restoreLine; split <;> rfl
@[simp] theorem restoreLine_coxes (s : State) (x : L2Line) : (s.restoreLine x).coxes = s.coxes := by unfold State.restoreLine; split <;> rfl
@[simp] theorem restoreLine_wgs (s : State) (x : L2Line) : (s.restoreLine x).wgs = s.wgs := by unfold State.restoreLine; split <;> rfl
@[simp] theorem restoreLine_gangs (s : State) (x : L2Line) : (s.restoreLine x).gangs = s.gangs := by unfold State.restoreLine; split <;> rfl
@[simp] theorem restoreLine_ctrs (s : State) (x : L2Line) : (s.restoreLine x).ctrs = s.ctrs := by unfold State.restoreLine; split <;> rfl
@[simp] theorem restoreLine_caches (s : State) (x : L2Line) : (s.restoreLine x).caches = s.caches := by unfold State.restoreLine; split <;> rfl
@[simp] theorem restoreLine_flight (s : State) (x : L2Line) : (s.restoreLine x).flight = s.flight := by unfold State.restoreLine; split <;> rfl
@[simp] theorem restoreLine_xlat (s : State) (x : L2Line) : (s.restoreLine x).xlat = s.xlat := by unfold State.restoreLine; split <;> rfl
@[simp] theorem restoreLine_dealer (s : State) (x : L2Line) : (s.restoreLine x).dealer = s.dealer := by unfold State.restoreLine; split <;> rfl
@[simp] theorem restoreLine_eng (s : State) (x : L2Line) : (s.restoreLine x).eng = s.eng := by unfold State.restoreLine; split <;> rfl
@[simp] theorem restoreLine_fab (s : State) (x : L2Line) : (s.restoreLine x).fab = s.fab := by unfold State.restoreLine; split <;> rfl
@[simp] theorem restoreLine_plat (s : State) (x : L2Line) : (s.restoreLine x).plat = s.plat := by unfold State.restoreLine; split <;> rfl
@[simp] theorem restoreLine_dbg (s : State) (x : L2Line) : (s.restoreLine x).dbg = s.dbg := by unfold State.restoreLine; split <;> rfl

/-! ### unsent -/

@[simp] theorem unsent_inbox (s : State) (n : Word) (a b c : Nat) : (s.unsent n a b c).inbox = s.inbox := rfl
@[simp] theorem unsent_issuer (s : State) (n : Word) (a b c : Nat) : (s.unsent n a b c).issuer = s.issuer := rfl
@[simp] theorem unsent_free (s : State) (n : Word) (a b c : Nat) : (s.unsent n a b c).free = s.free := rfl
@[simp] theorem unsent_nextId (s : State) (n : Word) (a b c : Nat) : (s.unsent n a b c).nextId = s.nextId := rfl
@[simp] theorem unsent_outputs (s : State) (n : Word) (a b c : Nat) : (s.unsent n a b c).outputs = s.outputs := rfl
@[simp] theorem unsent_crews (s : State) (n : Word) (a b c : Nat) : (s.unsent n a b c).crews = s.crews := rfl
@[simp] theorem unsent_coxes (s : State) (n : Word) (a b c : Nat) : (s.unsent n a b c).coxes = s.coxes := rfl
@[simp] theorem unsent_wgs (s : State) (n : Word) (a b c : Nat) : (s.unsent n a b c).wgs = s.wgs := rfl
@[simp] theorem unsent_gangs (s : State) (n : Word) (a b c : Nat) : (s.unsent n a b c).gangs = s.gangs := rfl
@[simp] theorem unsent_mem (s : State) (n : Word) (a b c : Nat) : (s.unsent n a b c).mem = s.mem := rfl
@[simp] theorem unsent_checks (s : State) (n : Word) (a b c : Nat) : (s.unsent n a b c).checks = s.checks := rfl
@[simp] theorem unsent_ctrs (s : State) (n : Word) (a b c : Nat) : (s.unsent n a b c).ctrs = s.ctrs := rfl
@[simp] theorem unsent_caches (s : State) (n : Word) (a b c : Nat) : (s.unsent n a b c).caches = s.caches := rfl
@[simp] theorem unsent_flight (s : State) (n : Word) (a b c : Nat) : (s.unsent n a b c).flight = s.flight := rfl
@[simp] theorem unsent_xlat (s : State) (n : Word) (a b c : Nat) : (s.unsent n a b c).xlat = s.xlat := rfl
@[simp] theorem unsent_dealer (s : State) (n : Word) (a b c : Nat) : (s.unsent n a b c).dealer = s.dealer := rfl
@[simp] theorem unsent_eng (s : State) (n : Word) (a b c : Nat) : (s.unsent n a b c).eng = s.eng := rfl
@[simp] theorem unsent_fab (s : State) (n : Word) (a b c : Nat) : (s.unsent n a b c).fab = s.fab := rfl
@[simp] theorem unsent_plat (s : State) (n : Word) (a b c : Nat) : (s.unsent n a b c).plat = s.plat := rfl
@[simp] theorem unsent_dbg (s : State) (n : Word) (a b c : Nat) : (s.unsent n a b c).dbg = s.dbg := rfl

/-! ### dropBad -/

@[simp] theorem dropBad_inbox (s : State) (x : L2Line) : (s.dropBad x).inbox = s.inbox := by unfold State.dropBad; split <;> rfl
@[simp] theorem dropBad_issuer (s : State) (x : L2Line) : (s.dropBad x).issuer = s.issuer := by unfold State.dropBad; split <;> rfl
@[simp] theorem dropBad_free (s : State) (x : L2Line) : (s.dropBad x).free = s.free := by unfold State.dropBad; split <;> rfl
@[simp] theorem dropBad_nextId (s : State) (x : L2Line) : (s.dropBad x).nextId = s.nextId := by unfold State.dropBad; split <;> rfl
@[simp] theorem dropBad_outputs (s : State) (x : L2Line) : (s.dropBad x).outputs = s.outputs := by unfold State.dropBad; split <;> rfl
@[simp] theorem dropBad_crews (s : State) (x : L2Line) : (s.dropBad x).crews = s.crews := by unfold State.dropBad; split <;> rfl
@[simp] theorem dropBad_coxes (s : State) (x : L2Line) : (s.dropBad x).coxes = s.coxes := by unfold State.dropBad; split <;> rfl
@[simp] theorem dropBad_wgs (s : State) (x : L2Line) : (s.dropBad x).wgs = s.wgs := by unfold State.dropBad; split <;> rfl
@[simp] theorem dropBad_gangs (s : State) (x : L2Line) : (s.dropBad x).gangs = s.gangs := by unfold State.dropBad; split <;> rfl
@[simp] theorem dropBad_mem (s : State) (x : L2Line) : (s.dropBad x).mem = s.mem := by unfold State.dropBad; split <;> rfl
@[simp] theorem dropBad_checks (s : State) (x : L2Line) : (s.dropBad x).checks = s.checks := by unfold State.dropBad; split <;> rfl
@[simp] theorem dropBad_ctrs (s : State) (x : L2Line) : (s.dropBad x).ctrs = s.ctrs := by unfold State.dropBad; split <;> rfl
@[simp] theorem dropBad_caches (s : State) (x : L2Line) : (s.dropBad x).caches = s.caches := by unfold State.dropBad; split <;> rfl
@[simp] theorem dropBad_flight (s : State) (x : L2Line) : (s.dropBad x).flight = s.flight := by unfold State.dropBad; split <;> rfl
@[simp] theorem dropBad_xlat (s : State) (x : L2Line) : (s.dropBad x).xlat = s.xlat := by unfold State.dropBad; split <;> rfl
@[simp] theorem dropBad_dealer (s : State) (x : L2Line) : (s.dropBad x).dealer = s.dealer := by unfold State.dropBad; split <;> rfl
@[simp] theorem dropBad_eng (s : State) (x : L2Line) : (s.dropBad x).eng = s.eng := by unfold State.dropBad; split <;> rfl
@[simp] theorem dropBad_fab (s : State) (x : L2Line) : (s.dropBad x).fab = s.fab := by unfold State.dropBad; split <;> rfl
@[simp] theorem dropBad_plat (s : State) (x : L2Line) : (s.dropBad x).plat = s.plat := by unfold State.dropBad; split <;> rfl
@[simp] theorem dropBad_dbg (s : State) (x : L2Line) : (s.dropBad x).dbg = s.dbg := by unfold State.dropBad; split <;> rfl

/-! ### leaveSlice -/

@[simp] theorem leaveSlice_inbox (s : State) (x : L2Line) : (s.leaveSlice x).inbox = s.inbox := by unfold State.leaveSlice; (repeat' split) <;> simp
@[simp] theorem leaveSlice_issuer (s : State) (x : L2Line) : (s.leaveSlice x).issuer = s.issuer := by unfold State.leaveSlice; (repeat' split) <;> simp
@[simp] theorem leaveSlice_free (s : State) (x : L2Line) : (s.leaveSlice x).free = s.free := by unfold State.leaveSlice; (repeat' split) <;> simp
@[simp] theorem leaveSlice_nextId (s : State) (x : L2Line) : (s.leaveSlice x).nextId = s.nextId := by unfold State.leaveSlice; (repeat' split) <;> simp
@[simp] theorem leaveSlice_outputs (s : State) (x : L2Line) : (s.leaveSlice x).outputs = s.outputs := by unfold State.leaveSlice; (repeat' split) <;> simp
@[simp] theorem leaveSlice_crews (s : State) (x : L2Line) : (s.leaveSlice x).crews = s.crews := by unfold State.leaveSlice; (repeat' split) <;> simp
@[simp] theorem leaveSlice_coxes (s : State) (x : L2Line) : (s.leaveSlice x).coxes = s.coxes := by unfold State.leaveSlice; (repeat' split) <;> simp
@[simp] theorem leaveSlice_wgs (s : State) (x : L2Line) : (s.leaveSlice x).wgs = s.wgs := by unfold State.leaveSlice; (repeat' split) <;> simp
@[simp] theorem leaveSlice_gangs (s : State) (x : L2Line) : (s.leaveSlice x).gangs = s.gangs := by unfold State.leaveSlice; (repeat' split) <;> simp
@[simp] theorem leaveSlice_mem (s : State) (x : L2Line) : (s.leaveSlice x).mem = s.mem := by unfold State.leaveSlice; (repeat' split) <;> simp
@[simp] theorem leaveSlice_ctrs (s : State) (x : L2Line) : (s.leaveSlice x).ctrs = s.ctrs := by unfold State.leaveSlice; (repeat' split) <;> simp
@[simp] theorem leaveSlice_caches (s : State) (x : L2Line) : (s.leaveSlice x).caches = s.caches := by unfold State.leaveSlice; (repeat' split) <;> simp
@[simp] theorem leaveSlice_flight (s : State) (x : L2Line) : (s.leaveSlice x).flight = s.flight := by unfold State.leaveSlice; (repeat' split) <;> simp
@[simp] theorem leaveSlice_xlat (s : State) (x : L2Line) : (s.leaveSlice x).xlat = s.xlat := by unfold State.leaveSlice; (repeat' split) <;> simp
@[simp] theorem leaveSlice_dealer (s : State) (x : L2Line) : (s.leaveSlice x).dealer = s.dealer := by unfold State.leaveSlice; (repeat' split) <;> simp
@[simp] theorem leaveSlice_eng (s : State) (x : L2Line) : (s.leaveSlice x).eng = s.eng := by unfold State.leaveSlice; (repeat' split) <;> simp
@[simp] theorem leaveSlice_fab (s : State) (x : L2Line) : (s.leaveSlice x).fab = s.fab := by unfold State.leaveSlice; (repeat' split) <;> simp
@[simp] theorem leaveSlice_plat (s : State) (x : L2Line) : (s.leaveSlice x).plat = s.plat := by unfold State.leaveSlice; (repeat' split) <;> simp
@[simp] theorem leaveSlice_dbg (s : State) (x : L2Line) : (s.leaveSlice x).dbg = s.dbg := by unfold State.leaveSlice; (repeat' split) <;> simp

/-! ### l2Drop -/

@[simp] theorem l2Drop_inbox (s : State) (n : Nat) : (s.l2Drop n).inbox = s.inbox := by unfold State.l2Drop; split <;> simp
@[simp] theorem l2Drop_upsets (s : State) (n : Nat) : (s.l2Drop n).upsets = s.upsets := by unfold State.l2Drop; split <;> simp
@[simp] theorem l2Drop_issuer (s : State) (n : Nat) : (s.l2Drop n).issuer = s.issuer := by unfold State.l2Drop; split <;> simp
@[simp] theorem l2Drop_free (s : State) (n : Nat) : (s.l2Drop n).free = s.free := by unfold State.l2Drop; split <;> simp
@[simp] theorem l2Drop_nextId (s : State) (n : Nat) : (s.l2Drop n).nextId = s.nextId := by unfold State.l2Drop; split <;> simp
@[simp] theorem l2Drop_outputs (s : State) (n : Nat) : (s.l2Drop n).outputs = s.outputs := by unfold State.l2Drop; split <;> simp
@[simp] theorem l2Drop_crews (s : State) (n : Nat) : (s.l2Drop n).crews = s.crews := by unfold State.l2Drop; split <;> simp
@[simp] theorem l2Drop_coxes (s : State) (n : Nat) : (s.l2Drop n).coxes = s.coxes := by unfold State.l2Drop; split <;> simp
@[simp] theorem l2Drop_wgs (s : State) (n : Nat) : (s.l2Drop n).wgs = s.wgs := by unfold State.l2Drop; split <;> simp
@[simp] theorem l2Drop_gangs (s : State) (n : Nat) : (s.l2Drop n).gangs = s.gangs := by unfold State.l2Drop; split <;> simp
@[simp] theorem l2Drop_ctrs (s : State) (n : Nat) : (s.l2Drop n).ctrs = s.ctrs := by unfold State.l2Drop; split <;> simp
@[simp] theorem l2Drop_flight (s : State) (n : Nat) : (s.l2Drop n).flight = s.flight := by unfold State.l2Drop; split <;> simp
@[simp] theorem l2Drop_xlat (s : State) (n : Nat) : (s.l2Drop n).xlat = s.xlat := by unfold State.l2Drop; split <;> simp
@[simp] theorem l2Drop_dealer (s : State) (n : Nat) : (s.l2Drop n).dealer = s.dealer := by unfold State.l2Drop; split <;> simp
@[simp] theorem l2Drop_eng (s : State) (n : Nat) : (s.l2Drop n).eng = s.eng := by unfold State.l2Drop; split <;> simp
@[simp] theorem l2Drop_fab (s : State) (n : Nat) : (s.l2Drop n).fab = s.fab := by unfold State.l2Drop; split <;> simp
@[simp] theorem l2Drop_plat (s : State) (n : Nat) : (s.l2Drop n).plat = s.plat := by unfold State.l2Drop; split <;> simp
@[simp] theorem l2Drop_dbg (s : State) (n : Nat) : (s.l2Drop n).dbg = s.dbg := by unfold State.l2Drop; split <;> simp

/-! ### askLine -/

@[simp] theorem askLine_inbox (s : State) (pa : Nat) : (s.askLine pa).inbox = s.inbox := by unfold State.askLine; split <;> rfl
@[simp] theorem askLine_upsets (s : State) (pa : Nat) : (s.askLine pa).upsets = s.upsets := by unfold State.askLine; split <;> rfl
@[simp] theorem askLine_issuer (s : State) (pa : Nat) : (s.askLine pa).issuer = s.issuer := by unfold State.askLine; split <;> rfl
@[simp] theorem askLine_free (s : State) (pa : Nat) : (s.askLine pa).free = s.free := by unfold State.askLine; split <;> rfl
@[simp] theorem askLine_nextId (s : State) (pa : Nat) : (s.askLine pa).nextId = s.nextId := by unfold State.askLine; split <;> rfl
@[simp] theorem askLine_crews (s : State) (pa : Nat) : (s.askLine pa).crews = s.crews := by unfold State.askLine; split <;> rfl
@[simp] theorem askLine_coxes (s : State) (pa : Nat) : (s.askLine pa).coxes = s.coxes := by unfold State.askLine; split <;> rfl
@[simp] theorem askLine_wgs (s : State) (pa : Nat) : (s.askLine pa).wgs = s.wgs := by unfold State.askLine; split <;> rfl
@[simp] theorem askLine_gangs (s : State) (pa : Nat) : (s.askLine pa).gangs = s.gangs := by unfold State.askLine; split <;> rfl
@[simp] theorem askLine_mem (s : State) (pa : Nat) : (s.askLine pa).mem = s.mem := by unfold State.askLine; split <;> rfl
@[simp] theorem askLine_checks (s : State) (pa : Nat) : (s.askLine pa).checks = s.checks := by unfold State.askLine; split <;> rfl
@[simp] theorem askLine_ctrs (s : State) (pa : Nat) : (s.askLine pa).ctrs = s.ctrs := by unfold State.askLine; split <;> rfl
@[simp] theorem askLine_caches (s : State) (pa : Nat) : (s.askLine pa).caches = s.caches := by unfold State.askLine; split <;> rfl
@[simp] theorem askLine_flight (s : State) (pa : Nat) : (s.askLine pa).flight = s.flight := by unfold State.askLine; split <;> rfl
@[simp] theorem askLine_xlat (s : State) (pa : Nat) : (s.askLine pa).xlat = s.xlat := by unfold State.askLine; split <;> rfl
@[simp] theorem askLine_dealer (s : State) (pa : Nat) : (s.askLine pa).dealer = s.dealer := by unfold State.askLine; split <;> rfl
@[simp] theorem askLine_eng (s : State) (pa : Nat) : (s.askLine pa).eng = s.eng := by unfold State.askLine; split <;> rfl
@[simp] theorem askLine_fab (s : State) (pa : Nat) : (s.askLine pa).fab = s.fab := by unfold State.askLine; split <;> rfl
@[simp] theorem askLine_plat (s : State) (pa : Nat) : (s.askLine pa).plat = s.plat := by unfold State.askLine; split <;> rfl
@[simp] theorem askLine_dbg (s : State) (pa : Nat) : (s.askLine pa).dbg = s.dbg := by unfold State.askLine; split <;> rfl

/-! ### l2Evict -/

@[simp] theorem l2Evict_inbox (s : State) (x : L2Line) : (s.l2Evict x).inbox = s.inbox := by simp [State.l2Evict]
@[simp] theorem l2Evict_issuer (s : State) (x : L2Line) : (s.l2Evict x).issuer = s.issuer := by simp [State.l2Evict]
@[simp] theorem l2Evict_free (s : State) (x : L2Line) : (s.l2Evict x).free = s.free := by simp [State.l2Evict]
@[simp] theorem l2Evict_nextId (s : State) (x : L2Line) : (s.l2Evict x).nextId = s.nextId := by simp [State.l2Evict]
@[simp] theorem l2Evict_outputs (s : State) (x : L2Line) : (s.l2Evict x).outputs = s.outputs := by simp [State.l2Evict]
@[simp] theorem l2Evict_crews (s : State) (x : L2Line) : (s.l2Evict x).crews = s.crews := by simp [State.l2Evict]
@[simp] theorem l2Evict_coxes (s : State) (x : L2Line) : (s.l2Evict x).coxes = s.coxes := by simp [State.l2Evict]
@[simp] theorem l2Evict_wgs (s : State) (x : L2Line) : (s.l2Evict x).wgs = s.wgs := by simp [State.l2Evict]
@[simp] theorem l2Evict_gangs (s : State) (x : L2Line) : (s.l2Evict x).gangs = s.gangs := by simp [State.l2Evict]
@[simp] theorem l2Evict_mem (s : State) (x : L2Line) : (s.l2Evict x).mem = s.mem := by simp [State.l2Evict]
@[simp] theorem l2Evict_ctrs (s : State) (x : L2Line) : (s.l2Evict x).ctrs = s.ctrs := by simp [State.l2Evict]
@[simp] theorem l2Evict_flight (s : State) (x : L2Line) : (s.l2Evict x).flight = s.flight := by simp [State.l2Evict]
@[simp] theorem l2Evict_xlat (s : State) (x : L2Line) : (s.l2Evict x).xlat = s.xlat := by simp [State.l2Evict]
@[simp] theorem l2Evict_dealer (s : State) (x : L2Line) : (s.l2Evict x).dealer = s.dealer := by simp [State.l2Evict]
@[simp] theorem l2Evict_eng (s : State) (x : L2Line) : (s.l2Evict x).eng = s.eng := by simp [State.l2Evict]
@[simp] theorem l2Evict_fab (s : State) (x : L2Line) : (s.l2Evict x).fab = s.fab := by simp [State.l2Evict]
@[simp] theorem l2Evict_plat (s : State) (x : L2Line) : (s.l2Evict x).plat = s.plat := by simp [State.l2Evict]
@[simp] theorem l2Evict_dbg (s : State) (x : L2Line) : (s.l2Evict x).dbg = s.dbg := by simp [State.l2Evict]

/-! ### l2Take -/

@[simp] theorem l2Take_inbox (s : State) (pa : Nat) (r : Rank) : (s.l2Take pa r).inbox = s.inbox := by unfold State.l2Take; dsimp only; (repeat' split) <;> simp [State.fresh]
@[simp] theorem l2Take_issuer (s : State) (pa : Nat) (r : Rank) : (s.l2Take pa r).issuer = s.issuer := by unfold State.l2Take; dsimp only; (repeat' split) <;> simp [State.fresh]
@[simp] theorem l2Take_nextId (s : State) (pa : Nat) (r : Rank) : (s.l2Take pa r).nextId = s.nextId := by unfold State.l2Take; dsimp only; (repeat' split) <;> simp [State.fresh]
@[simp] theorem l2Take_outputs (s : State) (pa : Nat) (r : Rank) : (s.l2Take pa r).outputs = s.outputs := by unfold State.l2Take; dsimp only; (repeat' split) <;> simp [State.fresh]
@[simp] theorem l2Take_crews (s : State) (pa : Nat) (r : Rank) : (s.l2Take pa r).crews = s.crews := by unfold State.l2Take; dsimp only; (repeat' split) <;> simp [State.fresh]
@[simp] theorem l2Take_coxes (s : State) (pa : Nat) (r : Rank) : (s.l2Take pa r).coxes = s.coxes := by unfold State.l2Take; dsimp only; (repeat' split) <;> simp [State.fresh]
@[simp] theorem l2Take_wgs (s : State) (pa : Nat) (r : Rank) : (s.l2Take pa r).wgs = s.wgs := by unfold State.l2Take; dsimp only; (repeat' split) <;> simp [State.fresh]
@[simp] theorem l2Take_gangs (s : State) (pa : Nat) (r : Rank) : (s.l2Take pa r).gangs = s.gangs := by unfold State.l2Take; dsimp only; (repeat' split) <;> simp [State.fresh]
@[simp] theorem l2Take_mem (s : State) (pa : Nat) (r : Rank) : (s.l2Take pa r).mem = s.mem := by unfold State.l2Take; dsimp only; (repeat' split) <;> simp [State.fresh]
@[simp] theorem l2Take_ctrs (s : State) (pa : Nat) (r : Rank) : (s.l2Take pa r).ctrs = s.ctrs := by unfold State.l2Take; dsimp only; (repeat' split) <;> simp [State.fresh]
@[simp] theorem l2Take_flight (s : State) (pa : Nat) (r : Rank) : (s.l2Take pa r).flight = s.flight := by unfold State.l2Take; dsimp only; (repeat' split) <;> simp [State.fresh]
@[simp] theorem l2Take_xlat (s : State) (pa : Nat) (r : Rank) : (s.l2Take pa r).xlat = s.xlat := by unfold State.l2Take; dsimp only; (repeat' split) <;> simp [State.fresh]
@[simp] theorem l2Take_dealer (s : State) (pa : Nat) (r : Rank) : (s.l2Take pa r).dealer = s.dealer := by unfold State.l2Take; dsimp only; (repeat' split) <;> simp [State.fresh]
@[simp] theorem l2Take_eng (s : State) (pa : Nat) (r : Rank) : (s.l2Take pa r).eng = s.eng := by unfold State.l2Take; dsimp only; (repeat' split) <;> simp [State.fresh]
@[simp] theorem l2Take_fab (s : State) (pa : Nat) (r : Rank) : (s.l2Take pa r).fab = s.fab := by unfold State.l2Take; dsimp only; (repeat' split) <;> simp [State.fresh]
@[simp] theorem l2Take_plat (s : State) (pa : Nat) (r : Rank) : (s.l2Take pa r).plat = s.plat := by unfold State.l2Take; dsimp only; (repeat' split) <;> simp [State.fresh]
@[simp] theorem l2Take_dbg (s : State) (pa : Nat) (r : Rank) : (s.l2Take pa r).dbg = s.dbg := by unfold State.l2Take; dsimp only; (repeat' split) <;> simp [State.fresh]

/-! ### l2Dirty -/

@[simp] theorem l2Dirty_inbox (s : State) (n : Nat) : (s.l2Dirty n).inbox = s.inbox := by simp [State.l2Dirty]
@[simp] theorem l2Dirty_upsets (s : State) (n : Nat) : (s.l2Dirty n).upsets = s.upsets := by simp [State.l2Dirty]
@[simp] theorem l2Dirty_issuer (s : State) (n : Nat) : (s.l2Dirty n).issuer = s.issuer := by simp [State.l2Dirty]
@[simp] theorem l2Dirty_free (s : State) (n : Nat) : (s.l2Dirty n).free = s.free := by simp [State.l2Dirty]
@[simp] theorem l2Dirty_nextId (s : State) (n : Nat) : (s.l2Dirty n).nextId = s.nextId := by simp [State.l2Dirty]
@[simp] theorem l2Dirty_outputs (s : State) (n : Nat) : (s.l2Dirty n).outputs = s.outputs := by simp [State.l2Dirty]
@[simp] theorem l2Dirty_crews (s : State) (n : Nat) : (s.l2Dirty n).crews = s.crews := by simp [State.l2Dirty]
@[simp] theorem l2Dirty_coxes (s : State) (n : Nat) : (s.l2Dirty n).coxes = s.coxes := by simp [State.l2Dirty]
@[simp] theorem l2Dirty_wgs (s : State) (n : Nat) : (s.l2Dirty n).wgs = s.wgs := by simp [State.l2Dirty]
@[simp] theorem l2Dirty_gangs (s : State) (n : Nat) : (s.l2Dirty n).gangs = s.gangs := by simp [State.l2Dirty]
@[simp] theorem l2Dirty_mem (s : State) (n : Nat) : (s.l2Dirty n).mem = s.mem := by simp [State.l2Dirty]
@[simp] theorem l2Dirty_checks (s : State) (n : Nat) : (s.l2Dirty n).checks = s.checks := by simp [State.l2Dirty]
@[simp] theorem l2Dirty_ctrs (s : State) (n : Nat) : (s.l2Dirty n).ctrs = s.ctrs := by simp [State.l2Dirty]
@[simp] theorem l2Dirty_flight (s : State) (n : Nat) : (s.l2Dirty n).flight = s.flight := by simp [State.l2Dirty]
@[simp] theorem l2Dirty_xlat (s : State) (n : Nat) : (s.l2Dirty n).xlat = s.xlat := by simp [State.l2Dirty]
@[simp] theorem l2Dirty_dealer (s : State) (n : Nat) : (s.l2Dirty n).dealer = s.dealer := by simp [State.l2Dirty]
@[simp] theorem l2Dirty_eng (s : State) (n : Nat) : (s.l2Dirty n).eng = s.eng := by simp [State.l2Dirty]
@[simp] theorem l2Dirty_fab (s : State) (n : Nat) : (s.l2Dirty n).fab = s.fab := by simp [State.l2Dirty]
@[simp] theorem l2Dirty_plat (s : State) (n : Nat) : (s.l2Dirty n).plat = s.plat := by simp [State.l2Dirty]
@[simp] theorem l2Dirty_dbg (s : State) (n : Nat) : (s.l2Dirty n).dbg = s.dbg := by simp [State.l2Dirty]

/-! ### backInvalidate -/

@[simp] theorem backInvalidate_inbox (s : State) (n : Nat) : (s.backInvalidate n).inbox = s.inbox := by unfold State.backInvalidate; split <;> rfl
@[simp] theorem backInvalidate_upsets (s : State) (n : Nat) : (s.backInvalidate n).upsets = s.upsets := by unfold State.backInvalidate; split <;> rfl
@[simp] theorem backInvalidate_issuer (s : State) (n : Nat) : (s.backInvalidate n).issuer = s.issuer := by unfold State.backInvalidate; split <;> rfl
@[simp] theorem backInvalidate_free (s : State) (n : Nat) : (s.backInvalidate n).free = s.free := by unfold State.backInvalidate; split <;> rfl
@[simp] theorem backInvalidate_nextId (s : State) (n : Nat) : (s.backInvalidate n).nextId = s.nextId := by unfold State.backInvalidate; split <;> rfl
@[simp] theorem backInvalidate_crews (s : State) (n : Nat) : (s.backInvalidate n).crews = s.crews := by unfold State.backInvalidate; split <;> rfl
@[simp] theorem backInvalidate_coxes (s : State) (n : Nat) : (s.backInvalidate n).coxes = s.coxes := by unfold State.backInvalidate; split <;> rfl
@[simp] theorem backInvalidate_wgs (s : State) (n : Nat) : (s.backInvalidate n).wgs = s.wgs := by unfold State.backInvalidate; split <;> rfl
@[simp] theorem backInvalidate_gangs (s : State) (n : Nat) : (s.backInvalidate n).gangs = s.gangs := by unfold State.backInvalidate; split <;> rfl
@[simp] theorem backInvalidate_mem (s : State) (n : Nat) : (s.backInvalidate n).mem = s.mem := by unfold State.backInvalidate; split <;> rfl
@[simp] theorem backInvalidate_checks (s : State) (n : Nat) : (s.backInvalidate n).checks = s.checks := by unfold State.backInvalidate; split <;> rfl
@[simp] theorem backInvalidate_ctrs (s : State) (n : Nat) : (s.backInvalidate n).ctrs = s.ctrs := by unfold State.backInvalidate; split <;> rfl
@[simp] theorem backInvalidate_caches (s : State) (n : Nat) : (s.backInvalidate n).caches = s.caches := by unfold State.backInvalidate; split <;> rfl
@[simp] theorem backInvalidate_flight (s : State) (n : Nat) : (s.backInvalidate n).flight = s.flight := by unfold State.backInvalidate; split <;> rfl
@[simp] theorem backInvalidate_xlat (s : State) (n : Nat) : (s.backInvalidate n).xlat = s.xlat := by unfold State.backInvalidate; split <;> rfl
@[simp] theorem backInvalidate_dealer (s : State) (n : Nat) : (s.backInvalidate n).dealer = s.dealer := by unfold State.backInvalidate; split <;> rfl
@[simp] theorem backInvalidate_eng (s : State) (n : Nat) : (s.backInvalidate n).eng = s.eng := by unfold State.backInvalidate; split <;> rfl
@[simp] theorem backInvalidate_fab (s : State) (n : Nat) : (s.backInvalidate n).fab = s.fab := by unfold State.backInvalidate; split <;> rfl
@[simp] theorem backInvalidate_dbg (s : State) (n : Nat) : (s.backInvalidate n).dbg = s.dbg := by unfold State.backInvalidate; split <;> rfl

/-! ### l2Write -/

@[simp] theorem l2Write_inbox (s : State) (pa : Nat) (bs : List Byte) (r : Rank) : (s.l2Write pa bs r).inbox = s.inbox := by simp [State.l2Write]
@[simp] theorem l2Write_issuer (s : State) (pa : Nat) (bs : List Byte) (r : Rank) : (s.l2Write pa bs r).issuer = s.issuer := by simp [State.l2Write]
@[simp] theorem l2Write_nextId (s : State) (pa : Nat) (bs : List Byte) (r : Rank) : (s.l2Write pa bs r).nextId = s.nextId := by simp [State.l2Write]
@[simp] theorem l2Write_crews (s : State) (pa : Nat) (bs : List Byte) (r : Rank) : (s.l2Write pa bs r).crews = s.crews := by simp [State.l2Write]
@[simp] theorem l2Write_coxes (s : State) (pa : Nat) (bs : List Byte) (r : Rank) : (s.l2Write pa bs r).coxes = s.coxes := by simp [State.l2Write]
@[simp] theorem l2Write_wgs (s : State) (pa : Nat) (bs : List Byte) (r : Rank) : (s.l2Write pa bs r).wgs = s.wgs := by simp [State.l2Write]
@[simp] theorem l2Write_gangs (s : State) (pa : Nat) (bs : List Byte) (r : Rank) : (s.l2Write pa bs r).gangs = s.gangs := by simp [State.l2Write]
@[simp] theorem l2Write_ctrs (s : State) (pa : Nat) (bs : List Byte) (r : Rank) : (s.l2Write pa bs r).ctrs = s.ctrs := by simp [State.l2Write]
@[simp] theorem l2Write_flight (s : State) (pa : Nat) (bs : List Byte) (r : Rank) : (s.l2Write pa bs r).flight = s.flight := by simp [State.l2Write]
@[simp] theorem l2Write_xlat (s : State) (pa : Nat) (bs : List Byte) (r : Rank) : (s.l2Write pa bs r).xlat = s.xlat := by simp [State.l2Write]
@[simp] theorem l2Write_dealer (s : State) (pa : Nat) (bs : List Byte) (r : Rank) : (s.l2Write pa bs r).dealer = s.dealer := by simp [State.l2Write]
@[simp] theorem l2Write_eng (s : State) (pa : Nat) (bs : List Byte) (r : Rank) : (s.l2Write pa bs r).eng = s.eng := by simp [State.l2Write]
@[simp] theorem l2Write_fab (s : State) (pa : Nat) (bs : List Byte) (r : Rank) : (s.l2Write pa bs r).fab = s.fab := by simp [State.l2Write]
@[simp] theorem l2Write_dbg (s : State) (pa : Nat) (bs : List Byte) (r : Rank) : (s.l2Write pa bs r).dbg = s.dbg := by simp [State.l2Write]

/-! ### l2Writes -/

@[simp] theorem l2Writes_inbox (s : State) (pa : Nat) (bs : List Byte) : (s.l2Writes pa bs).inbox = s.inbox := foldl_keep _ State.inbox (by simp) _ _
@[simp] theorem l2Writes_issuer (s : State) (pa : Nat) (bs : List Byte) : (s.l2Writes pa bs).issuer = s.issuer := foldl_keep _ State.issuer (by simp) _ _
@[simp] theorem l2Writes_nextId (s : State) (pa : Nat) (bs : List Byte) : (s.l2Writes pa bs).nextId = s.nextId := foldl_keep _ State.nextId (by simp) _ _
@[simp] theorem l2Writes_crews (s : State) (pa : Nat) (bs : List Byte) : (s.l2Writes pa bs).crews = s.crews := foldl_keep _ State.crews (by simp) _ _
@[simp] theorem l2Writes_coxes (s : State) (pa : Nat) (bs : List Byte) : (s.l2Writes pa bs).coxes = s.coxes := foldl_keep _ State.coxes (by simp) _ _
@[simp] theorem l2Writes_wgs (s : State) (pa : Nat) (bs : List Byte) : (s.l2Writes pa bs).wgs = s.wgs := foldl_keep _ State.wgs (by simp) _ _
@[simp] theorem l2Writes_gangs (s : State) (pa : Nat) (bs : List Byte) : (s.l2Writes pa bs).gangs = s.gangs := foldl_keep _ State.gangs (by simp) _ _
@[simp] theorem l2Writes_ctrs (s : State) (pa : Nat) (bs : List Byte) : (s.l2Writes pa bs).ctrs = s.ctrs := foldl_keep _ State.ctrs (by simp) _ _
@[simp] theorem l2Writes_flight (s : State) (pa : Nat) (bs : List Byte) : (s.l2Writes pa bs).flight = s.flight := foldl_keep _ State.flight (by simp) _ _
@[simp] theorem l2Writes_xlat (s : State) (pa : Nat) (bs : List Byte) : (s.l2Writes pa bs).xlat = s.xlat := foldl_keep _ State.xlat (by simp) _ _
@[simp] theorem l2Writes_dealer (s : State) (pa : Nat) (bs : List Byte) : (s.l2Writes pa bs).dealer = s.dealer := foldl_keep _ State.dealer (by simp) _ _
@[simp] theorem l2Writes_eng (s : State) (pa : Nat) (bs : List Byte) : (s.l2Writes pa bs).eng = s.eng := foldl_keep _ State.eng (by simp) _ _
@[simp] theorem l2Writes_fab (s : State) (pa : Nat) (bs : List Byte) : (s.l2Writes pa bs).fab = s.fab := foldl_keep _ State.fab (by simp) _ _
@[simp] theorem l2Writes_dbg (s : State) (pa : Nat) (bs : List Byte) : (s.l2Writes pa bs).dbg = s.dbg := foldl_keep _ State.dbg (by simp) _ _

/-! ### ringWrite -/

@[simp] theorem ringWrite_inbox (s : State) (i : RingId) (b : List Byte) : (s.ringWrite i b).inbox = s.inbox := by unfold State.ringWrite; dsimp only; split <;> simp
@[simp] theorem ringWrite_issuer (s : State) (i : RingId) (b : List Byte) : (s.ringWrite i b).issuer = s.issuer := by unfold State.ringWrite; dsimp only; split <;> simp
@[simp] theorem ringWrite_nextId (s : State) (i : RingId) (b : List Byte) : (s.ringWrite i b).nextId = s.nextId := by unfold State.ringWrite; dsimp only; split <;> simp
@[simp] theorem ringWrite_crews (s : State) (i : RingId) (b : List Byte) : (s.ringWrite i b).crews = s.crews := by unfold State.ringWrite; dsimp only; split <;> simp
@[simp] theorem ringWrite_coxes (s : State) (i : RingId) (b : List Byte) : (s.ringWrite i b).coxes = s.coxes := by unfold State.ringWrite; dsimp only; split <;> simp
@[simp] theorem ringWrite_wgs (s : State) (i : RingId) (b : List Byte) : (s.ringWrite i b).wgs = s.wgs := by unfold State.ringWrite; dsimp only; split <;> simp
@[simp] theorem ringWrite_gangs (s : State) (i : RingId) (b : List Byte) : (s.ringWrite i b).gangs = s.gangs := by unfold State.ringWrite; dsimp only; split <;> simp
@[simp] theorem ringWrite_ctrs (s : State) (i : RingId) (b : List Byte) : (s.ringWrite i b).ctrs = s.ctrs := by unfold State.ringWrite; dsimp only; split <;> simp
@[simp] theorem ringWrite_flight (s : State) (i : RingId) (b : List Byte) : (s.ringWrite i b).flight = s.flight := by unfold State.ringWrite; dsimp only; split <;> simp
@[simp] theorem ringWrite_dealer (s : State) (i : RingId) (b : List Byte) : (s.ringWrite i b).dealer = s.dealer := by unfold State.ringWrite; dsimp only; split <;> simp
@[simp] theorem ringWrite_eng (s : State) (i : RingId) (b : List Byte) : (s.ringWrite i b).eng = s.eng := by unfold State.ringWrite; dsimp only; split <;> simp
@[simp] theorem ringWrite_fab (s : State) (i : RingId) (b : List Byte) : (s.ringWrite i b).fab = s.fab := by unfold State.ringWrite; dsimp only; split <;> simp

/-! ### ringPost -/

@[simp] theorem ringPost_inbox (s : State) (i : RingId) (b : List Byte) : (s.ringPost i b).inbox = s.inbox := by unfold State.ringPost; dsimp only; split <;> simp
@[simp] theorem ringPost_issuer (s : State) (i : RingId) (b : List Byte) : (s.ringPost i b).issuer = s.issuer := by unfold State.ringPost; dsimp only; split <;> simp
@[simp] theorem ringPost_nextId (s : State) (i : RingId) (b : List Byte) : (s.ringPost i b).nextId = s.nextId := by unfold State.ringPost; dsimp only; split <;> simp
@[simp] theorem ringPost_crews (s : State) (i : RingId) (b : List Byte) : (s.ringPost i b).crews = s.crews := by unfold State.ringPost; dsimp only; split <;> simp
@[simp] theorem ringPost_coxes (s : State) (i : RingId) (b : List Byte) : (s.ringPost i b).coxes = s.coxes := by unfold State.ringPost; dsimp only; split <;> simp
@[simp] theorem ringPost_wgs (s : State) (i : RingId) (b : List Byte) : (s.ringPost i b).wgs = s.wgs := by unfold State.ringPost; dsimp only; split <;> simp
@[simp] theorem ringPost_gangs (s : State) (i : RingId) (b : List Byte) : (s.ringPost i b).gangs = s.gangs := by unfold State.ringPost; dsimp only; split <;> simp
@[simp] theorem ringPost_ctrs (s : State) (i : RingId) (b : List Byte) : (s.ringPost i b).ctrs = s.ctrs := by unfold State.ringPost; dsimp only; split <;> simp
@[simp] theorem ringPost_flight (s : State) (i : RingId) (b : List Byte) : (s.ringPost i b).flight = s.flight := by unfold State.ringPost; dsimp only; split <;> simp
@[simp] theorem ringPost_dealer (s : State) (i : RingId) (b : List Byte) : (s.ringPost i b).dealer = s.dealer := by unfold State.ringPost; dsimp only; split <;> simp
@[simp] theorem ringPost_eng (s : State) (i : RingId) (b : List Byte) : (s.ringPost i b).eng = s.eng := by unfold State.ringPost; dsimp only; split <;> simp
@[simp] theorem ringPost_fab (s : State) (i : RingId) (b : List Byte) : (s.ringPost i b).fab = s.fab := by unfold State.ringPost; dsimp only; split <;> simp

/-! ### ringHint -/

@[simp] theorem ringHint_inbox (s : State) (i : RingId) (b : List Byte) : (s.ringHint i b).inbox = s.inbox := by unfold State.ringHint; dsimp only; split <;> simp
@[simp] theorem ringHint_issuer (s : State) (i : RingId) (b : List Byte) : (s.ringHint i b).issuer = s.issuer := by unfold State.ringHint; dsimp only; split <;> simp
@[simp] theorem ringHint_nextId (s : State) (i : RingId) (b : List Byte) : (s.ringHint i b).nextId = s.nextId := by unfold State.ringHint; dsimp only; split <;> simp
@[simp] theorem ringHint_crews (s : State) (i : RingId) (b : List Byte) : (s.ringHint i b).crews = s.crews := by unfold State.ringHint; dsimp only; split <;> simp
@[simp] theorem ringHint_coxes (s : State) (i : RingId) (b : List Byte) : (s.ringHint i b).coxes = s.coxes := by unfold State.ringHint; dsimp only; split <;> simp
@[simp] theorem ringHint_wgs (s : State) (i : RingId) (b : List Byte) : (s.ringHint i b).wgs = s.wgs := by unfold State.ringHint; dsimp only; split <;> simp
@[simp] theorem ringHint_gangs (s : State) (i : RingId) (b : List Byte) : (s.ringHint i b).gangs = s.gangs := by unfold State.ringHint; dsimp only; split <;> simp
@[simp] theorem ringHint_ctrs (s : State) (i : RingId) (b : List Byte) : (s.ringHint i b).ctrs = s.ctrs := by unfold State.ringHint; dsimp only; split <;> simp
@[simp] theorem ringHint_flight (s : State) (i : RingId) (b : List Byte) : (s.ringHint i b).flight = s.flight := by unfold State.ringHint; dsimp only; split <;> simp
@[simp] theorem ringHint_dealer (s : State) (i : RingId) (b : List Byte) : (s.ringHint i b).dealer = s.dealer := by unfold State.ringHint; dsimp only; split <;> simp
@[simp] theorem ringHint_eng (s : State) (i : RingId) (b : List Byte) : (s.ringHint i b).eng = s.eng := by unfold State.ringHint; dsimp only; split <;> simp
@[simp] theorem ringHint_fab (s : State) (i : RingId) (b : List Byte) : (s.ringHint i b).fab = s.fab := by unfold State.ringHint; dsimp only; split <;> simp

/-! ### bump -/

@[simp] theorem bump_inbox (s : State) (a g k n cl : Nat) : (s.bump a g k n cl).inbox = s.inbox := by unfold State.bump; dsimp only; split <;> simp
@[simp] theorem bump_issuer (s : State) (a g k n cl : Nat) : (s.bump a g k n cl).issuer = s.issuer := by unfold State.bump; dsimp only; split <;> simp
@[simp] theorem bump_nextId (s : State) (a g k n cl : Nat) : (s.bump a g k n cl).nextId = s.nextId := by unfold State.bump; dsimp only; split <;> simp
@[simp] theorem bump_crews (s : State) (a g k n cl : Nat) : (s.bump a g k n cl).crews = s.crews := by unfold State.bump; dsimp only; split <;> simp
@[simp] theorem bump_coxes (s : State) (a g k n cl : Nat) : (s.bump a g k n cl).coxes = s.coxes := by unfold State.bump; dsimp only; split <;> simp
@[simp] theorem bump_wgs (s : State) (a g k n cl : Nat) : (s.bump a g k n cl).wgs = s.wgs := by unfold State.bump; dsimp only; split <;> simp
@[simp] theorem bump_gangs (s : State) (a g k n cl : Nat) : (s.bump a g k n cl).gangs = s.gangs := by unfold State.bump; dsimp only; split <;> simp
@[simp] theorem bump_ctrs (s : State) (a g k n cl : Nat) : (s.bump a g k n cl).ctrs = s.ctrs := by unfold State.bump; dsimp only; split <;> simp
@[simp] theorem bump_flight (s : State) (a g k n cl : Nat) : (s.bump a g k n cl).flight = s.flight := by unfold State.bump; dsimp only; split <;> simp
@[simp] theorem bump_dealer (s : State) (a g k n cl : Nat) : (s.bump a g k n cl).dealer = s.dealer := by unfold State.bump; dsimp only; split <;> simp
@[simp] theorem bump_eng (s : State) (a g k n cl : Nat) : (s.bump a g k n cl).eng = s.eng := by unfold State.bump; dsimp only; split <;> simp
@[simp] theorem bump_fab (s : State) (a g k n cl : Nat) : (s.bump a g k n cl).fab = s.fab := by unfold State.bump; dsimp only; split <;> simp

/-! ### countAccess -/

@[simp] theorem countAccess_inbox (s : State) (a cl va pa : Nat) : (s.countAccess a cl va pa).inbox = s.inbox := by unfold State.countAccess; dsimp only; (repeat' split) <;> simp
@[simp] theorem countAccess_issuer (s : State) (a cl va pa : Nat) : (s.countAccess a cl va pa).issuer = s.issuer := by unfold State.countAccess; dsimp only; (repeat' split) <;> simp
@[simp] theorem countAccess_nextId (s : State) (a cl va pa : Nat) : (s.countAccess a cl va pa).nextId = s.nextId := by unfold State.countAccess; dsimp only; (repeat' split) <;> simp
@[simp] theorem countAccess_crews (s : State) (a cl va pa : Nat) : (s.countAccess a cl va pa).crews = s.crews := by unfold State.countAccess; dsimp only; (repeat' split) <;> simp
@[simp] theorem countAccess_coxes (s : State) (a cl va pa : Nat) : (s.countAccess a cl va pa).coxes = s.coxes := by unfold State.countAccess; dsimp only; (repeat' split) <;> simp
@[simp] theorem countAccess_wgs (s : State) (a cl va pa : Nat) : (s.countAccess a cl va pa).wgs = s.wgs := by unfold State.countAccess; dsimp only; (repeat' split) <;> simp
@[simp] theorem countAccess_gangs (s : State) (a cl va pa : Nat) : (s.countAccess a cl va pa).gangs = s.gangs := by unfold State.countAccess; dsimp only; (repeat' split) <;> simp
@[simp] theorem countAccess_ctrs (s : State) (a cl va pa : Nat) : (s.countAccess a cl va pa).ctrs = s.ctrs := by unfold State.countAccess; dsimp only; (repeat' split) <;> simp
@[simp] theorem countAccess_flight (s : State) (a cl va pa : Nat) : (s.countAccess a cl va pa).flight = s.flight := by unfold State.countAccess; dsimp only; (repeat' split) <;> simp
@[simp] theorem countAccess_dealer (s : State) (a cl va pa : Nat) : (s.countAccess a cl va pa).dealer = s.dealer := by unfold State.countAccess; dsimp only; (repeat' split) <;> simp
@[simp] theorem countAccess_eng (s : State) (a cl va pa : Nat) : (s.countAccess a cl va pa).eng = s.eng := by unfold State.countAccess; dsimp only; (repeat' split) <;> simp
@[simp] theorem countAccess_fab (s : State) (a cl va pa : Nat) : (s.countAccess a cl va pa).fab = s.fab := by unfold State.countAccess; dsimp only; (repeat' split) <;> simp

/-! ### reachL2 -/

@[simp] theorem reachL2_inbox (s : State) (a cl va pa : Nat) (r : Rank) : (s.reachL2 a cl va pa r).inbox = s.inbox := by simp [State.reachL2]
@[simp] theorem reachL2_issuer (s : State) (a cl va pa : Nat) (r : Rank) : (s.reachL2 a cl va pa r).issuer = s.issuer := by simp [State.reachL2]
@[simp] theorem reachL2_nextId (s : State) (a cl va pa : Nat) (r : Rank) : (s.reachL2 a cl va pa r).nextId = s.nextId := by simp [State.reachL2]
@[simp] theorem reachL2_crews (s : State) (a cl va pa : Nat) (r : Rank) : (s.reachL2 a cl va pa r).crews = s.crews := by simp [State.reachL2]
@[simp] theorem reachL2_coxes (s : State) (a cl va pa : Nat) (r : Rank) : (s.reachL2 a cl va pa r).coxes = s.coxes := by simp [State.reachL2]
@[simp] theorem reachL2_wgs (s : State) (a cl va pa : Nat) (r : Rank) : (s.reachL2 a cl va pa r).wgs = s.wgs := by simp [State.reachL2]
@[simp] theorem reachL2_gangs (s : State) (a cl va pa : Nat) (r : Rank) : (s.reachL2 a cl va pa r).gangs = s.gangs := by simp [State.reachL2]
@[simp] theorem reachL2_ctrs (s : State) (a cl va pa : Nat) (r : Rank) : (s.reachL2 a cl va pa r).ctrs = s.ctrs := by simp [State.reachL2]
@[simp] theorem reachL2_flight (s : State) (a cl va pa : Nat) (r : Rank) : (s.reachL2 a cl va pa r).flight = s.flight := by simp [State.reachL2]
@[simp] theorem reachL2_dealer (s : State) (a cl va pa : Nat) (r : Rank) : (s.reachL2 a cl va pa r).dealer = s.dealer := by simp [State.reachL2]
@[simp] theorem reachL2_eng (s : State) (a cl va pa : Nat) (r : Rank) : (s.reachL2 a cl va pa r).eng = s.eng := by simp [State.reachL2]
@[simp] theorem reachL2_fab (s : State) (a cl va pa : Nat) (r : Rank) : (s.reachL2 a cl va pa r).fab = s.fab := by simp [State.reachL2]

/-! ### reachLines -/

@[simp] theorem reachLines_inbox (s : State) (a cl : Nat) (xs : List (Nat × Nat)) (r : Rank) : (s.reachLines a cl xs r).inbox = s.inbox := foldl_keep _ State.inbox (by simp) _ _
@[simp] theorem reachLines_issuer (s : State) (a cl : Nat) (xs : List (Nat × Nat)) (r : Rank) : (s.reachLines a cl xs r).issuer = s.issuer := foldl_keep _ State.issuer (by simp) _ _
@[simp] theorem reachLines_nextId (s : State) (a cl : Nat) (xs : List (Nat × Nat)) (r : Rank) : (s.reachLines a cl xs r).nextId = s.nextId := foldl_keep _ State.nextId (by simp) _ _
@[simp] theorem reachLines_crews (s : State) (a cl : Nat) (xs : List (Nat × Nat)) (r : Rank) : (s.reachLines a cl xs r).crews = s.crews := foldl_keep _ State.crews (by simp) _ _
@[simp] theorem reachLines_coxes (s : State) (a cl : Nat) (xs : List (Nat × Nat)) (r : Rank) : (s.reachLines a cl xs r).coxes = s.coxes := foldl_keep _ State.coxes (by simp) _ _
@[simp] theorem reachLines_wgs (s : State) (a cl : Nat) (xs : List (Nat × Nat)) (r : Rank) : (s.reachLines a cl xs r).wgs = s.wgs := foldl_keep _ State.wgs (by simp) _ _
@[simp] theorem reachLines_gangs (s : State) (a cl : Nat) (xs : List (Nat × Nat)) (r : Rank) : (s.reachLines a cl xs r).gangs = s.gangs := foldl_keep _ State.gangs (by simp) _ _
@[simp] theorem reachLines_ctrs (s : State) (a cl : Nat) (xs : List (Nat × Nat)) (r : Rank) : (s.reachLines a cl xs r).ctrs = s.ctrs := foldl_keep _ State.ctrs (by simp) _ _
@[simp] theorem reachLines_flight (s : State) (a cl : Nat) (xs : List (Nat × Nat)) (r : Rank) : (s.reachLines a cl xs r).flight = s.flight := foldl_keep _ State.flight (by simp) _ _
@[simp] theorem reachLines_dealer (s : State) (a cl : Nat) (xs : List (Nat × Nat)) (r : Rank) : (s.reachLines a cl xs r).dealer = s.dealer := foldl_keep _ State.dealer (by simp) _ _
@[simp] theorem reachLines_eng (s : State) (a cl : Nat) (xs : List (Nat × Nat)) (r : Rank) : (s.reachLines a cl xs r).eng = s.eng := foldl_keep _ State.eng (by simp) _ _
@[simp] theorem reachLines_fab (s : State) (a cl : Nat) (xs : List (Nat × Nat)) (r : Rank) : (s.reachLines a cl xs r).fab = s.fab := foldl_keep _ State.fab (by simp) _ _

/-! ### openStream -/

@[simp] theorem openStream_inbox (s : State) (k n : Nat) (i : Word) (b : Bool) : ((s.openStream k n i b).2).inbox = s.inbox := rfl
@[simp] theorem openStream_upsets (s : State) (k n : Nat) (i : Word) (b : Bool) : ((s.openStream k n i b).2).upsets = s.upsets := rfl
@[simp] theorem openStream_issuer (s : State) (k n : Nat) (i : Word) (b : Bool) : ((s.openStream k n i b).2).issuer = s.issuer := rfl
@[simp] theorem openStream_free (s : State) (k n : Nat) (i : Word) (b : Bool) : ((s.openStream k n i b).2).free = s.free := rfl
@[simp] theorem openStream_nextId (s : State) (k n : Nat) (i : Word) (b : Bool) : ((s.openStream k n i b).2).nextId = s.nextId := rfl
@[simp] theorem openStream_outputs (s : State) (k n : Nat) (i : Word) (b : Bool) : ((s.openStream k n i b).2).outputs = s.outputs := rfl
@[simp] theorem openStream_crews (s : State) (k n : Nat) (i : Word) (b : Bool) : ((s.openStream k n i b).2).crews = s.crews := rfl
@[simp] theorem openStream_coxes (s : State) (k n : Nat) (i : Word) (b : Bool) : ((s.openStream k n i b).2).coxes = s.coxes := rfl
@[simp] theorem openStream_wgs (s : State) (k n : Nat) (i : Word) (b : Bool) : ((s.openStream k n i b).2).wgs = s.wgs := rfl
@[simp] theorem openStream_gangs (s : State) (k n : Nat) (i : Word) (b : Bool) : ((s.openStream k n i b).2).gangs = s.gangs := rfl
@[simp] theorem openStream_mem (s : State) (k n : Nat) (i : Word) (b : Bool) : ((s.openStream k n i b).2).mem = s.mem := rfl
@[simp] theorem openStream_checks (s : State) (k n : Nat) (i : Word) (b : Bool) : ((s.openStream k n i b).2).checks = s.checks := rfl
@[simp] theorem openStream_ctrs (s : State) (k n : Nat) (i : Word) (b : Bool) : ((s.openStream k n i b).2).ctrs = s.ctrs := rfl
@[simp] theorem openStream_caches (s : State) (k n : Nat) (i : Word) (b : Bool) : ((s.openStream k n i b).2).caches = s.caches := rfl
@[simp] theorem openStream_flight (s : State) (k n : Nat) (i : Word) (b : Bool) : ((s.openStream k n i b).2).flight = s.flight := rfl
@[simp] theorem openStream_xlat (s : State) (k n : Nat) (i : Word) (b : Bool) : ((s.openStream k n i b).2).xlat = s.xlat := rfl
@[simp] theorem openStream_dealer (s : State) (k n : Nat) (i : Word) (b : Bool) : ((s.openStream k n i b).2).dealer = s.dealer := rfl
@[simp] theorem openStream_eng (s : State) (k n : Nat) (i : Word) (b : Bool) : ((s.openStream k n i b).2).eng = s.eng := rfl
@[simp] theorem openStream_plat (s : State) (k n : Nat) (i : Word) (b : Bool) : ((s.openStream k n i b).2).plat = s.plat := rfl
@[simp] theorem openStream_dbg (s : State) (k n : Nat) (i : Word) (b : Bool) : ((s.openStream k n i b).2).dbg = s.dbg := rfl

/-! ### runOf -/

@[simp] theorem runOf_inbox (s : State) (k n : Nat) (i : Word) : ((s.runOf k n i).2).inbox = s.inbox := by unfold State.runOf; split <;> rfl
@[simp] theorem runOf_upsets (s : State) (k n : Nat) (i : Word) : ((s.runOf k n i).2).upsets = s.upsets := by unfold State.runOf; split <;> rfl
@[simp] theorem runOf_issuer (s : State) (k n : Nat) (i : Word) : ((s.runOf k n i).2).issuer = s.issuer := by unfold State.runOf; split <;> rfl
@[simp] theorem runOf_free (s : State) (k n : Nat) (i : Word) : ((s.runOf k n i).2).free = s.free := by unfold State.runOf; split <;> rfl
@[simp] theorem runOf_nextId (s : State) (k n : Nat) (i : Word) : ((s.runOf k n i).2).nextId = s.nextId := by unfold State.runOf; split <;> rfl
@[simp] theorem runOf_outputs (s : State) (k n : Nat) (i : Word) : ((s.runOf k n i).2).outputs = s.outputs := by unfold State.runOf; split <;> rfl
@[simp] theorem runOf_crews (s : State) (k n : Nat) (i : Word) : ((s.runOf k n i).2).crews = s.crews := by unfold State.runOf; split <;> rfl
@[simp] theorem runOf_coxes (s : State) (k n : Nat) (i : Word) : ((s.runOf k n i).2).coxes = s.coxes := by unfold State.runOf; split <;> rfl
@[simp] theorem runOf_wgs (s : State) (k n : Nat) (i : Word) : ((s.runOf k n i).2).wgs = s.wgs := by unfold State.runOf; split <;> rfl
@[simp] theorem runOf_gangs (s : State) (k n : Nat) (i : Word) : ((s.runOf k n i).2).gangs = s.gangs := by unfold State.runOf; split <;> rfl
@[simp] theorem runOf_mem (s : State) (k n : Nat) (i : Word) : ((s.runOf k n i).2).mem = s.mem := by unfold State.runOf; split <;> rfl
@[simp] theorem runOf_checks (s : State) (k n : Nat) (i : Word) : ((s.runOf k n i).2).checks = s.checks := by unfold State.runOf; split <;> rfl
@[simp] theorem runOf_ctrs (s : State) (k n : Nat) (i : Word) : ((s.runOf k n i).2).ctrs = s.ctrs := by unfold State.runOf; split <;> rfl
@[simp] theorem runOf_caches (s : State) (k n : Nat) (i : Word) : ((s.runOf k n i).2).caches = s.caches := by unfold State.runOf; split <;> rfl
@[simp] theorem runOf_flight (s : State) (k n : Nat) (i : Word) : ((s.runOf k n i).2).flight = s.flight := by unfold State.runOf; split <;> rfl
@[simp] theorem runOf_xlat (s : State) (k n : Nat) (i : Word) : ((s.runOf k n i).2).xlat = s.xlat := by unfold State.runOf; split <;> rfl
@[simp] theorem runOf_dealer (s : State) (k n : Nat) (i : Word) : ((s.runOf k n i).2).dealer = s.dealer := by unfold State.runOf; split <;> rfl
@[simp] theorem runOf_eng (s : State) (k n : Nat) (i : Word) : ((s.runOf k n i).2).eng = s.eng := by unfold State.runOf; split <;> rfl
@[simp] theorem runOf_plat (s : State) (k n : Nat) (i : Word) : ((s.runOf k n i).2).plat = s.plat := by unfold State.runOf; split <;> rfl
@[simp] theorem runOf_dbg (s : State) (k n : Nat) (i : Word) : ((s.runOf k n i).2).dbg = s.dbg := by unfold State.runOf; split <;> rfl

/-! ### sendPacket -/

@[simp] theorem sendPacket_inbox (s : State) (key : StreamKey) (d n : Nat) (p : Payload) (o : Origin) : (s.sendPacket key d n p o).inbox = s.inbox := rfl
@[simp] theorem sendPacket_upsets (s : State) (key : StreamKey) (d n : Nat) (p : Payload) (o : Origin) : (s.sendPacket key d n p o).upsets = s.upsets := rfl
@[simp] theorem sendPacket_issuer (s : State) (key : StreamKey) (d n : Nat) (p : Payload) (o : Origin) : (s.sendPacket key d n p o).issuer = s.issuer := rfl
@[simp] theorem sendPacket_free (s : State) (key : StreamKey) (d n : Nat) (p : Payload) (o : Origin) : (s.sendPacket key d n p o).free = s.free := rfl
@[simp] theorem sendPacket_nextId (s : State) (key : StreamKey) (d n : Nat) (p : Payload) (o : Origin) : (s.sendPacket key d n p o).nextId = s.nextId := rfl
@[simp] theorem sendPacket_crews (s : State) (key : StreamKey) (d n : Nat) (p : Payload) (o : Origin) : (s.sendPacket key d n p o).crews = s.crews := rfl
@[simp] theorem sendPacket_coxes (s : State) (key : StreamKey) (d n : Nat) (p : Payload) (o : Origin) : (s.sendPacket key d n p o).coxes = s.coxes := rfl
@[simp] theorem sendPacket_wgs (s : State) (key : StreamKey) (d n : Nat) (p : Payload) (o : Origin) : (s.sendPacket key d n p o).wgs = s.wgs := rfl
@[simp] theorem sendPacket_gangs (s : State) (key : StreamKey) (d n : Nat) (p : Payload) (o : Origin) : (s.sendPacket key d n p o).gangs = s.gangs := rfl
@[simp] theorem sendPacket_mem (s : State) (key : StreamKey) (d n : Nat) (p : Payload) (o : Origin) : (s.sendPacket key d n p o).mem = s.mem := rfl
@[simp] theorem sendPacket_checks (s : State) (key : StreamKey) (d n : Nat) (p : Payload) (o : Origin) : (s.sendPacket key d n p o).checks = s.checks := rfl
@[simp] theorem sendPacket_ctrs (s : State) (key : StreamKey) (d n : Nat) (p : Payload) (o : Origin) : (s.sendPacket key d n p o).ctrs = s.ctrs := rfl
@[simp] theorem sendPacket_caches (s : State) (key : StreamKey) (d n : Nat) (p : Payload) (o : Origin) : (s.sendPacket key d n p o).caches = s.caches := rfl
@[simp] theorem sendPacket_flight (s : State) (key : StreamKey) (d n : Nat) (p : Payload) (o : Origin) : (s.sendPacket key d n p o).flight = s.flight := rfl
@[simp] theorem sendPacket_xlat (s : State) (key : StreamKey) (d n : Nat) (p : Payload) (o : Origin) : (s.sendPacket key d n p o).xlat = s.xlat := rfl
@[simp] theorem sendPacket_dealer (s : State) (key : StreamKey) (d n : Nat) (p : Payload) (o : Origin) : (s.sendPacket key d n p o).dealer = s.dealer := rfl
@[simp] theorem sendPacket_eng (s : State) (key : StreamKey) (d n : Nat) (p : Payload) (o : Origin) : (s.sendPacket key d n p o).eng = s.eng := rfl
@[simp] theorem sendPacket_plat (s : State) (key : StreamKey) (d n : Nat) (p : Payload) (o : Origin) : (s.sendPacket key d n p o).plat = s.plat := rfl
@[simp] theorem sendPacket_dbg (s : State) (key : StreamKey) (d n : Nat) (p : Payload) (o : Origin) : (s.sendPacket key d n p o).dbg = s.dbg := rfl

/-! ### l1Touch -/

@[simp] theorem l1Touch_inbox (s : State) (c n : Nat) : (s.l1Touch c n).inbox = s.inbox := by unfold State.l1Touch; split <;> rfl
@[simp] theorem l1Touch_upsets (s : State) (c n : Nat) : (s.l1Touch c n).upsets = s.upsets := by unfold State.l1Touch; split <;> rfl
@[simp] theorem l1Touch_issuer (s : State) (c n : Nat) : (s.l1Touch c n).issuer = s.issuer := by unfold State.l1Touch; split <;> rfl
@[simp] theorem l1Touch_free (s : State) (c n : Nat) : (s.l1Touch c n).free = s.free := by unfold State.l1Touch; split <;> rfl
@[simp] theorem l1Touch_nextId (s : State) (c n : Nat) : (s.l1Touch c n).nextId = s.nextId := by unfold State.l1Touch; split <;> rfl
@[simp] theorem l1Touch_outputs (s : State) (c n : Nat) : (s.l1Touch c n).outputs = s.outputs := by unfold State.l1Touch; split <;> rfl
@[simp] theorem l1Touch_crews (s : State) (c n : Nat) : (s.l1Touch c n).crews = s.crews := by unfold State.l1Touch; split <;> rfl
@[simp] theorem l1Touch_coxes (s : State) (c n : Nat) : (s.l1Touch c n).coxes = s.coxes := by unfold State.l1Touch; split <;> rfl
@[simp] theorem l1Touch_wgs (s : State) (c n : Nat) : (s.l1Touch c n).wgs = s.wgs := by unfold State.l1Touch; split <;> rfl
@[simp] theorem l1Touch_gangs (s : State) (c n : Nat) : (s.l1Touch c n).gangs = s.gangs := by unfold State.l1Touch; split <;> rfl
@[simp] theorem l1Touch_mem (s : State) (c n : Nat) : (s.l1Touch c n).mem = s.mem := by unfold State.l1Touch; split <;> rfl
@[simp] theorem l1Touch_checks (s : State) (c n : Nat) : (s.l1Touch c n).checks = s.checks := by unfold State.l1Touch; split <;> rfl
@[simp] theorem l1Touch_ctrs (s : State) (c n : Nat) : (s.l1Touch c n).ctrs = s.ctrs := by unfold State.l1Touch; split <;> rfl
@[simp] theorem l1Touch_flight (s : State) (c n : Nat) : (s.l1Touch c n).flight = s.flight := by unfold State.l1Touch; split <;> rfl
@[simp] theorem l1Touch_xlat (s : State) (c n : Nat) : (s.l1Touch c n).xlat = s.xlat := by unfold State.l1Touch; split <;> rfl
@[simp] theorem l1Touch_dealer (s : State) (c n : Nat) : (s.l1Touch c n).dealer = s.dealer := by unfold State.l1Touch; split <;> rfl
@[simp] theorem l1Touch_eng (s : State) (c n : Nat) : (s.l1Touch c n).eng = s.eng := by unfold State.l1Touch; split <;> rfl
@[simp] theorem l1Touch_fab (s : State) (c n : Nat) : (s.l1Touch c n).fab = s.fab := by unfold State.l1Touch; split <;> rfl
@[simp] theorem l1Touch_plat (s : State) (c n : Nat) : (s.l1Touch c n).plat = s.plat := by unfold State.l1Touch; split <;> rfl
@[simp] theorem l1Touch_dbg (s : State) (c n : Nat) : (s.l1Touch c n).dbg = s.dbg := by unfold State.l1Touch; split <;> rfl

/-! ### l1Update -/

@[simp] theorem l1Update_inbox (s : State) (c : Nat) (bs : List (Nat × Byte)) : (s.l1Update c bs).inbox = s.inbox := (foldl_keep _ State.inbox (by simp) _ _).trans (by simp)
@[simp] theorem l1Update_upsets (s : State) (c : Nat) (bs : List (Nat × Byte)) : (s.l1Update c bs).upsets = s.upsets := (foldl_keep _ State.upsets (by simp) _ _).trans (by simp)
@[simp] theorem l1Update_issuer (s : State) (c : Nat) (bs : List (Nat × Byte)) : (s.l1Update c bs).issuer = s.issuer := (foldl_keep _ State.issuer (by simp) _ _).trans (by simp)
@[simp] theorem l1Update_free (s : State) (c : Nat) (bs : List (Nat × Byte)) : (s.l1Update c bs).free = s.free := (foldl_keep _ State.free (by simp) _ _).trans (by simp)
@[simp] theorem l1Update_nextId (s : State) (c : Nat) (bs : List (Nat × Byte)) : (s.l1Update c bs).nextId = s.nextId := (foldl_keep _ State.nextId (by simp) _ _).trans (by simp)
@[simp] theorem l1Update_outputs (s : State) (c : Nat) (bs : List (Nat × Byte)) : (s.l1Update c bs).outputs = s.outputs := (foldl_keep _ State.outputs (by simp) _ _).trans (by simp)
@[simp] theorem l1Update_crews (s : State) (c : Nat) (bs : List (Nat × Byte)) : (s.l1Update c bs).crews = s.crews := (foldl_keep _ State.crews (by simp) _ _).trans (by simp)
@[simp] theorem l1Update_coxes (s : State) (c : Nat) (bs : List (Nat × Byte)) : (s.l1Update c bs).coxes = s.coxes := (foldl_keep _ State.coxes (by simp) _ _).trans (by simp)
@[simp] theorem l1Update_wgs (s : State) (c : Nat) (bs : List (Nat × Byte)) : (s.l1Update c bs).wgs = s.wgs := (foldl_keep _ State.wgs (by simp) _ _).trans (by simp)
@[simp] theorem l1Update_gangs (s : State) (c : Nat) (bs : List (Nat × Byte)) : (s.l1Update c bs).gangs = s.gangs := (foldl_keep _ State.gangs (by simp) _ _).trans (by simp)
@[simp] theorem l1Update_mem (s : State) (c : Nat) (bs : List (Nat × Byte)) : (s.l1Update c bs).mem = s.mem := (foldl_keep _ State.mem (by simp) _ _).trans (by simp)
@[simp] theorem l1Update_checks (s : State) (c : Nat) (bs : List (Nat × Byte)) : (s.l1Update c bs).checks = s.checks := (foldl_keep _ State.checks (by simp) _ _).trans (by simp)
@[simp] theorem l1Update_ctrs (s : State) (c : Nat) (bs : List (Nat × Byte)) : (s.l1Update c bs).ctrs = s.ctrs := (foldl_keep _ State.ctrs (by simp) _ _).trans (by simp)
@[simp] theorem l1Update_flight (s : State) (c : Nat) (bs : List (Nat × Byte)) : (s.l1Update c bs).flight = s.flight := (foldl_keep _ State.flight (by simp) _ _).trans (by simp)
@[simp] theorem l1Update_xlat (s : State) (c : Nat) (bs : List (Nat × Byte)) : (s.l1Update c bs).xlat = s.xlat := (foldl_keep _ State.xlat (by simp) _ _).trans (by simp)
@[simp] theorem l1Update_dealer (s : State) (c : Nat) (bs : List (Nat × Byte)) : (s.l1Update c bs).dealer = s.dealer := (foldl_keep _ State.dealer (by simp) _ _).trans (by simp)
@[simp] theorem l1Update_eng (s : State) (c : Nat) (bs : List (Nat × Byte)) : (s.l1Update c bs).eng = s.eng := (foldl_keep _ State.eng (by simp) _ _).trans (by simp)
@[simp] theorem l1Update_fab (s : State) (c : Nat) (bs : List (Nat × Byte)) : (s.l1Update c bs).fab = s.fab := (foldl_keep _ State.fab (by simp) _ _).trans (by simp)
@[simp] theorem l1Update_plat (s : State) (c : Nat) (bs : List (Nat × Byte)) : (s.l1Update c bs).plat = s.plat := (foldl_keep _ State.plat (by simp) _ _).trans (by simp)
@[simp] theorem l1Update_dbg (s : State) (c : Nat) (bs : List (Nat × Byte)) : (s.l1Update c bs).dbg = s.dbg := (foldl_keep _ State.dbg (by simp) _ _).trans (by simp)

/-! ### l1Drop -/

@[simp] theorem l1Drop_inbox (s : State) (c n : Nat) : (s.l1Drop c n).inbox = s.inbox := rfl
@[simp] theorem l1Drop_upsets (s : State) (c n : Nat) : (s.l1Drop c n).upsets = s.upsets := rfl
@[simp] theorem l1Drop_issuer (s : State) (c n : Nat) : (s.l1Drop c n).issuer = s.issuer := rfl
@[simp] theorem l1Drop_free (s : State) (c n : Nat) : (s.l1Drop c n).free = s.free := rfl
@[simp] theorem l1Drop_nextId (s : State) (c n : Nat) : (s.l1Drop c n).nextId = s.nextId := rfl
@[simp] theorem l1Drop_outputs (s : State) (c n : Nat) : (s.l1Drop c n).outputs = s.outputs := rfl
@[simp] theorem l1Drop_crews (s : State) (c n : Nat) : (s.l1Drop c n).crews = s.crews := rfl
@[simp] theorem l1Drop_coxes (s : State) (c n : Nat) : (s.l1Drop c n).coxes = s.coxes := rfl
@[simp] theorem l1Drop_wgs (s : State) (c n : Nat) : (s.l1Drop c n).wgs = s.wgs := rfl
@[simp] theorem l1Drop_gangs (s : State) (c n : Nat) : (s.l1Drop c n).gangs = s.gangs := rfl
@[simp] theorem l1Drop_mem (s : State) (c n : Nat) : (s.l1Drop c n).mem = s.mem := rfl
@[simp] theorem l1Drop_checks (s : State) (c n : Nat) : (s.l1Drop c n).checks = s.checks := rfl
@[simp] theorem l1Drop_ctrs (s : State) (c n : Nat) : (s.l1Drop c n).ctrs = s.ctrs := rfl
@[simp] theorem l1Drop_flight (s : State) (c n : Nat) : (s.l1Drop c n).flight = s.flight := rfl
@[simp] theorem l1Drop_xlat (s : State) (c n : Nat) : (s.l1Drop c n).xlat = s.xlat := rfl
@[simp] theorem l1Drop_dealer (s : State) (c n : Nat) : (s.l1Drop c n).dealer = s.dealer := rfl
@[simp] theorem l1Drop_eng (s : State) (c n : Nat) : (s.l1Drop c n).eng = s.eng := rfl
@[simp] theorem l1Drop_fab (s : State) (c n : Nat) : (s.l1Drop c n).fab = s.fab := rfl
@[simp] theorem l1Drop_plat (s : State) (c n : Nat) : (s.l1Drop c n).plat = s.plat := rfl
@[simp] theorem l1Drop_dbg (s : State) (c n : Nat) : (s.l1Drop c n).dbg = s.dbg := rfl

/-! ### l1Invalidate -/

@[simp] theorem l1Invalidate_inbox (s : State) (c : Nat) : (s.l1Invalidate c).inbox = s.inbox := rfl
@[simp] theorem l1Invalidate_upsets (s : State) (c : Nat) : (s.l1Invalidate c).upsets = s.upsets := rfl
@[simp] theorem l1Invalidate_issuer (s : State) (c : Nat) : (s.l1Invalidate c).issuer = s.issuer := rfl
@[simp] theorem l1Invalidate_free (s : State) (c : Nat) : (s.l1Invalidate c).free = s.free := rfl
@[simp] theorem l1Invalidate_nextId (s : State) (c : Nat) : (s.l1Invalidate c).nextId = s.nextId := rfl
@[simp] theorem l1Invalidate_outputs (s : State) (c : Nat) : (s.l1Invalidate c).outputs = s.outputs := rfl
@[simp] theorem l1Invalidate_crews (s : State) (c : Nat) : (s.l1Invalidate c).crews = s.crews := rfl
@[simp] theorem l1Invalidate_coxes (s : State) (c : Nat) : (s.l1Invalidate c).coxes = s.coxes := rfl
@[simp] theorem l1Invalidate_wgs (s : State) (c : Nat) : (s.l1Invalidate c).wgs = s.wgs := rfl
@[simp] theorem l1Invalidate_gangs (s : State) (c : Nat) : (s.l1Invalidate c).gangs = s.gangs := rfl
@[simp] theorem l1Invalidate_mem (s : State) (c : Nat) : (s.l1Invalidate c).mem = s.mem := rfl
@[simp] theorem l1Invalidate_checks (s : State) (c : Nat) : (s.l1Invalidate c).checks = s.checks := rfl
@[simp] theorem l1Invalidate_ctrs (s : State) (c : Nat) : (s.l1Invalidate c).ctrs = s.ctrs := rfl
@[simp] theorem l1Invalidate_xlat (s : State) (c : Nat) : (s.l1Invalidate c).xlat = s.xlat := rfl
@[simp] theorem l1Invalidate_dealer (s : State) (c : Nat) : (s.l1Invalidate c).dealer = s.dealer := rfl
@[simp] theorem l1Invalidate_eng (s : State) (c : Nat) : (s.l1Invalidate c).eng = s.eng := rfl
@[simp] theorem l1Invalidate_fab (s : State) (c : Nat) : (s.l1Invalidate c).fab = s.fab := rfl
@[simp] theorem l1Invalidate_plat (s : State) (c : Nat) : (s.l1Invalidate c).plat = s.plat := rfl
@[simp] theorem l1Invalidate_dbg (s : State) (c : Nat) : (s.l1Invalidate c).dbg = s.dbg := rfl

/-! ### mergeFills -/

@[simp] theorem mergeFills_inbox (s : State) (c n : Nat) : (s.mergeFills c n).inbox = s.inbox := by unfold State.mergeFills; split <;> rfl
@[simp] theorem mergeFills_upsets (s : State) (c n : Nat) : (s.mergeFills c n).upsets = s.upsets := by unfold State.mergeFills; split <;> rfl
@[simp] theorem mergeFills_issuer (s : State) (c n : Nat) : (s.mergeFills c n).issuer = s.issuer := by unfold State.mergeFills; split <;> rfl
@[simp] theorem mergeFills_free (s : State) (c n : Nat) : (s.mergeFills c n).free = s.free := by unfold State.mergeFills; split <;> rfl
@[simp] theorem mergeFills_nextId (s : State) (c n : Nat) : (s.mergeFills c n).nextId = s.nextId := by unfold State.mergeFills; split <;> rfl
@[simp] theorem mergeFills_outputs (s : State) (c n : Nat) : (s.mergeFills c n).outputs = s.outputs := by unfold State.mergeFills; split <;> rfl
@[simp] theorem mergeFills_crews (s : State) (c n : Nat) : (s.mergeFills c n).crews = s.crews := by unfold State.mergeFills; split <;> rfl
@[simp] theorem mergeFills_coxes (s : State) (c n : Nat) : (s.mergeFills c n).coxes = s.coxes := by unfold State.mergeFills; split <;> rfl
@[simp] theorem mergeFills_wgs (s : State) (c n : Nat) : (s.mergeFills c n).wgs = s.wgs := by unfold State.mergeFills; split <;> rfl
@[simp] theorem mergeFills_gangs (s : State) (c n : Nat) : (s.mergeFills c n).gangs = s.gangs := by unfold State.mergeFills; split <;> rfl
@[simp] theorem mergeFills_mem (s : State) (c n : Nat) : (s.mergeFills c n).mem = s.mem := by unfold State.mergeFills; split <;> rfl
@[simp] theorem mergeFills_checks (s : State) (c n : Nat) : (s.mergeFills c n).checks = s.checks := by unfold State.mergeFills; split <;> rfl
@[simp] theorem mergeFills_ctrs (s : State) (c n : Nat) : (s.mergeFills c n).ctrs = s.ctrs := by unfold State.mergeFills; split <;> rfl
@[simp] theorem mergeFills_caches (s : State) (c n : Nat) : (s.mergeFills c n).caches = s.caches := by unfold State.mergeFills; split <;> rfl
@[simp] theorem mergeFills_xlat (s : State) (c n : Nat) : (s.mergeFills c n).xlat = s.xlat := by unfold State.mergeFills; split <;> rfl
@[simp] theorem mergeFills_dealer (s : State) (c n : Nat) : (s.mergeFills c n).dealer = s.dealer := by unfold State.mergeFills; split <;> rfl
@[simp] theorem mergeFills_eng (s : State) (c n : Nat) : (s.mergeFills c n).eng = s.eng := by unfold State.mergeFills; split <;> rfl
@[simp] theorem mergeFills_fab (s : State) (c n : Nat) : (s.mergeFills c n).fab = s.fab := by unfold State.mergeFills; split <;> rfl
@[simp] theorem mergeFills_plat (s : State) (c n : Nat) : (s.mergeFills c n).plat = s.plat := by unfold State.mergeFills; split <;> rfl
@[simp] theorem mergeFills_dbg (s : State) (c n : Nat) : (s.mergeFills c n).dbg = s.dbg := by unfold State.mergeFills; split <;> rfl

/-! ### landLimb -/

@[simp] theorem landLimb_inbox (s : State) (o : LimbOp) : (s.landLimb o).inbox = s.inbox := by simp [State.landLimb]
@[simp] theorem landLimb_upsets (s : State) (o : LimbOp) : (s.landLimb o).upsets = s.upsets := by simp [State.landLimb]
@[simp] theorem landLimb_issuer (s : State) (o : LimbOp) : (s.landLimb o).issuer = s.issuer := by simp [State.landLimb]
@[simp] theorem landLimb_free (s : State) (o : LimbOp) : (s.landLimb o).free = s.free := by simp [State.landLimb]
@[simp] theorem landLimb_nextId (s : State) (o : LimbOp) : (s.landLimb o).nextId = s.nextId := by simp [State.landLimb]
@[simp] theorem landLimb_outputs (s : State) (o : LimbOp) : (s.landLimb o).outputs = s.outputs := by simp [State.landLimb]
@[simp] theorem landLimb_wgs (s : State) (o : LimbOp) : (s.landLimb o).wgs = s.wgs := by simp [State.landLimb]
@[simp] theorem landLimb_gangs (s : State) (o : LimbOp) : (s.landLimb o).gangs = s.gangs := by simp [State.landLimb]
@[simp] theorem landLimb_mem (s : State) (o : LimbOp) : (s.landLimb o).mem = s.mem := by simp [State.landLimb]
@[simp] theorem landLimb_checks (s : State) (o : LimbOp) : (s.landLimb o).checks = s.checks := by simp [State.landLimb]
@[simp] theorem landLimb_ctrs (s : State) (o : LimbOp) : (s.landLimb o).ctrs = s.ctrs := by simp [State.landLimb]
@[simp] theorem landLimb_caches (s : State) (o : LimbOp) : (s.landLimb o).caches = s.caches := by simp [State.landLimb]
@[simp] theorem landLimb_xlat (s : State) (o : LimbOp) : (s.landLimb o).xlat = s.xlat := by simp [State.landLimb]
@[simp] theorem landLimb_dealer (s : State) (o : LimbOp) : (s.landLimb o).dealer = s.dealer := by simp [State.landLimb]
@[simp] theorem landLimb_eng (s : State) (o : LimbOp) : (s.landLimb o).eng = s.eng := by simp [State.landLimb]
@[simp] theorem landLimb_fab (s : State) (o : LimbOp) : (s.landLimb o).fab = s.fab := by simp [State.landLimb]
@[simp] theorem landLimb_plat (s : State) (o : LimbOp) : (s.landLimb o).plat = s.plat := by simp [State.landLimb]
@[simp] theorem landLimb_dbg (s : State) (o : LimbOp) : (s.landLimb o).dbg = s.dbg := by simp [State.landLimb]

end Sys2Proof.Laws
end

