-- ==== Sys2Proof/Laws/Canonical.lean ====
section
/-! SUPPORT. Every operation over global memory keeps its canonical form: caches, locations, atomics, records, dumps, moved frames, traps and the end of a launch. -/

namespace Sys2Proof.Laws

open Sys2Proof Sys2Proof.Machine Sys2Proof.Safety

/-- A canonical table, entry by entry. -/
theorem twf_iff {β : Type} [DecidableEq β] {d : β} (t : Tab β) :
    twf d t = true ↔ (∀ x ∈ t, x.2 ≠ d) ∧ t.Pairwise fun x y => x.1 < y.1 := by
  induction t with
  | nil => simp [twf]
  | cons y r ih =>
    obtain ⟨k, v⟩ := y
    constructor
    · intro h
      have hr := ih.1 (twf_tail h)
      refine ⟨fun x hx => ?_, List.pairwise_cons.2 ⟨twf_lt h, hr.2⟩⟩
      rcases List.mem_cons.1 hx with rfl | hx
      · exact twf_head_ne h
      · exact hr.1 x hx
    · rintro ⟨h1, h2⟩
      rw [List.pairwise_cons] at h2
      exact twf_cons (h1 (k, v) List.mem_cons_self) (ih.2 ⟨fun x hx => h1 x (List.mem_cons_of_mem _ hx), h2.2⟩) h2.1

/-- A frame copied over another leaves memory canonical. -/
theorem twf_tabCopy {β : Type} [DecidableEq β] {d : β} (t : Tab β) (src dst n : Nat) (h : twf d t = true) :
    twf d (tabCopy t src dst n) = true := by
  rw [twf_iff] at h ⊢
  obtain ⟨h1, h2⟩ := h
  constructor
  · intro x hx
    simp only [tabCopy, List.mem_append, List.mem_filter, List.mem_map] at hx
    rcases hx with (⟨hx, _⟩ | ⟨y, ⟨hy, _⟩, rfl⟩) | ⟨hx, _⟩
    · exact h1 x hx
    · exact h1 y hy
    · exact h1 x hx
  · simp only [tabCopy, List.pairwise_append]
    refine ⟨⟨h2.filter _, ?_, ?_⟩, h2.filter _, ?_⟩
    · rw [List.pairwise_map]
      refine (h2.filter _).imp_of_mem ?_
      intro a b ha hb hab
      simp only [List.mem_filter, Bool.and_eq_true, decide_eq_true_eq] at ha hb
      dsimp only
      omega
    · intro a ha b hb
      simp only [List.mem_filter, List.mem_map, decide_eq_true_eq, Bool.and_eq_true] at ha hb
      obtain ⟨y, _, rfl⟩ := hb
      dsimp only
      omega
    · intro a ha b hb
      simp only [List.mem_append, List.mem_filter, List.mem_map, decide_eq_true_eq, Bool.and_eq_true] at ha hb
      rcases ha with ⟨_, ha⟩ | ⟨y, ⟨_, hy⟩, rfl⟩
      · omega
      · dsimp only
        omega

/-! ### Operations over memory -/

theorem memoryInv_of_eq {s t : State} (h : t.mem = s.mem) (hs : memoryInv s) : memoryInv t := by
  unfold memoryInv at *; rw [h]; exact hs

theorem memoryInv_wrMem {s : State} (pa : Nat) (bs : List Byte) (h : memoryInv s) : memoryInv (s.wrMem pa bs) := wrMem_wf s pa bs h

/-- A fold of steps that keep the form keeps it. -/
theorem memoryInv_foldl {α : Type} (f : State → α → State) (hf : ∀ s a, memoryInv s → memoryInv (f s a)) (l : List α) :
    ∀ s, memoryInv s → memoryInv (l.foldl f s) := by
  induction l with
  | nil => exact fun _ h => h
  | cons a l ih => exact fun s h => ih _ (hf s a h)

/-- Bytes written at their point of coherence. -/
theorem l2Write_mem (s : State) (pa : Nat) (bs : List Byte) (r : Rank) : (s.l2Write pa bs r).mem = putBytes s.mem pa bs := by
  simp [State.l2Write, State.wrMem]

theorem memoryInv_l2Write {s : State} (pa : Nat) (bs : List Byte) (r : Rank) (h : memoryInv s) : memoryInv (s.l2Write pa bs r) := by
  unfold memoryInv at *
  rw [l2Write_mem]
  exact twf_putBytes _ _ _ h

theorem memoryInv_l2Writes {s : State} (pa : Nat) (bs : List Byte) (h : memoryInv s) : memoryInv (s.l2Writes pa bs) :=
  memoryInv_foldl _ (fun _ _ h => memoryInv_l2Write _ _ _ h) _ s h

theorem memoryInv_restoreLine {s : State} (x : L2Line) (h : memoryInv s) : memoryInv (s.restoreLine x) := by
  unfold State.restoreLine
  split
  · exact h
  · exact twf_putBytes _ _ _ h

theorem memoryInv_l2Drop {s : State} (n : Nat) (h : memoryInv s) : memoryInv (s.l2Drop n) := by
  unfold State.l2Drop
  split
  · exact memoryInv_of_eq (setL2_mem _ _) (memoryInv_restoreLine _ h)
  · exact h

theorem mem_l2Flush (s : State) (a b : Nat) : (s.l2Flush a b).mem = s.mem := foldl_keep _ State.mem (by simp) _ _

/-! ### Records and dumps -/

theorem memoryInv_ringWrite {s : State} (i : RingId) (body : List Byte) (h : memoryInv s) : memoryInv (s.ringWrite i body) := by
  unfold State.ringWrite
  dsimp only
  split <;> exact memoryInv_of_eq (setRing_mem _ _ _) (memoryInv_l2Writes _ _ h)

theorem memoryInv_ringPost {s : State} (i : RingId) (body : List Byte) (h : memoryInv s) : memoryInv (s.ringPost i body) := by
  unfold State.ringPost
  dsimp only
  split
  · exact memoryInv_ringWrite i body h
  · exact memoryInv_of_eq (by simp) h

theorem memoryInv_ringHint {s : State} (i : RingId) (body : List Byte) (h : memoryInv s) : memoryInv (s.ringHint i body) := by
  unfold State.ringHint
  dsimp only
  split
  · exact memoryInv_ringWrite i body h
  · exact memoryInv_of_eq (by simp) h

theorem memoryInv_eventPost {s : State} (e : EventInfo) (h : memoryInv s) : memoryInv (s.eventPost e) := memoryInv_ringPost _ _ h

theorem memoryInv_faultPost {s : State} (f : FaultInfo) (h : memoryInv s) : memoryInv (s.faultPost f) := memoryInv_ringPost _ _ h

theorem memoryInv_dump {s : State} (c : Crew) (k : Nat) (pc : Word) (h : memoryInv s) : memoryInv (s.dump c k pc) := by
  unfold State.dump
  split
  · exact h
  · dsimp only
    generalize hl : s.l2Writes _ (s.dumpOf c) = t
    exact memoryInv_of_eq (s := t.eventPost _) rfl (memoryInv_eventPost _ (hl ▸ memoryInv_l2Writes _ _ h))

theorem memoryInv_bump {s : State} (a g k n cl : Nat) (h : memoryInv s) : memoryInv (s.bump a g k n cl) := by
  unfold State.bump
  dsimp only
  split
  · exact memoryInv_of_eq rfl (memoryInv_ringHint .access _ h)
  · exact h

/-- A request that reaches the L2 keeps the form: an access counter may write its event. -/
theorem memoryInv_reachL2 {s : State} (a cl va pa : Nat) (r : Rank) (h : memoryInv s) : memoryInv (s.reachL2 a cl va pa r) := by
  unfold State.reachL2
  refine memoryInv_of_eq (l2Take_mem _ _ _) ?_
  unfold State.countAccess
  dsimp only
  (repeat' split) <;> first | exact h | exact memoryInv_bump _ _ _ _ _ h

theorem memoryInv_reachLines {s : State} (a cl : Nat) (xs : List (Nat × Nat)) (r : Rank) (h : memoryInv s) :
    memoryInv (s.reachLines a cl xs r) := memoryInv_foldl _ (fun _ _ h => memoryInv_reachL2 _ _ _ _ _ h) _ s h

/-! ### L1 caches -/

theorem memoryInv_writeBack {s : State} (x : L1Line) (h : memoryInv s) : memoryInv (s.writeBack x) := by
  unfold State.writeBack
  dsimp only
  split
  · rename_i y ys o hr ho
    have h1 := memoryInv_reachL2 (s := s) o.asid (x.cache / 4) (64 * o.vline) (64 * x.line) Rank.plain h
    split
    · have h2 := memoryInv_foldl (fun (s : State) (r : Nat × List Byte) => s.l2Write r.1 r.2)
        (fun _ _ h => memoryInv_l2Write _ _ _ h) (gatherRuns x.dirtyRuns) _ h1
      split
      · exact memoryInv_of_eq rfl h2
      · exact h2
    · split
      · exact h1
      · exact memoryInv_of_eq ((foldl_keep _ State.mem (by simp) _ _).trans (runOf_mem _ _ _ _)) h1
  · exact h

theorem memoryInv_writeBackPrivate {s : State} (cache : Nat) (h : memoryInv s) : memoryInv (s.writeBackPrivate cache) :=
  memoryInv_of_eq (setL1_mem _ _) (memoryInv_foldl State.writeBack (fun _ x h => memoryInv_writeBack x h) _ s h)

theorem memoryInv_l1Fill {s : State} (x : L1Line) (h : memoryInv s) : memoryInv (s.l1Fill x) := by
  unfold State.l1Fill
  dsimp only
  refine memoryInv_of_eq ((l1Touch_mem _ _ _).trans (setL1_mem _ _)) (memoryInv_foldl State.writeBack (fun _ x h => memoryInv_writeBack x h) _ _ h)

theorem memoryInv_privLine {s : State} (cache line : Nat) (o : Backing) (h : memoryInv s) : memoryInv (s.privLine cache line o) := by
  unfold State.privLine
  split
  · split
    · exact h
    · exact memoryInv_of_eq (setL1_mem _ _) h
  · exact memoryInv_l1Fill _ (memoryInv_of_eq (askLine_mem _ _) (memoryInv_reachL2 _ _ _ _ _ h))

theorem memoryInv_privRead {s : State} (cache pa : Nat) (o : Backing) (h : memoryInv s) : memoryInv (s.privRead cache pa o).2 := by
  have h := memoryInv_of_eq (l1Touch_mem _ cache (pa / 64)) (memoryInv_privLine cache (pa / 64) o h)
  unfold State.privRead
  dsimp only
  split <;> exact h

theorem memoryInv_privWrite {s : State} (cache pa : Nat) (b : Byte) (o : Backing) (h : memoryInv s) :
    memoryInv (s.privWrite cache pa b o) :=
  memoryInv_of_eq ((setL1_mem _ _).trans (l1Touch_mem _ _ _)) (memoryInv_privLine cache _ o h)

theorem memoryInv_privReads {s : State} (cache : Nat) (ls : List (Loc × Backing)) (h : memoryInv s) :
    memoryInv (s.privReads cache ls).2 := by
  induction ls generalizing s with
  | nil => exact h
  | cons l r ih =>
    obtain ⟨l, o⟩ := l
    cases l <;> first | exact ih (memoryInv_privRead cache _ o h) | exact ih h

/-! ### Locations, atomics and moved frames -/

theorem memoryInv_wrLoc {s : State} (l : Loc) (b : Byte) (h : memoryInv s) : memoryInv (s.wrLoc l b) := by
  cases l <;> first | exact memoryInv_l2Write _ _ _ h | exact h

theorem memoryInv_wrLocs {s : State} (ls : List Loc) (bs : List Byte) (h : memoryInv s) : memoryInv (s.wrLocs ls bs) :=
  memoryInv_foldl _ (fun _ x h => memoryInv_wrLoc x.1 x.2 h) _ s h

theorem memoryInv_atomAt {s : State} (l : Loc) (a : RemoteAtomic) (h : memoryInv s) : memoryInv (s.atomAt l a).2 := by
  unfold State.atomAt
  dsimp only
  cases l <;> dsimp only <;> first | exact h | (split <;> first | exact h | exact memoryInv_wrLocs _ _ h)

theorem memoryInv_moveBytes {s : State} (src dst n : Nat) (h : memoryInv s) : memoryInv (s.moveBytes src dst n) := by
  unfold State.moveBytes
  exact twf_tabCopy _ src dst n (memoryInv_of_eq ((setL2_mem _ _).trans (foldl_keep _ State.mem (fun _ _ => backInvalidate_mem _ _) _ _)) h)

/-! ### Units, traps and the end of a launch -/

theorem mem_l1Invalidate (s : State) (cache : Nat) : (s.l1Invalidate cache).mem = s.mem := rfl

theorem mem_foldl {α : Type} (f : State → α → State) (hf : ∀ s a, (f s a).mem = s.mem) (l : List α) :
    ∀ s, (l.foldl f s).mem = s.mem := by
  induction l with
  | nil => exact fun _ => rfl
  | cons a l ih => exact fun s => (ih _).trans (hf s a)

theorem mem_settleBars (s : State) (n : Word) (g w : Nat) : (s.settleBars n g w).mem = s.mem := rfl

theorem mem_settleGbar (s : State) (n : Word) (g : Nat) : (s.settleGbar n g).mem = s.mem := by
  unfold State.settleGbar
  dsimp only
  split
  · rfl
  · split
    · simp
    · exact (mem_foldl _ mem_l1Invalidate _ _).trans (by simp)

theorem mem_reapGang (s : State) (n : Word) (g : Nat) : (s.reapGang n g).mem = s.mem := by
  unfold State.reapGang; split <;> rfl

theorem memoryInv_retireCrew {s : State} (c : Crew) (h : memoryInv s) : memoryInv (s.retireCrew c) := by
  unfold State.retireCrew
  dsimp only
  refine memoryInv_of_eq ((mem_reapGang _ _ _).trans ((mem_settleGbar _ _ _).trans (mem_settleBars _ _ _ _))) ?_
  split
  · exact memoryInv_of_eq (modLaunch_mem _ _ _) (memoryInv_writeBackPrivate _ (memoryInv_of_eq rfl h))
  · exact h

theorem memoryInv_settleCrew {s : State} (r : UnitRef) (h : memoryInv s) : memoryInv (s.settleCrew r) := by
  unfold State.settleCrew
  split
  · dsimp only
    split
    · exact memoryInv_retireCrew _ h
    · exact memoryInv_of_eq (by simp) h
  · exact h

theorem memoryInv_endLaunch {s : State} (n : Word) (h : memoryInv s) : memoryInv (s.endLaunch n) := by
  unfold State.endLaunch
  dsimp only
  refine memoryInv_of_eq (mem_foldl _ (fun s g => mem_reapGang s n g) _ _) (memoryInv_of_eq (modLaunch_mem _ _ _) ?_)
  exact memoryInv_of_eq rfl (memoryInv_foldl _ (fun _ c h => memoryInv_writeBackPrivate c h) _ s h)

theorem mem_landLimb (s : State) (o : LimbOp) : (s.landLimb o).mem = s.mem := by simp [State.landLimb]

theorem mem_landSome (r : UnitRef) (n : Nat) : ∀ s : State, (State.landSome n r s).mem = s.mem := by
  induction n with
  | zero => exact fun _ => rfl
  | succ n ih =>
    intro s
    unfold State.landSome
    split
    · rfl
    · exact (ih _).trans (mem_landLimb _ _)
    · exact (ih _).trans (mem_landLimb _ _)

theorem mem_landLimbs (s : State) (r : UnitRef) : (s.landLimbs r).mem = s.mem := mem_landSome r _ s

theorem mem_idled (s : State) (r : UnitRef) (b : Bool) : (s.idled r b).mem = s.mem := by
  unfold State.idled
  dsimp only
  split <;> rfl

theorem mem_enterHandler (s : State) (u : UnitSt) (k : Nat) (t : TrapInfo) (a b : DWord) : (s.enterHandler u k t a b).mem = s.mem := by
  unfold State.enterHandler
  dsimp only
  split <;> simp

theorem memoryInv_takeTrap {s : State} (r : UnitRef) (k : Nat) (t : TrapInfo) (a b : DWord) (h : memoryInv s) :
    memoryInv (s.takeTrap r k t a b) := by
  have h : memoryInv (s.landLimbs r) := memoryInv_of_eq (mem_landLimbs s r) h
  unfold State.takeTrap
  dsimp only
  split
  · exact h
  · split
    · refine memoryInv_endLaunch _ ?_
      split
      · exact memoryInv_dump _ _ _ (memoryInv_of_eq (by simp) h)
      · exact memoryInv_of_eq (by simp) h
    · exact memoryInv_of_eq (mem_enterHandler _ _ _ _ _ _) h

theorem memoryInv_returnTrap {s : State} (r : UnitRef) (h : memoryInv s) : memoryInv (s.returnTrap r) :=
  memoryInv_of_eq (by simp [State.returnTrap]) h

theorem memoryInv_machineCheck {s : State} (r : UnitRef) (k : Nat) (pc : DWord) (l : Nat) (x : Word × Word × Word) (h : memoryInv s) :
    memoryInv (s.machineCheck r k pc l x) := by
  have h0 : memoryInv (if s.isHalted r then s else s.setPart (s.pid r) ((s.part (s.pid r)).charge 2)) := by
    split <;> exact memoryInv_of_eq rfl h
  unfold State.machineCheck
  dsimp only
  refine memoryInv_endLaunch _ ?_
  split
  · exact memoryInv_dump _ _ _ (memoryInv_ringPost .machineCheck _ h0)
  · exact memoryInv_ringPost .machineCheck _ h0

theorem memoryInv_integrityRecord {s : State} (n : Word) (k : Nat) (x : Option Nat × Nat) (h : memoryInv s) :
    memoryInv (s.integrityRecord n k x) := by
  obtain ⟨p, w⟩ := x
  cases p
  · exact memoryInv_ringPost (s := s.fresh.2) .machineCheck _ h
  · exact memoryInv_ringPost .machineCheck _ h

theorem memoryInv_integrityCheck {s : State} (r : UnitRef) (x : Option Nat × Nat) (h : memoryInv s) :
    memoryInv (s.integrityCheck r x) := by
  have h : memoryInv (s.integrityRecord r.ident (s.source r) x) := memoryInv_integrityRecord _ _ _ h
  unfold State.integrityCheck
  dsimp only
  refine memoryInv_endLaunch _ ?_
  split
  · exact memoryInv_dump _ _ _ h
  · exact h

theorem memoryInv_stopUnit {s : State} (r : UnitRef) (k w n t : Nat) (pc : DWord) (a l : Nat) (h : memoryInv s) :
    memoryInv (s.stopUnit r k w n t pc a l) :=
  memoryInv_eventPost _ (memoryInv_of_eq (by simp [State.haltPart]) h)

/-- What an instruction comes to keeps the form when the state of its own effect does. -/
theorem memoryInv_finish {s : State} (c : Ctx) (e : Eff) (h : memoryInv s)
    (he : match e with
      | .done t | .after t _ | .stay t _ _ => memoryInv t
      | _ => True) : memoryInv (s.finish c e) := by
  unfold State.finish
  cases e <;> dsimp only at he ⊢
  · exact he
  · exact memoryInv_takeTrap _ _ _ _ _ (memoryInv_of_eq (mem_idled _ _ _) h)
  · exact memoryInv_takeTrap _ _ _ _ _ he
  · exact memoryInv_of_eq (by simp) h
  · exact memoryInv_of_eq (by simp) he
  · exact memoryInv_machineCheck _ _ _ _ _ h
  · exact memoryInv_stopUnit _ _ _ _ _ _ _ _ (memoryInv_of_eq (by simp [mem_idled]) h)

end Sys2Proof.Laws
end

