-- ==== Sys2Proof/Laws/Encode.lean ====
section
/-! SUPPORT. Encoding and decoding agree field by field: each format read back, bytes read back as words, and the decoder on the words of each format. -/

namespace Sys2Proof.Laws

open Sys2Proof

/-- A bit of an append above its low part. -/
theorem bit_high {n m : Nat} (x : BitVec n) (y : BitVec m) (i k : Nat) (h : i = m + k) :
    (x ++ y).getLsbD i = x.getLsbD k := by
  subst h
  simp [BitVec.getLsbD_append]

/-- A bit of an append in its low part. -/
theorem bit_low {n m : Nat} (x : BitVec n) (y : BitVec m) (i : Nat) (h : i < m) :
    (x ++ y).getLsbD i = y.getLsbD i := by
  simp [BitVec.getLsbD_append, h]

/-- A field is read back when its bits are. -/
theorem field_eq {n w : Nat} (x : BitVec n) (s : Nat) (f : BitVec w) (h : ∀ i, i < w → x.getLsbD (s + i) = f.getLsbD i) :
    x.extractLsb' s w = f := by
  ext i hi
  rw [BitVec.getElem_extractLsb', h i hi, BitVec.getLsbD_eq_getElem hi]

/-- A Boolean as a one-bit field. -/
theorem bit_bool (b : Bool) : (BitVec.ofBool b).getLsbD 0 = b := by cases b <;> rfl

/-- The first word of a 64-bit format followed by the second. -/
theorem words_append (w : BitVec 64) : w.extractLsb' 32 32 ++ w.extractLsb' 0 32 = w := by
  ext i hi
  simp only [BitVec.getElem_append, BitVec.getElem_extractLsb']
  by_cases h : i < 32
  · simp [h, BitVec.getLsbD_eq_getElem (show i < 64 by omega)]
  · simp [h, show 32 + (i - 32) = i by omega, BitVec.getLsbD_eq_getElem (show i < 64 by omega)]

/-- A field within the first word. -/
theorem field_word (w : BitVec 64) (s n : Nat) (h : s + n ≤ 32) : (w.extractLsb' 0 32).extractLsb' s n = w.extractLsb' s n := by
  ext i hi
  simp [BitVec.getElem_extractLsb', show s + i < 32 by omega]

/-- The bits of the format as an append of its fields. -/
theorem Op.toBits_bit (o : Op) (opc : Nat) (len : BitVec 2) (k : Nat) :
    (o.toBits opc len).getLsbD k = (o.fn ++ o.ty ++ BitVec.ofBool o.tec ++ BitVec.ofBool o.teb ++ BitVec.ofBool o.tea ++ BitVec.ofBool o.gn ++ o.g ++ o.sc ++ o.sb ++ o.sa ++ o.d ++ BitVec.ofNat 8 opc ++ len).getLsbD k := rfl

/-- Field len. -/
theorem Op.toBits_len (o : Op) (opc : Nat) (len : BitVec 2) : (o.toBits opc len).extractLsb' 0 2 = len := by
  refine field_eq _ _ _ fun i hi => ?_
  rw [Op.toBits_bit]
  rw [bit_low _ _ _ (by omega)]
  simp

/-- Field opc. -/
theorem Op.toBits_opc (o : Op) (opc : Nat) (len : BitVec 2) : (o.toBits opc len).extractLsb' 2 8 = BitVec.ofNat 8 opc := by
  refine field_eq _ _ _ fun i hi => ?_
  rw [Op.toBits_bit]
  rw [bit_high _ _ _ (0 + i) (by omega)]
  rw [bit_low _ _ _ (by omega)]
  simp

/-- Field d. -/
theorem Op.toBits_d (o : Op) (opc : Nat) (len : BitVec 2) : (o.toBits opc len).extractLsb' 10 8 = o.d := by
  refine field_eq _ _ _ fun i hi => ?_
  rw [Op.toBits_bit]
  rw [bit_high _ _ _ (8 + i) (by omega)]
  rw [bit_high _ _ _ (0 + i) (by omega)]
  rw [bit_low _ _ _ (by omega)]
  simp

/-- Field sa. -/
theorem Op.toBits_sa (o : Op) (opc : Nat) (len : BitVec 2) : (o.toBits opc len).extractLsb' 18 8 = o.sa := by
  refine field_eq _ _ _ fun i hi => ?_
  rw [Op.toBits_bit]
  rw [bit_high _ _ _ (16 + i) (by omega)]
  rw [bit_high _ _ _ (8 + i) (by omega)]
  rw [bit_high _ _ _ (0 + i) (by omega)]
  rw [bit_low _ _ _ (by omega)]
  simp

/-- Field sb. -/
theorem Op.toBits_sb (o : Op) (opc : Nat) (len : BitVec 2) : (o.toBits opc len).extractLsb' 26 8 = o.sb := by
  refine field_eq _ _ _ fun i hi => ?_
  rw [Op.toBits_bit]
  rw [bit_high _ _ _ (24 + i) (by omega)]
  rw [bit_high _ _ _ (16 + i) (by omega)]
  rw [bit_high _ _ _ (8 + i) (by omega)]
  rw [bit_high _ _ _ (0 + i) (by omega)]
  rw [bit_low _ _ _ (by omega)]
  simp

/-- Field sc. -/
theorem Op.toBits_sc (o : Op) (opc : Nat) (len : BitVec 2) : (o.toBits opc len).extractLsb' 34 8 = o.sc := by
  refine field_eq _ _ _ fun i hi => ?_
  rw [Op.toBits_bit]
  rw [bit_high _ _ _ (32 + i) (by omega)]
  rw [bit_high _ _ _ (24 + i) (by omega)]
  rw [bit_high _ _ _ (16 + i) (by omega)]
  rw [bit_high _ _ _ (8 + i) (by omega)]
  rw [bit_high _ _ _ (0 + i) (by omega)]
  rw [bit_low _ _ _ (by omega)]
  simp

/-- Field g. -/
theorem Op.toBits_g (o : Op) (opc : Nat) (len : BitVec 2) : (o.toBits opc len).extractLsb' 42 6 = o.g := by
  refine field_eq _ _ _ fun i hi => ?_
  rw [Op.toBits_bit]
  rw [bit_high _ _ _ (40 + i) (by omega)]
  rw [bit_high _ _ _ (32 + i) (by omega)]
  rw [bit_high _ _ _ (24 + i) (by omega)]
  rw [bit_high _ _ _ (16 + i) (by omega)]
  rw [bit_high _ _ _ (8 + i) (by omega)]
  rw [bit_high _ _ _ (0 + i) (by omega)]
  rw [bit_low _ _ _ (by omega)]
  simp

/-- Field gn. -/
theorem Op.toBits_gn (o : Op) (opc : Nat) (len : BitVec 2) : (o.toBits opc len).getLsbD 48 = o.gn := by
  rw [Op.toBits_bit]
  rw [bit_high _ _ _ 46 rfl]
  rw [bit_high _ _ _ 38 rfl]
  rw [bit_high _ _ _ 30 rfl]
  rw [bit_high _ _ _ 22 rfl]
  rw [bit_high _ _ _ 14 rfl]
  rw [bit_high _ _ _ 6 rfl]
  rw [bit_high _ _ _ 0 rfl]
  rw [bit_low _ _ _ (by omega)]
  exact bit_bool _

/-- Field tea. -/
theorem Op.toBits_tea (o : Op) (opc : Nat) (len : BitVec 2) : (o.toBits opc len).getLsbD 49 = o.tea := by
  rw [Op.toBits_bit]
  rw [bit_high _ _ _ 47 rfl]
  rw [bit_high _ _ _ 39 rfl]
  rw [bit_high _ _ _ 31 rfl]
  rw [bit_high _ _ _ 23 rfl]
  rw [bit_high _ _ _ 15 rfl]
  rw [bit_high _ _ _ 7 rfl]
  rw [bit_high _ _ _ 1 rfl]
  rw [bit_high _ _ _ 0 rfl]
  rw [bit_low _ _ _ (by omega)]
  exact bit_bool _

/-- Field teb. -/
theorem Op.toBits_teb (o : Op) (opc : Nat) (len : BitVec 2) : (o.toBits opc len).getLsbD 50 = o.teb := by
  rw [Op.toBits_bit]
  rw [bit_high _ _ _ 48 rfl]
  rw [bit_high _ _ _ 40 rfl]
  rw [bit_high _ _ _ 32 rfl]
  rw [bit_high _ _ _ 24 rfl]
  rw [bit_high _ _ _ 16 rfl]
  rw [bit_high _ _ _ 8 rfl]
  rw [bit_high _ _ _ 2 rfl]
  rw [bit_high _ _ _ 1 rfl]
  rw [bit_high _ _ _ 0 rfl]
  rw [bit_low _ _ _ (by omega)]
  exact bit_bool _

/-- Field tec. -/
theorem Op.toBits_tec (o : Op) (opc : Nat) (len : BitVec 2) : (o.toBits opc len).getLsbD 51 = o.tec := by
  rw [Op.toBits_bit]
  rw [bit_high _ _ _ 49 rfl]
  rw [bit_high _ _ _ 41 rfl]
  rw [bit_high _ _ _ 33 rfl]
  rw [bit_high _ _ _ 25 rfl]
  rw [bit_high _ _ _ 17 rfl]
  rw [bit_high _ _ _ 9 rfl]
  rw [bit_high _ _ _ 3 rfl]
  rw [bit_high _ _ _ 2 rfl]
  rw [bit_high _ _ _ 1 rfl]
  rw [bit_high _ _ _ 0 rfl]
  rw [bit_low _ _ _ (by omega)]
  exact bit_bool _

/-- Field ty. -/
theorem Op.toBits_ty (o : Op) (opc : Nat) (len : BitVec 2) : (o.toBits opc len).extractLsb' 52 4 = o.ty := by
  refine field_eq _ _ _ fun i hi => ?_
  rw [Op.toBits_bit]
  rw [bit_high _ _ _ (50 + i) (by omega)]
  rw [bit_high _ _ _ (42 + i) (by omega)]
  rw [bit_high _ _ _ (34 + i) (by omega)]
  rw [bit_high _ _ _ (26 + i) (by omega)]
  rw [bit_high _ _ _ (18 + i) (by omega)]
  rw [bit_high _ _ _ (10 + i) (by omega)]
  rw [bit_high _ _ _ (4 + i) (by omega)]
  rw [bit_high _ _ _ (3 + i) (by omega)]
  rw [bit_high _ _ _ (2 + i) (by omega)]
  rw [bit_high _ _ _ (1 + i) (by omega)]
  rw [bit_high _ _ _ (0 + i) (by omega)]
  rw [bit_low _ _ _ (by omega)]
  simp

/-- Field fn. -/
theorem Op.toBits_fn (o : Op) (opc : Nat) (len : BitVec 2) : (o.toBits opc len).extractLsb' 56 8 = o.fn := by
  refine field_eq _ _ _ fun i hi => ?_
  rw [Op.toBits_bit]
  rw [bit_high _ _ _ (54 + i) (by omega)]
  rw [bit_high _ _ _ (46 + i) (by omega)]
  rw [bit_high _ _ _ (38 + i) (by omega)]
  rw [bit_high _ _ _ (30 + i) (by omega)]
  rw [bit_high _ _ _ (22 + i) (by omega)]
  rw [bit_high _ _ _ (14 + i) (by omega)]
  rw [bit_high _ _ _ (8 + i) (by omega)]
  rw [bit_high _ _ _ (7 + i) (by omega)]
  rw [bit_high _ _ _ (6 + i) (by omega)]
  rw [bit_high _ _ _ (5 + i) (by omega)]
  rw [bit_high _ _ _ (4 + i) (by omega)]
  rw [bit_high _ _ _ (0 + i) (by omega)]
  simp

/-- The bits of the format as an append of its fields. -/
theorem MemOp.toBits_bit (o : MemOp) (opc : Nat) (len : BitVec 2) (k : Nat) :
    (o.toBits opc len).getLsbD k = (BitVec.ofBool o.ted ++ BitVec.ofBool o.tebase ++ o.cp ++ o.szf ++ o.off ++ BitVec.ofBool o.gn ++ o.g ++ o.base ++ o.data ++ BitVec.ofNat 8 opc ++ len).getLsbD k := rfl

/-- Field len. -/
theorem MemOp.toBits_len (o : MemOp) (opc : Nat) (len : BitVec 2) : (o.toBits opc len).extractLsb' 0 2 = len := by
  refine field_eq _ _ _ fun i hi => ?_
  rw [MemOp.toBits_bit]
  rw [bit_low _ _ _ (by omega)]
  simp

/-- Field opc. -/
theorem MemOp.toBits_opc (o : MemOp) (opc : Nat) (len : BitVec 2) : (o.toBits opc len).extractLsb' 2 8 = BitVec.ofNat 8 opc := by
  refine field_eq _ _ _ fun i hi => ?_
  rw [MemOp.toBits_bit]
  rw [bit_high _ _ _ (0 + i) (by omega)]
  rw [bit_low _ _ _ (by omega)]
  simp

/-- Field data. -/
theorem MemOp.toBits_data (o : MemOp) (opc : Nat) (len : BitVec 2) : (o.toBits opc len).extractLsb' 10 8 = o.data := by
  refine field_eq _ _ _ fun i hi => ?_
  rw [MemOp.toBits_bit]
  rw [bit_high _ _ _ (8 + i) (by omega)]
  rw [bit_high _ _ _ (0 + i) (by omega)]
  rw [bit_low _ _ _ (by omega)]
  simp

/-- Field base. -/
theorem MemOp.toBits_base (o : MemOp) (opc : Nat) (len : BitVec 2) : (o.toBits opc len).extractLsb' 18 7 = o.base := by
  refine field_eq _ _ _ fun i hi => ?_
  rw [MemOp.toBits_bit]
  rw [bit_high _ _ _ (16 + i) (by omega)]
  rw [bit_high _ _ _ (8 + i) (by omega)]
  rw [bit_high _ _ _ (0 + i) (by omega)]
  rw [bit_low _ _ _ (by omega)]
  simp

/-- Field g. -/
theorem MemOp.toBits_g (o : MemOp) (opc : Nat) (len : BitVec 2) : (o.toBits opc len).extractLsb' 25 6 = o.g := by
  refine field_eq _ _ _ fun i hi => ?_
  rw [MemOp.toBits_bit]
  rw [bit_high _ _ _ (23 + i) (by omega)]
  rw [bit_high _ _ _ (15 + i) (by omega)]
  rw [bit_high _ _ _ (7 + i) (by omega)]
  rw [bit_high _ _ _ (0 + i) (by omega)]
  rw [bit_low _ _ _ (by omega)]
  simp

/-- Field gn. -/
theorem MemOp.toBits_gn (o : MemOp) (opc : Nat) (len : BitVec 2) : (o.toBits opc len).getLsbD 31 = o.gn := by
  rw [MemOp.toBits_bit]
  rw [bit_high _ _ _ 29 rfl]
  rw [bit_high _ _ _ 21 rfl]
  rw [bit_high _ _ _ 13 rfl]
  rw [bit_high _ _ _ 6 rfl]
  rw [bit_high _ _ _ 0 rfl]
  rw [bit_low _ _ _ (by omega)]
  exact bit_bool _

/-- Field off. -/
theorem MemOp.toBits_off (o : MemOp) (opc : Nat) (len : BitVec 2) : (o.toBits opc len).extractLsb' 32 24 = o.off := by
  refine field_eq _ _ _ fun i hi => ?_
  rw [MemOp.toBits_bit]
  rw [bit_high _ _ _ (30 + i) (by omega)]
  rw [bit_high _ _ _ (22 + i) (by omega)]
  rw [bit_high _ _ _ (14 + i) (by omega)]
  rw [bit_high _ _ _ (7 + i) (by omega)]
  rw [bit_high _ _ _ (1 + i) (by omega)]
  rw [bit_high _ _ _ (0 + i) (by omega)]
  rw [bit_low _ _ _ (by omega)]
  simp

/-- Field szf. -/
theorem MemOp.toBits_szf (o : MemOp) (opc : Nat) (len : BitVec 2) : (o.toBits opc len).extractLsb' 56 4 = o.szf := by
  refine field_eq _ _ _ fun i hi => ?_
  rw [MemOp.toBits_bit]
  rw [bit_high _ _ _ (54 + i) (by omega)]
  rw [bit_high _ _ _ (46 + i) (by omega)]
  rw [bit_high _ _ _ (38 + i) (by omega)]
  rw [bit_high _ _ _ (31 + i) (by omega)]
  rw [bit_high _ _ _ (25 + i) (by omega)]
  rw [bit_high _ _ _ (24 + i) (by omega)]
  rw [bit_high _ _ _ (0 + i) (by omega)]
  rw [bit_low _ _ _ (by omega)]
  simp

/-- Field cp. -/
theorem MemOp.toBits_cp (o : MemOp) (opc : Nat) (len : BitVec 2) : (o.toBits opc len).extractLsb' 60 2 = o.cp := by
  refine field_eq _ _ _ fun i hi => ?_
  rw [MemOp.toBits_bit]
  rw [bit_high _ _ _ (58 + i) (by omega)]
  rw [bit_high _ _ _ (50 + i) (by omega)]
  rw [bit_high _ _ _ (42 + i) (by omega)]
  rw [bit_high _ _ _ (35 + i) (by omega)]
  rw [bit_high _ _ _ (29 + i) (by omega)]
  rw [bit_high _ _ _ (28 + i) (by omega)]
  rw [bit_high _ _ _ (4 + i) (by omega)]
  rw [bit_high _ _ _ (0 + i) (by omega)]
  rw [bit_low _ _ _ (by omega)]
  simp

/-- Field tebase. -/
theorem MemOp.toBits_tebase (o : MemOp) (opc : Nat) (len : BitVec 2) : (o.toBits opc len).getLsbD 62 = o.tebase := by
  rw [MemOp.toBits_bit]
  rw [bit_high _ _ _ 60 rfl]
  rw [bit_high _ _ _ 52 rfl]
  rw [bit_high _ _ _ 44 rfl]
  rw [bit_high _ _ _ 37 rfl]
  rw [bit_high _ _ _ 31 rfl]
  rw [bit_high _ _ _ 30 rfl]
  rw [bit_high _ _ _ 6 rfl]
  rw [bit_high _ _ _ 2 rfl]
  rw [bit_high _ _ _ 0 rfl]
  rw [bit_low _ _ _ (by omega)]
  exact bit_bool _

/-- Field ted. -/
theorem MemOp.toBits_ted (o : MemOp) (opc : Nat) (len : BitVec 2) : (o.toBits opc len).getLsbD 63 = o.ted := by
  rw [MemOp.toBits_bit]
  rw [bit_high _ _ _ 61 rfl]
  rw [bit_high _ _ _ 53 rfl]
  rw [bit_high _ _ _ 45 rfl]
  rw [bit_high _ _ _ 38 rfl]
  rw [bit_high _ _ _ 32 rfl]
  rw [bit_high _ _ _ 31 rfl]
  rw [bit_high _ _ _ 7 rfl]
  rw [bit_high _ _ _ 3 rfl]
  rw [bit_high _ _ _ 1 rfl]
  rw [bit_high _ _ _ 0 rfl]
  exact bit_bool _

/-- The bits of the format as an append of its fields. -/
theorem MemExt.toBits_bit (e : MemExt) (k : Nat) :
    e.toBits.getLsbD k = (e.rsv ++ BitVec.ofBool e.texb ++ BitVec.ofBool e.texa ++ e.scope ++ e.ord ++ e.aop ++ e.xb ++ e.xa).getLsbD k := rfl

/-- Field xa. -/
theorem MemExt.toBits_xa (e : MemExt) : e.toBits.extractLsb' 0 8 = e.xa := by
  refine field_eq _ _ _ fun i hi => ?_
  rw [MemExt.toBits_bit]
  rw [bit_low _ _ _ (by omega)]
  simp

/-- Field xb. -/
theorem MemExt.toBits_xb (e : MemExt) : e.toBits.extractLsb' 8 8 = e.xb := by
  refine field_eq _ _ _ fun i hi => ?_
  rw [MemExt.toBits_bit]
  rw [bit_high _ _ _ (0 + i) (by omega)]
  rw [bit_low _ _ _ (by omega)]
  simp

/-- Field aop. -/
theorem MemExt.toBits_aop (e : MemExt) : e.toBits.extractLsb' 16 4 = e.aop := by
  refine field_eq _ _ _ fun i hi => ?_
  rw [MemExt.toBits_bit]
  rw [bit_high _ _ _ (8 + i) (by omega)]
  rw [bit_high _ _ _ (0 + i) (by omega)]
  rw [bit_low _ _ _ (by omega)]
  simp

/-- Field ord. -/
theorem MemExt.toBits_ord (e : MemExt) : e.toBits.extractLsb' 20 2 = e.ord := by
  refine field_eq _ _ _ fun i hi => ?_
  rw [MemExt.toBits_bit]
  rw [bit_high _ _ _ (12 + i) (by omega)]
  rw [bit_high _ _ _ (4 + i) (by omega)]
  rw [bit_high _ _ _ (0 + i) (by omega)]
  rw [bit_low _ _ _ (by omega)]
  simp

/-- Field scope. -/
theorem MemExt.toBits_scope (e : MemExt) : e.toBits.extractLsb' 22 3 = e.scope := by
  refine field_eq _ _ _ fun i hi => ?_
  rw [MemExt.toBits_bit]
  rw [bit_high _ _ _ (14 + i) (by omega)]
  rw [bit_high _ _ _ (6 + i) (by omega)]
  rw [bit_high _ _ _ (2 + i) (by omega)]
  rw [bit_high _ _ _ (0 + i) (by omega)]
  rw [bit_low _ _ _ (by omega)]
  simp

/-- Field texa. -/
theorem MemExt.toBits_texa (e : MemExt) : e.toBits.getLsbD 25 = e.texa := by
  rw [MemExt.toBits_bit]
  rw [bit_high _ _ _ 17 rfl]
  rw [bit_high _ _ _ 9 rfl]
  rw [bit_high _ _ _ 5 rfl]
  rw [bit_high _ _ _ 3 rfl]
  rw [bit_high _ _ _ 0 rfl]
  rw [bit_low _ _ _ (by omega)]
  exact bit_bool _

/-- Field texb. -/
theorem MemExt.toBits_texb (e : MemExt) : e.toBits.getLsbD 26 = e.texb := by
  rw [MemExt.toBits_bit]
  rw [bit_high _ _ _ 18 rfl]
  rw [bit_high _ _ _ 10 rfl]
  rw [bit_high _ _ _ 6 rfl]
  rw [bit_high _ _ _ 4 rfl]
  rw [bit_high _ _ _ 1 rfl]
  rw [bit_high _ _ _ 0 rfl]
  rw [bit_low _ _ _ (by omega)]
  exact bit_bool _

/-- Field rsv. -/
theorem MemExt.toBits_rsv (e : MemExt) : e.toBits.extractLsb' 27 5 = e.rsv := by
  refine field_eq _ _ _ fun i hi => ?_
  rw [MemExt.toBits_bit]
  rw [bit_high _ _ _ (19 + i) (by omega)]
  rw [bit_high _ _ _ (11 + i) (by omega)]
  rw [bit_high _ _ _ (7 + i) (by omega)]
  rw [bit_high _ _ _ (5 + i) (by omega)]
  rw [bit_high _ _ _ (2 + i) (by omega)]
  rw [bit_high _ _ _ (1 + i) (by omega)]
  rw [bit_high _ _ _ (0 + i) (by omega)]
  simp

/-- The operand fields of the 64-bit format read back. -/
theorem Op.ofBits_toBits (o : Op) (opc : Nat) (len : BitVec 2) : Op.ofBits (o.toBits opc len) o.lit = o := by
  simp only [Op.ofBits, Op.toBits_d, Op.toBits_sa, Op.toBits_sb, Op.toBits_sc, Op.toBits_g, Op.toBits_gn, Op.toBits_tea,
    Op.toBits_teb, Op.toBits_tec, Op.toBits_ty, Op.toBits_fn]

/-- The extension word read back. -/
theorem MemExt.ofBits_toBits (e : MemExt) : MemExt.ofBits e.toBits = e := by
  simp only [MemExt.ofBits, MemExt.toBits_xa, MemExt.toBits_xb, MemExt.toBits_aop, MemExt.toBits_ord, MemExt.toBits_scope,
    MemExt.toBits_texa, MemExt.toBits_texb, MemExt.toBits_rsv]

/-- The operand fields of the memory format read back. -/
theorem MemOp.ofBits_toBits (o : MemOp) (opc : Nat) (len : BitVec 2) :
    MemOp.ofBits (o.toBits opc len) (o.ext.map MemExt.toBits) = o := by
  obtain ⟨data, base, g, gn, off, szf, cp, tebase, ted, ext⟩ := o
  simp only [MemOp.ofBits, MemOp.toBits_data, MemOp.toBits_base, MemOp.toBits_g, MemOp.toBits_gn, MemOp.toBits_off,
    MemOp.toBits_szf, MemOp.toBits_cp, MemOp.toBits_tebase, MemOp.toBits_ted, Option.map_map]
  cases ext <;> simp [Function.comp, MemExt.ofBits_toBits]

/-- The opcode of the first word of the 64-bit format. -/
theorem opcodeOf_op (o : Op) (opc : Nat) (len : BitVec 2) : opcodeOf ((o.toBits opc len).extractLsb' 0 32) = opc % 256 := by
  rw [opcodeOf, field_word _ _ _ (by omega), Op.toBits_opc, BitVec.toNat_ofNat]

/-- The opcode of the first word of the memory format. -/
theorem opcodeOf_mem (o : MemOp) (opc : Nat) (len : BitVec 2) : opcodeOf ((o.toBits opc len).extractLsb' 0 32) = opc % 256 := by
  rw [opcodeOf, field_word _ _ _ (by omega), MemOp.toBits_opc, BitVec.toNat_ofNat]

/-- The low two bits of a word as its length code. -/
theorem low_two (w : Word) : w.toNat % 4 = (w.extractLsb' 0 2).toNat := by
  simp [BitVec.extractLsb'_toNat]

/-- The length of the first word of the 64-bit format. -/
theorem lenWords_op (o : Op) (opc : Nat) (len : BitVec 2) :
    ((o.toBits opc len).extractLsb' 0 32).toNat % 4 = len.toNat := by
  rw [low_two, field_word _ _ _ (by omega), Op.toBits_len]

/-- The length of the first word of the memory format. -/
theorem lenWords_mem (o : MemOp) (opc : Nat) (len : BitVec 2) :
    ((o.toBits opc len).extractLsb' 0 32).toNat % 4 = len.toNat := by
  rw [low_two, field_word _ _ _ (by omega), MemOp.toBits_len]

/-- Two words whose first asks for two. -/
theorem decodeFields_two (w w1 : Word) (hl : w.toNat % 4 = 1) (ha : opcodeAssigned (opcodeOf w) = true) :
    decodeFields [w, w1] = decodeLong (w1 ++ w) none := by
  simp only [decodeFields, lenWords, hl, ha]
  rfl

/-- Three words whose first asks for three. -/
theorem decodeFields_three (w w1 w2 : Word) (hl : w.toNat % 4 = 2) (ha : opcodeAssigned (opcodeOf w) = true) :
    decodeFields [w, w1, w2] = decodeLong (w1 ++ w) (some w2) := by
  simp only [decodeFields, lenWords, hl, ha]
  rfl

/-- The decoder on the words of the 64-bit format and of its 96-bit form. -/
theorem decodeFields_op (i : Instr) (r : Row) (o : Op) (hr : i.row = some r) (ho : i.op? = some o) (hi : Instr.ofOp r.opcode o = some i)
    (hlt : r.opcode < 256) (hs : isShortOpcode r.opcode = false) (hm : isMemOpcode r.opcode = false)
    (ha : opcodeAssigned r.opcode = true) : decodeFields (encode i) = .ok i := by
  have hop : r.opcode % 256 = r.opcode := Nat.mod_eq_of_lt hlt
  have hb (len : BitVec 2) : (BitVec.extractLsb' 2 8 (o.toBits r.opcode len)).toNat = r.opcode := by
    rw [Op.toBits_opc, BitVec.toNat_ofNat, hop]
  have hd (len : BitVec 2) : decodeLong (o.toBits r.opcode len) o.lit = .ok i := by
    simp only [decodeLong, hb, hs, hm, Op.ofBits_toBits, hi]
    rfl
  simp only [encode, hr, ho]
  cases hl : o.lit with
  | none =>
    simp only
    rw [decodeFields_two _ _ (lenWords_op o r.opcode 1) (by rw [opcodeOf_op, hop]; exact ha), words_append, ← hl, hd]
  | some l =>
    simp only
    rw [decodeFields_three _ _ _ (lenWords_op o r.opcode 2) (by rw [opcodeOf_op, hop]; exact ha), words_append, ← hl, hd]

/-- The decoder on the words of the memory format and of its 96-bit form. -/
theorem decodeFields_mem (i : Instr) (r : MemRow) (o : MemOp) (hn : i.row = none) (hr : i.memRow = some r) (ho : i.mem? = some o)
    (hi : Instr.ofMem r.opcode o = some i) (hlt : r.opcode < 256) (hs : isShortOpcode r.opcode = false)
    (hm : isMemOpcode r.opcode = true) : decodeFields (encode i) = .ok i := by
  have hop : r.opcode % 256 = r.opcode := Nat.mod_eq_of_lt hlt
  have ha : opcodeAssigned r.opcode = true := by simp [opcodeAssigned, hm]
  have hb (len : BitVec 2) : (BitVec.extractLsb' 2 8 (o.toBits r.opcode len)).toNat = r.opcode := by
    rw [MemOp.toBits_opc, BitVec.toNat_ofNat, hop]
  have hd (len : BitVec 2) : decodeLong (o.toBits r.opcode len) (o.ext.map MemExt.toBits) = .ok i := by
    simp only [decodeLong, hb, hs, hm, MemOp.ofBits_toBits, hi]
    rfl
  simp only [encode, hn, hr, ho]
  cases hl : o.ext with
  | none =>
    have h := hd 1
    rw [hl, Option.map_none] at h
    simp only
    rw [decodeFields_two _ _ (lenWords_mem o r.opcode 1) (by rw [opcodeOf_mem, hop]; exact ha), words_append, h]
  | some e =>
    have h := hd 2
    rw [hl, Option.map_some] at h
    simp only
    rw [decodeFields_three _ _ _ (lenWords_mem o r.opcode 2) (by rw [opcodeOf_mem, hop]; exact ha), words_append, h]

end Sys2Proof.Laws
end

