-- ==== Sys2Proof/Laws/Exec.lean ====
section
/-! SUPPORT. The dispatch, arm by arm: what exec does with each constructor is its meaning. -/

namespace Sys2Proof.Laws

open Sys2Proof Sys2Proof.Machine

theorem exec_nop (s : State) : exec .nop s = execNop s := rfl
theorem exec_saddShort (d a : BitVec 8) (imm : BitVec 6) (s : State) : exec (.saddShort d a imm) s = execSaddShort d a imm s := rfl
theorem exec_ssubShort (d a : BitVec 8) (imm : BitVec 6) (s : State) : exec (.ssubShort d a imm) s = execSsubShort d a imm s := rfl
theorem exec_sshlShort (d a : BitVec 8) (imm : BitVec 6) (s : State) : exec (.sshlShort d a imm) s = execSshlShort d a imm s := rfl
theorem exec_sshrShort (d a : BitVec 8) (imm : BitVec 6) (s : State) : exec (.sshrShort d a imm) s = execSshrShort d a imm s := rfl
theorem exec_smovShort (d a : BitVec 8) (s : State) : exec (.smovShort d a) s = execSmovShort d a s := rfl
theorem exec_vmovShort (d a : BitVec 8) (s : State) : exec (.vmovShort d a) s = execVmovShort d a s := rfl
theorem exec_yield (s : State) : exec .yield s = execYield s := rfl
theorem exec_exit (s : State) : exec .exit s = execExit s := rfl
theorem exec_join (s : State) : exec .join s = execJoin s := rfl
theorem exec_bktOpen (s : State) : exec .bktOpen s = execBktOpen s := rfl
theorem exec_bktClose (s : State) : exec .bktClose s = execBktClose s := rfl
theorem exec_ret (s : State) : exec .ret s = execRet s := rfl
theorem exec_tret (s : State) : exec .tret s = execTret s := rfl
theorem exec_bkpt (tag : BitVec 6) (s : State) : exec (.bkpt tag) s = execBkpt tag s := rfl
theorem exec_bar (n : BitVec 6) (s : State) : exec (.bar n) s = execBar n s := rfl
theorem exec_ornd (s : State) : exec .ornd s = execOrnd s := rfl
theorem exec_dpark (d : BitVec 8) (s : State) : exec (.dpark d) s = execDpark d s := rfl
theorem exec_dresume (a : BitVec 8) (s : State) : exec (.dresume a) s = execDresume a s := rfl
theorem exec_dprune (d a : BitVec 8) (s : State) : exec (.dprune d a) s = execDprune d a s := rfl
theorem exec_gbar (s : State) : exec .gbar s = execGbar s := rfl
theorem exec_lfree (s : State) : exec .lfree s = execLfree s := rfl
theorem exec_sadd (o : Op) (s : State) : exec (.sadd o) s = execSadd o s := rfl
theorem exec_ssub (o : Op) (s : State) : exec (.ssub o) s = execSsub o s := rfl
theorem exec_smul (o : Op) (s : State) : exec (.smul o) s = execSmul o s := rfl
theorem exec_smulh (o : Op) (s : State) : exec (.smulh o) s = execSmulh o s := rfl
theorem exec_sand (o : Op) (s : State) : exec (.sand o) s = execSand o s := rfl
theorem exec_sor (o : Op) (s : State) : exec (.sor o) s = execSor o s := rfl
theorem exec_sxor (o : Op) (s : State) : exec (.sxor o) s = execSxor o s := rfl
theorem exec_sshl (o : Op) (s : State) : exec (.sshl o) s = execSshl o s := rfl
theorem exec_sshr (o : Op) (s : State) : exec (.sshr o) s = execSshr o s := rfl
theorem exec_ssar (o : Op) (s : State) : exec (.ssar o) s = execSsar o s := rfl
theorem exec_smin (o : Op) (s : State) : exec (.smin o) s = execSmin o s := rfl
theorem exec_smax (o : Op) (s : State) : exec (.smax o) s = execSmax o s := rfl
theorem exec_ssel (o : Op) (s : State) : exec (.ssel o) s = execSsel o s := rfl
theorem exec_scmp (o : Op) (s : State) : exec (.scmp o) s = execScmp o s := rfl
theorem exec_sbfe (o : Op) (s : State) : exec (.sbfe o) s = execSbfe o s := rfl
theorem exec_sclz (o : Op) (s : State) : exec (.sclz o) s = execSclz o s := rfl
theorem exec_spopc (o : Op) (s : State) : exec (.spopc o) s = execSpopc o s := rfl
theorem exec_saddp (o : Op) (s : State) : exec (.saddp o) s = execSaddp o s := rfl
theorem exec_ssubp (o : Op) (s : State) : exec (.ssubp o) s = execSsubp o s := rfl
theorem exec_sshlp (o : Op) (s : State) : exec (.sshlp o) s = execSshlp o s := rfl
theorem exec_smov (o : Op) (s : State) : exec (.smov o) s = execSmov o s := rfl
theorem exec_plop (o : Op) (s : State) : exec (.plop o) s = execPlop o s := rfl
theorem exec_qlop (o : Op) (s : State) : exec (.qlop o) s = execQlop o s := rfl
theorem exec_pmask (o : Op) (s : State) : exec (.pmask o) s = execPmask o s := rfl
theorem exec_pset (o : Op) (s : State) : exec (.pset o) s = execPset o s := rfl
theorem exec_sysr (o : Op) (s : State) : exec (.sysr o) s = execSysr o s := rfl
theorem exec_sysw (o : Op) (s : State) : exec (.sysw o) s = execSysw o s := rfl
theorem exec_trap (o : Op) (s : State) : exec (.trap o) s = execTrap o s := rfl
theorem exec_waitEng (o : Op) (s : State) : exec (.waitEng o) s = execWaitEng o s := rfl
theorem exec_hwait (o : Op) (s : State) : exec (.hwait o) s = execHwait o s := rfl
theorem exec_htest (o : Op) (s : State) : exec (.htest o) s = execHtest o s := rfl
theorem exec_hcancel (o : Op) (s : State) : exec (.hcancel o) s = execHcancel o s := rfl
theorem exec_hpass (o : Op) (s : State) : exec (.hpass o) s = execHpass o s := rfl
theorem exec_bra (o : Op) (s : State) : exec (.bra o) s = execBra o s := rfl
theorem exec_brc (o : Op) (s : State) : exec (.brc o) s = execBrc o s := rfl
theorem exec_brd (o : Op) (s : State) : exec (.brd o) s = execBrd o s := rfl
theorem exec_call (o : Op) (s : State) : exec (.call o) s = execCall o s := rfl
theorem exec_brx (o : Op) (s : State) : exec (.brx o) s = execBrx o s := rfl
theorem exec_callx (o : Op) (s : State) : exec (.callx o) s = execCallx o s := rfl
theorem exec_draw (o : Op) (s : State) : exec (.draw o) s = execDraw o s := rfl
theorem exec_vadd (o : Op) (s : State) : exec (.vadd o) s = execVadd o s := rfl
theorem exec_vsub (o : Op) (s : State) : exec (.vsub o) s = execVsub o s := rfl
theorem exec_vmul (o : Op) (s : State) : exec (.vmul o) s = execVmul o s := rfl
theorem exec_vmulh (o : Op) (s : State) : exec (.vmulh o) s = execVmulh o s := rfl
theorem exec_vmad (o : Op) (s : State) : exec (.vmad o) s = execVmad o s := rfl
theorem exec_vand (o : Op) (s : State) : exec (.vand o) s = execVand o s := rfl
theorem exec_vor (o : Op) (s : State) : exec (.vor o) s = execVor o s := rfl
theorem exec_vxor (o : Op) (s : State) : exec (.vxor o) s = execVxor o s := rfl
theorem exec_vshl (o : Op) (s : State) : exec (.vshl o) s = execVshl o s := rfl
theorem exec_vshr (o : Op) (s : State) : exec (.vshr o) s = execVshr o s := rfl
theorem exec_vsar (o : Op) (s : State) : exec (.vsar o) s = execVsar o s := rfl
theorem exec_vmin (o : Op) (s : State) : exec (.vmin o) s = execVmin o s := rfl
theorem exec_vmax (o : Op) (s : State) : exec (.vmax o) s = execVmax o s := rfl
theorem exec_vabs (o : Op) (s : State) : exec (.vabs o) s = execVabs o s := rfl
theorem exec_vneg (o : Op) (s : State) : exec (.vneg o) s = execVneg o s := rfl
theorem exec_vadds (o : Op) (s : State) : exec (.vadds o) s = execVadds o s := rfl
theorem exec_vsubs (o : Op) (s : State) : exec (.vsubs o) s = execVsubs o s := rfl
theorem exec_vclz (o : Op) (s : State) : exec (.vclz o) s = execVclz o s := rfl
theorem exec_vpopc (o : Op) (s : State) : exec (.vpopc o) s = execVpopc o s := rfl
theorem exec_vbfe (o : Op) (s : State) : exec (.vbfe o) s = execVbfe o s := rfl
theorem exec_vbfi (o : Op) (s : State) : exec (.vbfi o) s = execVbfi o s := rfl
theorem exec_vsel (o : Op) (s : State) : exec (.vsel o) s = execVsel o s := rfl
theorem exec_vmov (o : Op) (s : State) : exec (.vmov o) s = execVmov o s := rfl
theorem exec_vcmp (o : Op) (s : State) : exec (.vcmp o) s = execVcmp o s := rfl
theorem exec_vcvt (o : Op) (s : State) : exec (.vcvt o) s = execVcvt o s := rfl
theorem exec_vsibget (o : Op) (s : State) : exec (.vsibget o) s = execVsibget o s := rfl
theorem exec_vsibmean (o : Op) (s : State) : exec (.vsibmean o) s = execVsibmean o s := rfl
theorem exec_vdigs (o : Op) (s : State) : exec (.vdigs o) s = execVdigs o s := rfl
theorem exec_vnot (o : Op) (s : State) : exec (.vnot o) s = execVnot o s := rfl
theorem exec_vfadd (o : Op) (s : State) : exec (.vfadd o) s = execVfadd o s := rfl
theorem exec_vfsub (o : Op) (s : State) : exec (.vfsub o) s = execVfsub o s := rfl
theorem exec_vfmul (o : Op) (s : State) : exec (.vfmul o) s = execVfmul o s := rfl
theorem exec_vfma (o : Op) (s : State) : exec (.vfma o) s = execVfma o s := rfl
theorem exec_vfdiv (o : Op) (s : State) : exec (.vfdiv o) s = execVfdiv o s := rfl
theorem exec_vfsqrt (o : Op) (s : State) : exec (.vfsqrt o) s = execVfsqrt o s := rfl
theorem exec_vfmin (o : Op) (s : State) : exec (.vfmin o) s = execVfmin o s := rfl
theorem exec_vfmax (o : Op) (s : State) : exec (.vfmax o) s = execVfmax o s := rfl
theorem exec_vfabs (o : Op) (s : State) : exec (.vfabs o) s = execVfabs o s := rfl
theorem exec_vfneg (o : Op) (s : State) : exec (.vfneg o) s = execVfneg o s := rfl
theorem exec_vfcps (o : Op) (s : State) : exec (.vfcps o) s = execVfcps o s := rfl
theorem exec_vfcmp (o : Op) (s : State) : exec (.vfcmp o) s = execVfcmp o s := rfl
theorem exec_vfrcp (o : Op) (s : State) : exec (.vfrcp o) s = execVfrcp o s := rfl
theorem exec_vfrcpr (o : Op) (s : State) : exec (.vfrcpr o) s = execVfrcpr o s := rfl
theorem exec_vfrsq (o : Op) (s : State) : exec (.vfrsq o) s = execVfrsq o s := rfl
theorem exec_vfrsqr (o : Op) (s : State) : exec (.vfrsqr o) s = execVfrsqr o s := rfl
theorem exec_vexp2 (o : Op) (s : State) : exec (.vexp2 o) s = execVexp2 o s := rfl
theorem exec_vexp2r (o : Op) (s : State) : exec (.vexp2r o) s = execVexp2r o s := rfl
theorem exec_vlog2 (o : Op) (s : State) : exec (.vlog2 o) s = execVlog2 o s := rfl
theorem exec_vlog2r (o : Op) (s : State) : exec (.vlog2r o) s = execVlog2r o s := rfl
theorem exec_vsin (o : Op) (s : State) : exec (.vsin o) s = execVsin o s := rfl
theorem exec_vsinr (o : Op) (s : State) : exec (.vsinr o) s = execVsinr o s := rfl
theorem exec_vcos (o : Op) (s : State) : exec (.vcos o) s = execVcos o s := rfl
theorem exec_vcosr (o : Op) (s : State) : exec (.vcosr o) s = execVcosr o s := rfl
theorem exec_vtanh (o : Op) (s : State) : exec (.vtanh o) s = execVtanh o s := rfl
theorem exec_vtanhr (o : Op) (s : State) : exec (.vtanhr o) s = execVtanhr o s := rfl
theorem exec_vnfadd (o : Op) (s : State) : exec (.vnfadd o) s = execVnfadd o s := rfl
theorem exec_vnfmul (o : Op) (s : State) : exec (.vnfmul o) s = execVnfmul o s := rfl
theorem exec_vnffma (o : Op) (s : State) : exec (.vnffma o) s = execVnffma o s := rfl
theorem exec_vnfpack (o : Op) (s : State) : exec (.vnfpack o) s = execVnfpack o s := rfl
theorem exec_vnfunpk (o : Op) (s : State) : exec (.vnfunpk o) s = execVnfunpk o s := rfl
theorem exec_vqblk (o : Op) (s : State) : exec (.vqblk o) s = execVqblk o s := rfl
theorem exec_vti (o : Op) (s : State) : exec (.vti o) s = execVti o s := rfl
theorem exec_vgmm (o : Op) (s : State) : exec (.vgmm o) s = execVgmm o s := rfl
theorem exec_vshfl (o : Op) (s : State) : exec (.vshfl o) s = execVshfl o s := rfl
theorem exec_vbcast (o : Op) (s : State) : exec (.vbcast o) s = execVbcast o s := rfl
theorem exec_vscan (o : Op) (s : State) : exec (.vscan o) s = execVscan o s := rfl
theorem exec_vred (o : Op) (s : State) : exec (.vred o) s = execVred o s := rfl
theorem exec_vote (o : Op) (s : State) : exec (.vote o) s = execVote o s := rfl
theorem exec_ballot (o : Op) (s : State) : exec (.ballot o) s = execBallot o s := rfl
theorem exec_regrp (o : Op) (s : State) : exec (.regrp o) s = execRegrp o s := rfl
theorem exec_vgf2mm (o : Op) (s : State) : exec (.vgf2mm o) s = execVgf2mm o s := rfl
theorem exec_vbdep (o : Op) (s : State) : exec (.vbdep o) s = execVbdep o s := rfl
theorem exec_vbext (o : Op) (s : State) : exec (.vbext o) s = execVbext o s := rfl
theorem exec_vbperm (o : Op) (s : State) : exec (.vbperm o) s = execVbperm o s := rfl
theorem exec_lbind (o : Op) (s : State) : exec (.lbind o) s = execLbind o s := rfl
theorem exec_ladd (o : Op) (s : State) : exec (.ladd o) s = execLadd o s := rfl
theorem exec_lsub (o : Op) (s : State) : exec (.lsub o) s = execLsub o s := rfl
theorem exec_lmuls (o : Op) (s : State) : exec (.lmuls o) s = execLmuls o s := rfl
theorem exec_lshl (o : Op) (s : State) : exec (.lshl o) s = execLshl o s := rfl
theorem exec_lshr (o : Op) (s : State) : exec (.lshr o) s = execLshr o s := rfl
theorem exec_lcmp (o : Op) (s : State) : exec (.lcmp o) s = execLcmp o s := rfl
theorem exec_lcarry (o : Op) (s : State) : exec (.lcarry o) s = execLcarry o s := rfl
theorem exec_ldVV (o : MemOp) (s : State) : exec (.ldVV o) s = execLdVV o s := rfl
theorem exec_ldVS (o : MemOp) (s : State) : exec (.ldVS o) s = execLdVS o s := rfl
theorem exec_ldSS (o : MemOp) (s : State) : exec (.ldSS o) s = execLdSS o s := rfl
theorem exec_stVV (o : MemOp) (s : State) : exec (.stVV o) s = execStVV o s := rfl
theorem exec_stVS (o : MemOp) (s : State) : exec (.stVS o) s = execStVS o s := rfl
theorem exec_stSS (o : MemOp) (s : State) : exec (.stSS o) s = execStSS o s := rfl
theorem exec_prfV (o : MemOp) (s : State) : exec (.prfV o) s = execPrfV o s := rfl
theorem exec_prfS (o : MemOp) (s : State) : exec (.prfS o) s = execPrfS o s := rfl
theorem exec_atomVV (o : MemOp) (s : State) : exec (.atomVV o) s = execAtomVV o s := rfl
theorem exec_atomVS (o : MemOp) (s : State) : exec (.atomVS o) s = execAtomVS o s := rfl
theorem exec_atomSS (o : MemOp) (s : State) : exec (.atomSS o) s = execAtomSS o s := rfl
theorem exec_atomrVV (o : MemOp) (s : State) : exec (.atomrVV o) s = execAtomrVV o s := rfl
theorem exec_atomrVS (o : MemOp) (s : State) : exec (.atomrVS o) s = execAtomrVS o s := rfl
theorem exec_atomrSS (o : MemOp) (s : State) : exec (.atomrSS o) s = execAtomrSS o s := rfl
theorem exec_casVV (o : MemOp) (s : State) : exec (.casVV o) s = execCasVV o s := rfl
theorem exec_casVS (o : MemOp) (s : State) : exec (.casVS o) s = execCasVS o s := rfl
theorem exec_casSS (o : MemOp) (s : State) : exec (.casSS o) s = execCasSS o s := rfl
theorem exec_oatomVV (o : MemOp) (s : State) : exec (.oatomVV o) s = execOatomVV o s := rfl
theorem exec_oatomVS (o : MemOp) (s : State) : exec (.oatomVS o) s = execOatomVS o s := rfl
theorem exec_cpy (o : Op) (s : State) : exec (.cpy o) s = execCpy o s := rfl
theorem exec_cpywp (o : Op) (s : State) : exec (.cpywp o) s = execCpywp o s := rfl
theorem exec_binit (o : Op) (s : State) : exec (.binit o) s = execBinit o s := rfl
theorem exec_bwait (o : Op) (s : State) : exec (.bwait o) s = execBwait o s := rfl
theorem exec_trigPost (o : Op) (s : State) : exec (.trigPost o) s = execTrigPost o s := rfl
theorem exec_trigCancel (o : Op) (s : State) : exec (.trigCancel o) s = execTrigCancel o s := rfl
theorem exec_trigRead (o : Op) (s : State) : exec (.trigRead o) s = execTrigRead o s := rfl
theorem exec_trigAdd (o : Op) (s : State) : exec (.trigAdd o) s = execTrigAdd o s := rfl
theorem exec_mldb (o : Op) (s : State) : exec (.mldb o) s = execMldb o s := rfl
theorem exec_mlda (o : Op) (s : State) : exec (.mlda o) s = execMlda o s := rfl
theorem exec_mma (o : Op) (s : State) : exec (.mma o) s = execMma o s := rfl
theorem exec_mzero (o : Op) (s : State) : exec (.mzero o) s = execMzero o s := rfl
theorem exec_mdrain (o : Op) (s : State) : exec (.mdrain o) s = execMdrain o s := rfl
theorem exec_mstat (o : Op) (s : State) : exec (.mstat o) s = execMstat o s := rfl
theorem exec_vocabStream (o : Op) (s : State) : exec (.vocabStream o) s = execVocabStream o s := rfl
theorem exec_vocabRegen (o : Op) (s : State) : exec (.vocabRegen o) s = execVocabRegen o s := rfl
theorem exec_vmeld (o : Op) (s : State) : exec (.vmeld o) s = execVmeld o s := rfl
theorem exec_vheaprd (o : Op) (s : State) : exec (.vheaprd o) s = execVheaprd o s := rfl
theorem exec_loadReturn (id lane : Nat) (s : State) : exec (.loadReturn id lane) s = execLoadReturn id lane s := rfl
theorem exec_producerFill (id lane : Nat) (s : State) : exec (.producerFill id lane) s = execProducerFill id lane s := rfl
theorem exec_limbLanding (id : Nat) (s : State) : exec (.limbLanding id) s = execLimbLanding id s := rfl
theorem exec_storeAck (id : Nat) (s : State) : exec (.storeAck id) s = execStoreAck id s := rfl
theorem exec_atomicPerform (id : Nat) (s : State) : exec (.atomicPerform id) s = execAtomicPerform id s := rfl
theorem exec_fetchBlockArrive (u : UnitRef) (slot : Nat) (block : BitVec 64) (s : State) : exec (.fetchBlockArrive u slot block) s = execFetchBlockArrive u slot block s := rfl
theorem exec_pageWalkComplete (id : Nat) (s : State) : exec (.pageWalkComplete id) s = execPageWalkComplete id s := rfl
theorem exec_heldRecordWrite (ring : RingId) (s : State) : exec (.heldRecordWrite ring) s = execHeldRecordWrite ring s := rfl
theorem exec_invalidateRange (count : BitVec 32) (s : State) : exec (.invalidateRange count) s = execInvalidateRange count s := rfl
theorem exec_replay (cmd : BitVec 64) (s : State) : exec (.replay cmd) s = execReplay cmd s := rfl
theorem exec_cancelLaunch (cmd : BitVec 64) (s : State) : exec (.cancelLaunch cmd) s = execCancelLaunch cmd s := rfl
theorem exec_migrate (slot : Nat) (ctl : BitVec 64) (s : State) : exec (.migrate slot ctl) s = execMigrate slot ctl s := rfl
theorem exec_migrationComplete (slot : Nat) (s : State) : exec (.migrationComplete slot) s = execMigrationComplete slot s := rfl
theorem exec_pinHoldExpiry (asid page : Nat) (s : State) : exec (.pinHoldExpiry asid page) s = execPinHoldExpiry asid page s := rfl
theorem exec_submissionTailWrite (queue : Nat) (value : BitVec 64) (s : State) : exec (.submissionTailWrite queue value) s = execSubmissionTailWrite queue value s := rfl
theorem exec_reservationTimeout (ident : Word) (s : State) : exec (.reservationTimeout ident) s = execReservationTimeout ident s := rfl
theorem exec_launchComplete (ident : Word) (s : State) : exec (.launchComplete ident) s = execLaunchComplete ident s := rfl
theorem exec_oatomUpdateAccept (id : Nat) (s : State) : exec (.oatomUpdateAccept id) s = execOatomUpdateAccept id s := rfl
theorem exec_roundClose (ident : Word) (s : State) : exec (.roundClose ident) s = execRoundClose ident s := rfl
theorem exec_roundApply (ident : Word) (slice : Nat) (s : State) : exec (.roundApply ident slice) s = execRoundApply ident slice s := rfl
theorem exec_roundWordWrite (ident : Word) (s : State) : exec (.roundWordWrite ident) s = execRoundWordWrite ident s := rfl
theorem exec_regrpFuse (a b : UnitRef) (s : State) : exec (.regrpFuse a b) s = execRegrpFuse a b s := rfl
theorem exec_copyAccept (cluster chan : Nat) (s : State) : exec (.copyAccept cluster chan) s = execCopyAccept cluster chan s := rfl
theorem exec_copyStep (cluster chan : Nat) (s : State) : exec (.copyStep cluster chan) s = execCopyStep cluster chan s := rfl
theorem exec_copyComplete (cluster chan : Nat) (s : State) : exec (.copyComplete cluster chan) s = execCopyComplete cluster chan s := rfl
theorem exec_matrixOpComplete (cluster core : Nat) (s : State) : exec (.matrixOpComplete cluster core) s = execMatrixOpComplete cluster core s := rfl
theorem exec_vocabTileCommit (cluster core : Nat) (s : State) : exec (.vocabTileCommit cluster core) s = execVocabTileCommit cluster core s := rfl
theorem exec_triggerRaise (id : Nat) (s : State) : exec (.triggerRaise id) s = execTriggerRaise id s := rfl
theorem exec_postedTransferComplete (slot : Nat) (s : State) : exec (.postedTransferComplete slot) s = execPostedTransferComplete slot s := rfl
theorem exec_remoteIncrement (p : Packet) (s : State) : exec (.remoteIncrement p) s = execRemoteIncrement p s := rfl
theorem exec_fabricPacket (p : Packet) (s : State) : exec (.fabricPacket p) s = execFabricPacket p s := rfl
theorem exec_fabricAck (run : FarStream) (slice : Nat) (seq : Word) (s : State) : exec (.fabricAck run slice seq) s = execFabricAck run slice seq s := rfl
theorem exec_streamEndMark (key : StreamKey) (s : State) : exec (.streamEndMark key) s = execStreamEndMark key s := rfl
theorem exec_streamAbortMark (key : StreamKey) (s : State) : exec (.streamAbortMark key) s = execStreamAbortMark key s := rfl
theorem exec_endToEndTimeout (run : FarStream) (slice : Nat) (s : State) : exec (.endToEndTimeout run slice) s = execEndToEndTimeout run slice s := rfl
theorem exec_hwmEntryExpiry (key : StreamKey) (slice : Nat) (s : State) : exec (.hwmEntryExpiry key slice) s = execHwmEntryExpiry key slice s := rfl
theorem exec_linkFlitCrcError (link : Nat) (s : State) : exec (.linkFlitCrcError link) s = execLinkFlitCrcError link s := rfl
theorem exec_drainTokenReturn (token : DrainToken) (s : State) : exec (.drainTokenReturn token) s = execDrainTokenReturn token s := rfl
theorem exec_idtabWrite (n : Nat) (value : BitVec 64) (s : State) : exec (.idtabWrite n value) s = execIdtabWrite n value s := rfl
theorem exec_preemptGang (cmd : BitVec 64) (s : State) : exec (.preemptGang cmd) s = execPreemptGang cmd s := rfl
theorem exec_preemptLaunch (cmd : BitVec 64) (s : State) : exec (.preemptLaunch cmd) s = execPreemptLaunch cmd s := rfl
theorem exec_preemptSaveDone (ident : Word) (gang : Nat) (s : State) : exec (.preemptSaveDone ident gang) s = execPreemptSaveDone ident gang s := rfl
theorem exec_dbgStop (pid : Nat) (s : State) : exec (.dbgStop pid) s = execDbgStop pid s := rfl
theorem exec_dbgResume (pid : Nat) (s : State) : exec (.dbgResume pid) s = execDbgResume pid s := rfl
theorem exec_dbgStep (pid : Nat) (s : State) : exec (.dbgStep pid) s = execDbgStep pid s := rfl
theorem exec_ctrclr (pid : Nat) (s : State) : exec (.ctrclr pid) s = execCtrclr pid s := rfl
theorem exec_watchResume (n : Nat) (s : State) : exec (.watchResume n) s = execWatchResume n s := rfl
theorem exec_sampleTick (pid : Nat) (s : State) : exec (.sampleTick pid) s = execSampleTick pid s := rfl
theorem exec_hostSnoop (snoop : Snoop) (s : State) : exec (.hostSnoop snoop) s = execHostSnoop snoop s := rfl
theorem exec_bar2Access (off : Nat) (n : Nat) (data : Option (List Byte)) (s : State) : exec (.bar2Access off n data) s = execBar2Access off n data s := rfl
theorem exec_cxlLinkTraining (hostRev hostRate hostWidth : Nat) (s : State) : exec (.cxlLinkTraining hostRev hostRate hostWidth) s = execCxlLinkTraining hostRev hostRate hostWidth s := rfl
theorem exec_supplyDroop (die : Nat) (s : State) : exec (.supplyDroop die) s = execSupplyDroop die s := rfl
theorem exec_supplyRecovery (die : Nat) (s : State) : exec (.supplyRecovery die) s = execSupplyRecovery die s := rfl
theorem exec_firmwareBoot (images : List FwImage) (cfg : FwConfig) (s : State) : exec (.firmwareBoot images cfg) s = execFirmwareBoot images cfg s := rfl
theorem exec_spdmRequest (req : SpdmRequest) (s : State) : exec (.spdmRequest req) s = execSpdmRequest req s := rfl
theorem exec_registerWrite (off : Nat) (value : BitVec 64) (s : State) : exec (.registerWrite off value) s = execRegisterWrite off value s := rfl
theorem exec_partitionCycle (pid : Nat) (s : State) : exec (.partitionCycle pid) s = execPartitionCycle pid s := rfl
theorem exec_cxlMemAccess (addr : Nat) (n : Nat) (data : Option (List Byte)) (s : State) : exec (.cxlMemAccess addr n data) s = execCxlMemAccess addr n data s := rfl
theorem exec_remoteReadRequest (src : Nat) (addr : Nat) (n : Nat) (atomic : Option Packet) (s : State) : exec (.remoteReadRequest src addr n atomic) s = execRemoteReadRequest src addr n atomic s := rfl
theorem exec_damhedanLinkTraining (link gen : Nat) (s : State) : exec (.damhedanLinkTraining link gen) s = execDamhedanLinkTraining link gen s := rfl
theorem exec_damhedanLinkDown (link : Nat) (s : State) : exec (.damhedanLinkDown link) s = execDamhedanLinkDown link s := rfl
theorem exec_invalidateAsid (s : State) : exec .invalidateAsid s = execInvalidateAsid s := rfl
theorem exec_invalidateAll (s : State) : exec .invalidateAll s = execInvalidateAll s := rfl
theorem exec_invalidationDone (s : State) : exec .invalidationDone s = execInvalidationDone s := rfl
theorem exec_launchAccept (s : State) : exec .launchAccept s = execLaunchAccept s := rfl
theorem exec_gangPlacement (s : State) : exec .gangPlacement s = execGangPlacement s := rfl
theorem exec_drawAnswer (s : State) : exec .drawAnswer s = execDrawAnswer s := rfl
theorem exec_drain (s : State) : exec .drain s = execDrain s := rfl
theorem exec_mbReadCrewState (s : State) : exec .mbReadCrewState s = execMbReadCrewState s := rfl
theorem exec_mbWriteRegister (s : State) : exec .mbWriteRegister s = execMbWriteRegister s := rfl

end Sys2Proof.Laws
end

