-- ==== Sys2Proof/Laws/Issue.lean ====
section
/-! SUPPORT. The gate and the terms of claims: an instruction issues exactly when it is ready, and what its meaning's outcome is then. -/

namespace Sys2Proof.Laws

open Sys2Proof Sys2Proof.Machine Sys2Proof.Safety

/-- No source is empty where it is waited for. -/
theorem emptySource_none {c : Ctx} (h : c.act ≠ 0 → ∀ x ∈ instrSources c.i c.u.isCox c.single, c.u.allFull (c.sourceWaits x.1 x.2.1) = true) :
    c.emptySource = none := by
  unfold Ctx.emptySource
  cases ha : c.act == 0 with
  | true => rfl
  | false =>
    have ha : c.act ≠ 0 := by simpa using ha
    have : (List.find? (fun x : RegRun × Nat × Bool => !(c.u.allFull (c.sourceWaits x.1 x.2.1)))
        (instrSources c.i c.u.isCox c.single)) = none := by
      rw [List.find?_eq_none]
      intro x hx
      simp [h ha x hx]
    simp only [Bool.false_eq_true, if_false, this]

/-- With no empty source, every source is full where it is waited for. -/
theorem sources_of_none {c : Ctx} (h : c.emptySource = none) :
    c.act ≠ 0 → ∀ x ∈ instrSources c.i c.u.isCox c.single, c.u.allFull (c.sourceWaits x.1 x.2.1) = true := by
  intro h0 x hx
  unfold Ctx.emptySource at h
  dsimp only at h
  have ha : (c.act == 0) = false := by simpa using h0
  rw [ha] at h
  split at h
  · rename_i hf
    simpa using List.find?_eq_none.1 hf x hx
  · split at h <;> cases h

/-- A ready instruction passes the gate. -/
theorem gate_of_ready {s : State} {i : Instr} {c : Ctx} (h : Ready s i c) : s.gate i = .go c := by
  obtain ⟨⟨chosen, unit, ctx, fresh, legal, guard, agree, acts, sources, dests, quiet⟩, good⟩ := h
  have hi : c.i = i := by rw [← ctx]; rfl
  have src : c.emptySource = none := emptySource_none (hi ▸ sources)
  unfold State.gate
  simp only [chosen, unit, ctx, fresh, legal, agree, src, dests, quiet, good]
  cases hu : c.slot.unfinished with
  | some m => simp [UnitSt.allFull]
  | none =>
    have hg := guard hu
    have ha := acts hu
    simp only [Option.isSome_none, Option.isNone_none, Bool.true_and, Bool.false_eq_true, if_false, hg, Bool.not_true]
    by_cases h : uniformGuard c.u (instrGuard i) = true
    · have h0 : (c.act == 0) = false := by simpa using ha h
      simp only [h, h0, Bool.and_false, Bool.false_eq_true, if_false]
    · simp [h]

/-- What a ready instruction comes to. -/
theorem issue_of_ready {s : State} {i : Instr} {c : Ctx} (h : Ready s i c) (body : Ctx → State → Eff) :
    s.issue i body = .next (s.finish c (body c (s.issued c))) := by
  simp [State.issue, gate_of_ready h]

/-- What a ready instruction of the machine's own meaning is. -/
theorem ready_instr {s : State} {i : Instr} {c : Ctx} (h : Ready s i c) : c.i = i := by
  rw [← h.ctx]; rfl

/-- The operand fields of a ready instruction of the 64-bit format. -/
theorem op_of_ready {s : State} {i : Instr} {c : Ctx} {o : Op} (h : Ready s i c) (ho : i.op? = some o) : c.op = o := by
  simp [Ctx.op, ready_instr h, ho]

theorem d_of_ready {s : State} {i : Instr} {c : Ctx} {o : Op} (h : Ready s i c) (ho : i.op? = some o) : c.d = o.d.toNat := by
  rw [Ctx.d, op_of_ready h ho]

theorem ty_of_ready {s : State} {i : Instr} {c : Ctx} {o : Op} (h : Ready s i c) (ho : i.op? = some o) : c.ty = o.ty.toNat := by
  rw [Ctx.ty, op_of_ready h ho]

theorem fn_of_ready {s : State} {i : Instr} {c : Ctx} {o : Op} (h : Ready s i c) (ho : i.op? = some o) : c.fn = o.fn.toNat := by
  rw [Ctx.fn, op_of_ready h ho]

/-- The operand fields of a ready memory instruction. -/
theorem mo_of_ready {s : State} {i : Instr} {c : Ctx} {o : MemOp} (h : Ready s i c) (ho : i.mem? = some o) : c.mo = o := by
  simp [Ctx.mo, ready_instr h, ho]

/-- The type and the function of a legal instruction are among those its row admits (R204). -/
theorem types_of_cause {r : Row} {o : Op} {cx : Option EncCtx} (h : r.cause o cx = none) :
    r.types.contains o.ty.toNat = true ∧ r.fn o.fn.toNat o.ty.toNat = true := by
  cases ht : r.types.contains o.ty.toNat with
  | false => simp only [Row.cause, ht, Bool.not_false, Bool.true_or, if_true] at h; cases h
  | true =>
    cases hf : r.fn o.fn.toNat o.ty.toNat with
    | false => simp only [Row.cause, ht, hf, Bool.not_false, Bool.not_true, Bool.true_or, Bool.or_true, if_true] at h; cases h
    | true => exact ⟨rfl, rfl⟩

/-- The same of a ready instruction. -/
theorem types_of_ready {s : State} {i : Instr} {c : Ctx} {r : Row} {o : Op} (h : Ready s i c) (hr : i.row = some r)
    (ho : i.op? = some o) : r.types.contains o.ty.toNat = true ∧ r.fn o.fn.toNat o.ty.toNat = true := by
  have hl := h.legal
  rw [Instr.cause, hr, ho] at hl
  exact types_of_cause hl

/-- An empty source is never the reason to issue, with its registers good or with a line of them that fails its check. -/
theorem emptySource_not_issue (c c' : Ctx) (b : Bool) : c.emptySource ≠ some (if b then .check c' else .go c') := by
  unfold Ctx.emptySource
  dsimp only
  split
  · simp
  · split <;> cases b <;> simp

/-- An instruction that the gate lets issue, and that has not issued before, may issue; the gate tells whether its registers are good. -/
theorem mayIssue_of_gate {s : State} {i : Instr} {c : Ctx} {b : Bool} (hp : c.slot.pendingOn = none)
    (h : s.gate i = if b then .check c else .go c) : MayIssue s i c ∧ c.readsBad = b := by
  unfold State.gate at h
  cases hiss : s.issuer with
  | none => cases b <;> simp [hiss] at h
  | some iss =>
    cases hu : s.unit? iss.unit with
    | none => cases b <;> simp [hiss, hu] at h
    | some u =>
      simp only [hiss, hu] at h
      generalize hc : s.ctxOf i iss u = c' at h
      cases hq : c'.slot.pendingOn with
      | some w =>
        simp only [hq] at h
        split at h <;> cases b <;> cases h
        simp [hp] at hq
      | none =>
      simp only [hq] at h
      cases hl : i.cause (some (s.encCtx u)) with
      | some k => cases b <;> simp [hl] at h
      | none =>
        simp only [hl] at h
        by_cases hg : u.allFull (if c'.slot.unfinished.isSome then [] else guardWait u (instrGuard i) c'.mask) = true
        · simp only [hg, Bool.not_true, Bool.false_eq_true, if_false] at h
          cases hs : c'.guardSplit with
          | some t => cases b <;> simp [hs] at h
          | none =>
            simp only [hs] at h
            cases ha : (c'.slot.unfinished.isNone && uniformGuard u (instrGuard i) && c'.act == 0) with
            | true => simp only [ha, if_true] at h; cases b <;> cases h
            | false =>
              simp only [ha, Bool.false_eq_true, if_false] at h
              cases hsrc : c'.emptySource with
              | some g =>
                simp only [hsrc] at h
                exact absurd (h ▸ hsrc) (emptySource_not_issue c' c b)
              | none =>
                simp only [hsrc] at h
                by_cases hd : u.allFull c'.destWaits = true
                · simp only [hd, Bool.not_true, Bool.false_eq_true, if_false] at h
                  cases hw : c'.extraWait s with
                  | some w => cases b <;> simp [hw] at h
                  | none =>
                    have hcb : c' = c ∧ c'.readsBad = b := by
                      simp only [hw] at h
                      cases hb : c'.readsBad <;> cases b <;> simp [hb] at h
                      · exact ⟨h, rfl⟩
                      · exact ⟨h, rfl⟩
                    obtain ⟨rfl, hb⟩ := hcb
                    subst hc
                    refine ⟨⟨hiss, hu, rfl, hq, hl, ?_, hs, ?_, ?_, hd, hw⟩, hb⟩
                    · intro hn
                      rw [hn] at hg
                      exact hg
                    · intro hn hug h0
                      rw [hn, h0] at ha
                      exact absurd ha (by simp; exact hug)
                    · exact sources_of_none hsrc
                · cases b <;> simp [hd] at h
        · cases b <;> simp [hg] at h

/-- An instruction that passes the gate, and has not issued before, is ready. -/
theorem ready_of_gate {s : State} {i : Instr} {c : Ctx} (hp : c.slot.pendingOn = none) (h : s.gate i = .go c) : Ready s i c :=
  let m := mayIssue_of_gate (b := false) hp h
  ⟨m.1, m.2⟩

end Sys2Proof.Laws
end

