-- ==== Sys2Proof/Laws/Gate.lean ====
section
/-! SUPPORT. Every instruction with an encoding runs through the one gate: its outcome is the gate's, with a meaning of its own. -/

namespace Sys2Proof.Laws

open Sys2Proof Sys2Proof.Machine

/-- An instruction with an encoding is issued with some meaning. -/
theorem exec_issue (i : Instr) (s : State) (h : i.isEvent = false) : ∃ body, exec i s = s.issue i body := by
  cases i
  case nop => rw [exec_nop]; unfold execNop; exact ⟨_, rfl⟩
  case saddShort => rw [exec_saddShort]; unfold execSaddShort scalarShort; exact ⟨_, rfl⟩
  case ssubShort => rw [exec_ssubShort]; unfold execSsubShort scalarShort; exact ⟨_, rfl⟩
  case sshlShort => rw [exec_sshlShort]; unfold execSshlShort scalarShort; exact ⟨_, rfl⟩
  case sshrShort => rw [exec_sshrShort]; unfold execSshrShort scalarShort; exact ⟨_, rfl⟩
  case smovShort => rw [exec_smovShort]; unfold execSmovShort; exact ⟨_, rfl⟩
  case vmovShort => rw [exec_vmovShort]; unfold execVmovShort; exact ⟨_, rfl⟩
  case yield => rw [exec_yield]; unfold execYield; exact ⟨_, rfl⟩
  case exit => rw [exec_exit]; unfold execExit; exact ⟨_, rfl⟩
  case join => rw [exec_join]; unfold execJoin; exact ⟨_, rfl⟩
  case bktOpen => rw [exec_bktOpen]; unfold execBktOpen; exact ⟨_, rfl⟩
  case bktClose => rw [exec_bktClose]; unfold execBktClose; exact ⟨_, rfl⟩
  case ret => rw [exec_ret]; unfold execRet; exact ⟨_, rfl⟩
  case tret => rw [exec_tret]; unfold execTret; exact ⟨_, rfl⟩
  case bkpt => rw [exec_bkpt]; unfold execBkpt; exact ⟨_, rfl⟩
  case bar => rw [exec_bar]; unfold execBar; exact ⟨_, rfl⟩
  case ornd => rw [exec_ornd]; unfold execOrnd; exact ⟨_, rfl⟩
  case dpark => rw [exec_dpark]; unfold execDpark; exact ⟨_, rfl⟩
  case dresume => rw [exec_dresume]; unfold execDresume; exact ⟨_, rfl⟩
  case dprune => rw [exec_dprune]; unfold execDprune; exact ⟨_, rfl⟩
  case gbar => rw [exec_gbar]; unfold execGbar; exact ⟨_, rfl⟩
  case lfree => rw [exec_lfree]; unfold execLfree; exact ⟨_, rfl⟩
  case sadd => rw [exec_sadd]; unfold execSadd scalar2op; exact ⟨_, rfl⟩
  case ssub => rw [exec_ssub]; unfold execSsub scalar2op; exact ⟨_, rfl⟩
  case smul => rw [exec_smul]; unfold execSmul scalar2op; exact ⟨_, rfl⟩
  case smulh => rw [exec_smulh]; unfold execSmulh scalar2op; exact ⟨_, rfl⟩
  case sand => rw [exec_sand]; unfold execSand scalar2op; exact ⟨_, rfl⟩
  case sor => rw [exec_sor]; unfold execSor scalar2op; exact ⟨_, rfl⟩
  case sxor => rw [exec_sxor]; unfold execSxor scalar2op; exact ⟨_, rfl⟩
  case sshl => rw [exec_sshl]; unfold execSshl scalar2op; exact ⟨_, rfl⟩
  case sshr => rw [exec_sshr]; unfold execSshr scalar2op; exact ⟨_, rfl⟩
  case ssar => rw [exec_ssar]; unfold execSsar scalar2op; exact ⟨_, rfl⟩
  case smin => rw [exec_smin]; unfold execSmin scalar2op; exact ⟨_, rfl⟩
  case smax => rw [exec_smax]; unfold execSmax scalar2op; exact ⟨_, rfl⟩
  case ssel => rw [exec_ssel]; unfold execSsel; exact ⟨_, rfl⟩
  case scmp => rw [exec_scmp]; unfold execScmp; exact ⟨_, rfl⟩
  case sbfe => rw [exec_sbfe]; unfold execSbfe; exact ⟨_, rfl⟩
  case sclz => rw [exec_sclz]; unfold execSclz; exact ⟨_, rfl⟩
  case spopc => rw [exec_spopc]; unfold execSpopc; exact ⟨_, rfl⟩
  case saddp => rw [exec_saddp]; unfold execSaddp; exact ⟨_, rfl⟩
  case ssubp => rw [exec_ssubp]; unfold execSsubp; exact ⟨_, rfl⟩
  case sshlp => rw [exec_sshlp]; unfold execSshlp; exact ⟨_, rfl⟩
  case smov => rw [exec_smov]; unfold execSmov; exact ⟨_, rfl⟩
  case plop => rw [exec_plop]; unfold execPlop; exact ⟨_, rfl⟩
  case qlop => rw [exec_qlop]; unfold execQlop; exact ⟨_, rfl⟩
  case pmask => rw [exec_pmask]; unfold execPmask; exact ⟨_, rfl⟩
  case pset => rw [exec_pset]; unfold execPset; exact ⟨_, rfl⟩
  case sysr => rw [exec_sysr]; unfold execSysr; exact ⟨_, rfl⟩
  case sysw => rw [exec_sysw]; unfold execSysw; exact ⟨_, rfl⟩
  case trap => rw [exec_trap]; unfold execTrap; exact ⟨_, rfl⟩
  case waitEng => rw [exec_waitEng]; unfold execWaitEng; exact ⟨_, rfl⟩
  case hwait => rw [exec_hwait]; unfold execHwait; exact ⟨_, rfl⟩
  case htest => rw [exec_htest]; unfold execHtest; exact ⟨_, rfl⟩
  case hcancel => rw [exec_hcancel]; unfold execHcancel; exact ⟨_, rfl⟩
  case hpass => rw [exec_hpass]; unfold execHpass; exact ⟨_, rfl⟩
  case bra => rw [exec_bra]; unfold execBra; exact ⟨_, rfl⟩
  case brc => rw [exec_brc]; unfold execBrc; exact ⟨_, rfl⟩
  case brd => rw [exec_brd]; unfold execBrd; exact ⟨_, rfl⟩
  case call => rw [exec_call]; unfold execCall; exact ⟨_, rfl⟩
  case brx => rw [exec_brx]; unfold execBrx; exact ⟨_, rfl⟩
  case callx => rw [exec_callx]; unfold execCallx; exact ⟨_, rfl⟩
  case draw => rw [exec_draw]; unfold execDraw; exact ⟨_, rfl⟩
  case vadd => rw [exec_vadd]; unfold execVadd vecInt; exact ⟨_, rfl⟩
  case vsub => rw [exec_vsub]; unfold execVsub vecInt; exact ⟨_, rfl⟩
  case vmul => rw [exec_vmul]; unfold execVmul vecInt; exact ⟨_, rfl⟩
  case vmulh => rw [exec_vmulh]; unfold execVmulh vecInt; exact ⟨_, rfl⟩
  case vmad => rw [exec_vmad]; unfold execVmad; exact ⟨_, rfl⟩
  case vand => rw [exec_vand]; unfold execVand vecBit; exact ⟨_, rfl⟩
  case vor => rw [exec_vor]; unfold execVor vecBit; exact ⟨_, rfl⟩
  case vxor => rw [exec_vxor]; unfold execVxor vecBit; exact ⟨_, rfl⟩
  case vshl => rw [exec_vshl]; unfold execVshl vecShift; exact ⟨_, rfl⟩
  case vshr => rw [exec_vshr]; unfold execVshr vecShift; exact ⟨_, rfl⟩
  case vsar => rw [exec_vsar]; unfold execVsar vecShift; exact ⟨_, rfl⟩
  case vmin => rw [exec_vmin]; unfold execVmin vecInt; exact ⟨_, rfl⟩
  case vmax => rw [exec_vmax]; unfold execVmax vecInt; exact ⟨_, rfl⟩
  case vabs => rw [exec_vabs]; unfold execVabs vecInt1; exact ⟨_, rfl⟩
  case vneg => rw [exec_vneg]; unfold execVneg vecInt1; exact ⟨_, rfl⟩
  case vadds => rw [exec_vadds]; unfold execVadds vecInt; exact ⟨_, rfl⟩
  case vsubs => rw [exec_vsubs]; unfold execVsubs vecInt; exact ⟨_, rfl⟩
  case vclz => rw [exec_vclz]; unfold execVclz; exact ⟨_, rfl⟩
  case vpopc => rw [exec_vpopc]; unfold execVpopc; exact ⟨_, rfl⟩
  case vbfe => rw [exec_vbfe]; unfold execVbfe; exact ⟨_, rfl⟩
  case vbfi => rw [exec_vbfi]; unfold execVbfi; exact ⟨_, rfl⟩
  case vsel => rw [exec_vsel]; unfold execVsel; exact ⟨_, rfl⟩
  case vmov => rw [exec_vmov]; unfold execVmov; exact ⟨_, rfl⟩
  case vcmp => rw [exec_vcmp]; unfold execVcmp; exact ⟨_, rfl⟩
  case vcvt => rw [exec_vcvt]; unfold execVcvt; exact ⟨_, rfl⟩
  case vsibget => rw [exec_vsibget]; unfold execVsibget; exact ⟨_, rfl⟩
  case vsibmean => rw [exec_vsibmean]; unfold execVsibmean; exact ⟨_, rfl⟩
  case vdigs => rw [exec_vdigs]; unfold execVdigs; exact ⟨_, rfl⟩
  case vnot => rw [exec_vnot]; unfold execVnot; exact ⟨_, rfl⟩
  case vfadd => rw [exec_vfadd]; unfold execVfadd vecFloat2; exact ⟨_, rfl⟩
  case vfsub => rw [exec_vfsub]; unfold execVfsub vecFloat2; exact ⟨_, rfl⟩
  case vfmul => rw [exec_vfmul]; unfold execVfmul vecFloat2; exact ⟨_, rfl⟩
  case vfma => rw [exec_vfma]; unfold execVfma; exact ⟨_, rfl⟩
  case vfdiv => rw [exec_vfdiv]; unfold execVfdiv vecFloat2; exact ⟨_, rfl⟩
  case vfsqrt => rw [exec_vfsqrt]; unfold execVfsqrt; exact ⟨_, rfl⟩
  case vfmin => rw [exec_vfmin]; unfold execVfmin vecFloat2; exact ⟨_, rfl⟩
  case vfmax => rw [exec_vfmax]; unfold execVfmax vecFloat2; exact ⟨_, rfl⟩
  case vfabs => rw [exec_vfabs]; unfold execVfabs vecSign; exact ⟨_, rfl⟩
  case vfneg => rw [exec_vfneg]; unfold execVfneg vecSign; exact ⟨_, rfl⟩
  case vfcps => rw [exec_vfcps]; unfold execVfcps vecSign; exact ⟨_, rfl⟩
  case vfcmp => rw [exec_vfcmp]; unfold execVfcmp; exact ⟨_, rfl⟩
  case vfrcp => rw [exec_vfrcp]; unfold execVfrcp vecFast; exact ⟨_, rfl⟩
  case vfrcpr => rw [exec_vfrcpr]; unfold execVfrcpr vecRepro; exact ⟨_, rfl⟩
  case vfrsq => rw [exec_vfrsq]; unfold execVfrsq vecFast; exact ⟨_, rfl⟩
  case vfrsqr => rw [exec_vfrsqr]; unfold execVfrsqr vecRepro; exact ⟨_, rfl⟩
  case vexp2 => rw [exec_vexp2]; unfold execVexp2 vecFast; exact ⟨_, rfl⟩
  case vexp2r => rw [exec_vexp2r]; unfold execVexp2r vecRepro; exact ⟨_, rfl⟩
  case vlog2 => rw [exec_vlog2]; unfold execVlog2 vecFast; exact ⟨_, rfl⟩
  case vlog2r => rw [exec_vlog2r]; unfold execVlog2r vecRepro; exact ⟨_, rfl⟩
  case vsin => rw [exec_vsin]; unfold execVsin vecFast; exact ⟨_, rfl⟩
  case vsinr => rw [exec_vsinr]; unfold execVsinr vecRepro; exact ⟨_, rfl⟩
  case vcos => rw [exec_vcos]; unfold execVcos vecFast; exact ⟨_, rfl⟩
  case vcosr => rw [exec_vcosr]; unfold execVcosr vecRepro; exact ⟨_, rfl⟩
  case vtanh => rw [exec_vtanh]; unfold execVtanh vecFast; exact ⟨_, rfl⟩
  case vtanhr => rw [exec_vtanhr]; unfold execVtanhr vecRepro; exact ⟨_, rfl⟩
  case vnfadd => rw [exec_vnfadd]; unfold execVnfadd vecPacked; exact ⟨_, rfl⟩
  case vnfmul => rw [exec_vnfmul]; unfold execVnfmul vecPacked; exact ⟨_, rfl⟩
  case vnffma => rw [exec_vnffma]; unfold execVnffma vecPacked; exact ⟨_, rfl⟩
  case vnfpack => rw [exec_vnfpack]; unfold execVnfpack; exact ⟨_, rfl⟩
  case vnfunpk => rw [exec_vnfunpk]; unfold execVnfunpk; exact ⟨_, rfl⟩
  case vqblk => rw [exec_vqblk]; unfold execVqblk; exact ⟨_, rfl⟩
  case vti => rw [exec_vti]; unfold execVti; exact ⟨_, rfl⟩
  case vgmm => rw [exec_vgmm]; unfold execVgmm; exact ⟨_, rfl⟩
  case vshfl => rw [exec_vshfl]; unfold execVshfl; exact ⟨_, rfl⟩
  case vbcast => rw [exec_vbcast]; unfold execVbcast; exact ⟨_, rfl⟩
  case vscan => rw [exec_vscan]; unfold execVscan scanOp; exact ⟨_, rfl⟩
  case vred => rw [exec_vred]; unfold execVred scanOp; exact ⟨_, rfl⟩
  case vote => rw [exec_vote]; unfold execVote; exact ⟨_, rfl⟩
  case ballot => rw [exec_ballot]; unfold execBallot; exact ⟨_, rfl⟩
  case regrp => rw [exec_regrp]; unfold execRegrp; exact ⟨_, rfl⟩
  case vgf2mm => rw [exec_vgf2mm]; unfold execVgf2mm; exact ⟨_, rfl⟩
  case vbdep => rw [exec_vbdep]; unfold execVbdep; exact ⟨_, rfl⟩
  case vbext => rw [exec_vbext]; unfold execVbext; exact ⟨_, rfl⟩
  case vbperm => rw [exec_vbperm]; unfold execVbperm; exact ⟨_, rfl⟩
  case lbind => rw [exec_lbind]; unfold execLbind; exact ⟨_, rfl⟩
  case ladd => rw [exec_ladd]; unfold execLadd limbOp; exact ⟨_, rfl⟩
  case lsub => rw [exec_lsub]; unfold execLsub limbOp; exact ⟨_, rfl⟩
  case lmuls => rw [exec_lmuls]; unfold execLmuls limbOp; exact ⟨_, rfl⟩
  case lshl => rw [exec_lshl]; unfold execLshl limbOp; exact ⟨_, rfl⟩
  case lshr => rw [exec_lshr]; unfold execLshr limbOp; exact ⟨_, rfl⟩
  case lcmp => rw [exec_lcmp]; unfold execLcmp limbOp; exact ⟨_, rfl⟩
  case lcarry => rw [exec_lcarry]; unfold execLcarry limbOp; exact ⟨_, rfl⟩
  case ldVV => rw [exec_ldVV]; unfold execLdVV memOp; exact ⟨_, rfl⟩
  case ldVS => rw [exec_ldVS]; unfold execLdVS memOp; exact ⟨_, rfl⟩
  case ldSS => rw [exec_ldSS]; unfold execLdSS memOp; exact ⟨_, rfl⟩
  case stVV => rw [exec_stVV]; unfold execStVV memOp; exact ⟨_, rfl⟩
  case stVS => rw [exec_stVS]; unfold execStVS memOp; exact ⟨_, rfl⟩
  case stSS => rw [exec_stSS]; unfold execStSS memOp; exact ⟨_, rfl⟩
  case prfV => rw [exec_prfV]; unfold execPrfV prfOp; exact ⟨_, rfl⟩
  case prfS => rw [exec_prfS]; unfold execPrfS prfOp; exact ⟨_, rfl⟩
  case atomVV => rw [exec_atomVV]; unfold execAtomVV memOp; exact ⟨_, rfl⟩
  case atomVS => rw [exec_atomVS]; unfold execAtomVS memOp; exact ⟨_, rfl⟩
  case atomSS => rw [exec_atomSS]; unfold execAtomSS memOp; exact ⟨_, rfl⟩
  case atomrVV => rw [exec_atomrVV]; unfold execAtomrVV memOp; exact ⟨_, rfl⟩
  case atomrVS => rw [exec_atomrVS]; unfold execAtomrVS memOp; exact ⟨_, rfl⟩
  case atomrSS => rw [exec_atomrSS]; unfold execAtomrSS memOp; exact ⟨_, rfl⟩
  case casVV => rw [exec_casVV]; unfold execCasVV memOp; exact ⟨_, rfl⟩
  case casVS => rw [exec_casVS]; unfold execCasVS memOp; exact ⟨_, rfl⟩
  case casSS => rw [exec_casSS]; unfold execCasSS memOp; exact ⟨_, rfl⟩
  case oatomVV => rw [exec_oatomVV]; unfold execOatomVV memOp; exact ⟨_, rfl⟩
  case oatomVS => rw [exec_oatomVS]; unfold execOatomVS memOp; exact ⟨_, rfl⟩
  case cpy => rw [exec_cpy]; unfold execCpy; exact ⟨_, rfl⟩
  case cpywp => rw [exec_cpywp]; unfold execCpywp; exact ⟨_, rfl⟩
  case binit => rw [exec_binit]; unfold execBinit; exact ⟨_, rfl⟩
  case bwait => rw [exec_bwait]; unfold execBwait; exact ⟨_, rfl⟩
  case trigPost => rw [exec_trigPost]; unfold execTrigPost; exact ⟨_, rfl⟩
  case trigCancel => rw [exec_trigCancel]; unfold execTrigCancel; exact ⟨_, rfl⟩
  case trigRead => rw [exec_trigRead]; unfold execTrigRead; exact ⟨_, rfl⟩
  case trigAdd => rw [exec_trigAdd]; unfold execTrigAdd; exact ⟨_, rfl⟩
  case mldb => rw [exec_mldb]; unfold execMldb; exact ⟨_, rfl⟩
  case mlda => rw [exec_mlda]; unfold execMlda; exact ⟨_, rfl⟩
  case mma => rw [exec_mma]; unfold execMma; exact ⟨_, rfl⟩
  case mzero => rw [exec_mzero]; unfold execMzero; exact ⟨_, rfl⟩
  case mdrain => rw [exec_mdrain]; unfold execMdrain; exact ⟨_, rfl⟩
  case mstat => rw [exec_mstat]; unfold execMstat; exact ⟨_, rfl⟩
  case vocabStream => rw [exec_vocabStream]; unfold execVocabStream; exact ⟨_, rfl⟩
  case vocabRegen => rw [exec_vocabRegen]; unfold execVocabRegen; exact ⟨_, rfl⟩
  case vmeld => rw [exec_vmeld]; unfold execVmeld; exact ⟨_, rfl⟩
  case vheaprd => rw [exec_vheaprd]; unfold execVheaprd; exact ⟨_, rfl⟩
  case loadReturn => cases h
  case producerFill => cases h
  case limbLanding => cases h
  case storeAck => cases h
  case atomicPerform => cases h
  case fetchBlockArrive => cases h
  case pageWalkComplete => cases h
  case heldRecordWrite => cases h
  case invalidateRange => cases h
  case replay => cases h
  case cancelLaunch => cases h
  case migrate => cases h
  case migrationComplete => cases h
  case pinHoldExpiry => cases h
  case submissionTailWrite => cases h
  case reservationTimeout => cases h
  case launchComplete => cases h
  case oatomUpdateAccept => cases h
  case roundClose => cases h
  case roundApply => cases h
  case roundWordWrite => cases h
  case regrpFuse => cases h
  case copyAccept => cases h
  case copyStep => cases h
  case copyComplete => cases h
  case matrixOpComplete => cases h
  case vocabTileCommit => cases h
  case triggerRaise => cases h
  case postedTransferComplete => cases h
  case remoteIncrement => cases h
  case fabricPacket => cases h
  case fabricAck => cases h
  case streamEndMark => cases h
  case streamAbortMark => cases h
  case endToEndTimeout => cases h
  case hwmEntryExpiry => cases h
  case linkFlitCrcError => cases h
  case drainTokenReturn => cases h
  case idtabWrite => cases h
  case preemptGang => cases h
  case preemptLaunch => cases h
  case preemptSaveDone => cases h
  case dbgStop => cases h
  case dbgResume => cases h
  case dbgStep => cases h
  case ctrclr => cases h
  case watchResume => cases h
  case sampleTick => cases h
  case hostSnoop => cases h
  case bar2Access => cases h
  case cxlLinkTraining => cases h
  case supplyDroop => cases h
  case supplyRecovery => cases h
  case firmwareBoot => cases h
  case spdmRequest => cases h
  case registerWrite => cases h
  case partitionCycle => cases h
  case cxlMemAccess => cases h
  case remoteReadRequest => cases h
  case damhedanLinkTraining => cases h
  case damhedanLinkDown => cases h
  case invalidateAsid => cases h
  case invalidateAll => cases h
  case invalidationDone => cases h
  case launchAccept => cases h
  case gangPlacement => cases h
  case drawAnswer => cases h
  case drain => cases h
  case mbReadCrewState => cases h
  case mbWriteRegister => cases h

end Sys2Proof.Laws
end

