-- ==== Sys2Proof/Laws/PerInstr.lean ====
section
/-! SUPPORT. The family RoundTrip: for each constructor, the decoder reads back the fields of the encoded instruction. -/

namespace Sys2Proof.Laws.RoundTrip

open Sys2Proof

/-- The words of an instruction hold its fields, whatever their values; an event has no words. -/
def Statement (i : Instr) : Prop := i.isEvent = false → decodeFields (encode i) = .ok i

/-- The fields of a word of the 32-bit format. -/
theorem short_fields (opc : Nat) (d sa : BitVec 8) (b6 : BitVec 6) (hlt : opc < 256) :
    (short opc d sa b6).toNat % 4 = 0 ∧ opcodeOf (short opc d sa b6) = opc ∧ (short opc d sa b6).extractLsb' 26 6 = b6 ∧
      (short opc d sa b6).extractLsb' 18 8 = sa ∧ (short opc d sa b6).extractLsb' 10 8 = d := by
  have hb (k : Nat) : (short opc d sa b6).getLsbD k = (b6 ++ sa ++ d ++ BitVec.ofNat 8 opc ++ (0 : BitVec 2)).getLsbD k := rfl
  refine ⟨?_, ?_, field_eq _ _ _ ?_, field_eq _ _ _ ?_, field_eq _ _ _ ?_⟩
  · rw [low_two, field_eq (short opc d sa b6) 0 (0 : BitVec 2)]
    · rfl
    · intro k hk
      rw [hb, bit_low _ _ _ (by omega)]
      simp
  · rw [opcodeOf, field_eq (short opc d sa b6) 2 (BitVec.ofNat 8 opc), BitVec.toNat_ofNat]
    · omega
    · intro k hk
      rw [hb, bit_high _ _ _ k rfl, bit_low _ _ _ (by omega)]
  · intro k hk
    rw [hb, bit_high _ _ _ (24 + k) (by omega), bit_high _ _ _ (16 + k) (by omega), bit_high _ _ _ (8 + k) (by omega),
      bit_high _ _ _ k (by omega)]
  · intro k hk
    rw [hb, bit_high _ _ _ (16 + k) (by omega), bit_high _ _ _ (8 + k) (by omega), bit_high _ _ _ k (by omega),
      bit_low _ _ _ (by omega)]
  · intro k hk
    rw [hb, bit_high _ _ _ (8 + k) (by omega), bit_high _ _ _ k (by omega), bit_low _ _ _ (by omega)]

/-- The word of an instruction of the 32-bit format read back. -/
theorem of_short (i : Instr) (opc : Nat) (d sa : BitVec 8) (b6 : BitVec 6) (hn : i.row = none) (hm : i.memRow = none)
    (he : encodeShort i = some (short opc d sa b6)) (hlt : opc < 22)
    (hd : decodeShort (short opc d sa b6) = .ok i) : Statement i := by
  intro _
  obtain ⟨hw, ho, -, -, -⟩ := short_fields opc d sa b6 (by omega)
  have hs : isShortOpcode opc = true := by simp [isShortOpcode]; omega
  have ha : opcodeAssigned opc = true := by simp [opcodeAssigned, hs]
  simp only [encode, hn, hm, he, Option.toList, decodeFields, lenWords, hw, ho, ha, hs]
  exact hd

/-- An instruction of the 64-bit format read back. -/
theorem of_op (i : Instr) (r : Row) (o : Op) (hr : i.row = some r) (ho : i.op? = some o) (hi : Instr.ofOp r.opcode o = some i)
    (hc : (decide (r.opcode < 256) && !(isShortOpcode r.opcode) && !(isMemOpcode r.opcode) && opcodeAssigned r.opcode) = true) :
    Statement i := by
  simp only [Bool.and_eq_true, decide_eq_true_eq, Bool.not_eq_true'] at hc
  exact fun _ => decodeFields_op i r o hr ho hi hc.1.1.1 hc.1.1.2 hc.1.2 hc.2

/-- A memory instruction read back. -/
theorem of_mem (i : Instr) (r : MemRow) (o : MemOp) (hn : i.row = none) (hr : i.memRow = some r) (ho : i.mem? = some o)
    (hi : Instr.ofMem r.opcode o = some i)
    (hc : (decide (r.opcode < 256) && !(isShortOpcode r.opcode) && isMemOpcode r.opcode) = true) : Statement i := by
  simp only [Bool.and_eq_true, decide_eq_true_eq, Bool.not_eq_true'] at hc
  exact fun _ => decodeFields_mem i r o hn hr ho hi hc.1.1 hc.1.2 hc.2

theorem nop : Statement .nop := by
  obtain ⟨-, ho, hb, hsa, hd⟩ := short_fields 0x00 0 0 0 (by omega)
  exact of_short _ 0x00 0 0 0 rfl rfl rfl (by omega) (by simp only [decodeShort, ho, hb, hsa, hd]; rfl)
theorem saddShort (d a : BitVec 8) (imm : BitVec 6) : Statement (.saddShort d a imm) := by
  obtain ⟨-, ho, hb, hsa, hd⟩ := short_fields 0x01 d a imm (by omega)
  exact of_short _ 0x01 d a imm rfl rfl rfl (by omega) (by simp only [decodeShort, ho, hb, hsa, hd])
theorem ssubShort (d a : BitVec 8) (imm : BitVec 6) : Statement (.ssubShort d a imm) := by
  obtain ⟨-, ho, hb, hsa, hd⟩ := short_fields 0x02 d a imm (by omega)
  exact of_short _ 0x02 d a imm rfl rfl rfl (by omega) (by simp only [decodeShort, ho, hb, hsa, hd])
theorem sshlShort (d a : BitVec 8) (imm : BitVec 6) : Statement (.sshlShort d a imm) := by
  obtain ⟨-, ho, hb, hsa, hd⟩ := short_fields 0x03 d a imm (by omega)
  exact of_short _ 0x03 d a imm rfl rfl rfl (by omega) (by simp only [decodeShort, ho, hb, hsa, hd])
theorem sshrShort (d a : BitVec 8) (imm : BitVec 6) : Statement (.sshrShort d a imm) := by
  obtain ⟨-, ho, hb, hsa, hd⟩ := short_fields 0x04 d a imm (by omega)
  exact of_short _ 0x04 d a imm rfl rfl rfl (by omega) (by simp only [decodeShort, ho, hb, hsa, hd])
theorem smovShort (d a : BitVec 8) : Statement (.smovShort d a) := by
  obtain ⟨-, ho, hb, hsa, hd⟩ := short_fields 0x05 d a 0 (by omega)
  exact of_short _ 0x05 d a 0 rfl rfl rfl (by omega) (by simp only [decodeShort, ho, hb, hsa, hd]; rfl)
theorem vmovShort (d a : BitVec 8) : Statement (.vmovShort d a) := by
  obtain ⟨-, ho, hb, hsa, hd⟩ := short_fields 0x06 d a 0 (by omega)
  exact of_short _ 0x06 d a 0 rfl rfl rfl (by omega) (by simp only [decodeShort, ho, hb, hsa, hd]; rfl)
theorem yield : Statement .yield := by
  obtain ⟨-, ho, hb, hsa, hd⟩ := short_fields 0x07 0 0 0 (by omega)
  exact of_short _ 0x07 0 0 0 rfl rfl rfl (by omega) (by simp only [decodeShort, ho, hb, hsa, hd]; rfl)
theorem exit : Statement .exit := by
  obtain ⟨-, ho, hb, hsa, hd⟩ := short_fields 0x08 0 0 0 (by omega)
  exact of_short _ 0x08 0 0 0 rfl rfl rfl (by omega) (by simp only [decodeShort, ho, hb, hsa, hd]; rfl)
theorem join : Statement .join := by
  obtain ⟨-, ho, hb, hsa, hd⟩ := short_fields 0x09 0 0 0 (by omega)
  exact of_short _ 0x09 0 0 0 rfl rfl rfl (by omega) (by simp only [decodeShort, ho, hb, hsa, hd]; rfl)
theorem bktOpen : Statement .bktOpen := by
  obtain ⟨-, ho, hb, hsa, hd⟩ := short_fields 0x0A 0 0 0 (by omega)
  exact of_short _ 0x0A 0 0 0 rfl rfl rfl (by omega) (by simp only [decodeShort, ho, hb, hsa, hd]; rfl)
theorem bktClose : Statement .bktClose := by
  obtain ⟨-, ho, hb, hsa, hd⟩ := short_fields 0x0B 0 0 0 (by omega)
  exact of_short _ 0x0B 0 0 0 rfl rfl rfl (by omega) (by simp only [decodeShort, ho, hb, hsa, hd]; rfl)
theorem ret : Statement .ret := by
  obtain ⟨-, ho, hb, hsa, hd⟩ := short_fields 0x0C 0 0 0 (by omega)
  exact of_short _ 0x0C 0 0 0 rfl rfl rfl (by omega) (by simp only [decodeShort, ho, hb, hsa, hd]; rfl)
theorem tret : Statement .tret := by
  obtain ⟨-, ho, hb, hsa, hd⟩ := short_fields 0x0D 0 0 0 (by omega)
  exact of_short _ 0x0D 0 0 0 rfl rfl rfl (by omega) (by simp only [decodeShort, ho, hb, hsa, hd]; rfl)
theorem bkpt (tag : BitVec 6) : Statement (.bkpt tag) := by
  obtain ⟨-, ho, hb, hsa, hd⟩ := short_fields 0x0E 0 0 tag (by omega)
  exact of_short _ 0x0E 0 0 tag rfl rfl rfl (by omega) (by simp only [decodeShort, ho, hb, hsa, hd]; rfl)
theorem bar (n : BitVec 6) : Statement (.bar n) := by
  obtain ⟨-, ho, hb, hsa, hd⟩ := short_fields 0x0F 0 0 n (by omega)
  exact of_short _ 0x0F 0 0 n rfl rfl rfl (by omega) (by simp only [decodeShort, ho, hb, hsa, hd]; rfl)
theorem ornd : Statement .ornd := by
  obtain ⟨-, ho, hb, hsa, hd⟩ := short_fields 0x10 0 0 0 (by omega)
  exact of_short _ 0x10 0 0 0 rfl rfl rfl (by omega) (by simp only [decodeShort, ho, hb, hsa, hd]; rfl)
theorem dpark (d : BitVec 8) : Statement (.dpark d) := by
  obtain ⟨-, ho, hb, hsa, hd⟩ := short_fields 0x11 d 0 0 (by omega)
  exact of_short _ 0x11 d 0 0 rfl rfl rfl (by omega) (by simp only [decodeShort, ho, hb, hsa, hd]; rfl)
theorem dresume (a : BitVec 8) : Statement (.dresume a) := by
  obtain ⟨-, ho, hb, hsa, hd⟩ := short_fields 0x12 0 a 0 (by omega)
  exact of_short _ 0x12 0 a 0 rfl rfl rfl (by omega) (by simp only [decodeShort, ho, hb, hsa, hd]; rfl)
theorem dprune (d a : BitVec 8) : Statement (.dprune d a) := by
  obtain ⟨-, ho, hb, hsa, hd⟩ := short_fields 0x13 d a 0 (by omega)
  exact of_short _ 0x13 d a 0 rfl rfl rfl (by omega) (by simp only [decodeShort, ho, hb, hsa, hd]; rfl)
theorem gbar : Statement .gbar := by
  obtain ⟨-, ho, hb, hsa, hd⟩ := short_fields 0x14 0 0 0 (by omega)
  exact of_short _ 0x14 0 0 0 rfl rfl rfl (by omega) (by simp only [decodeShort, ho, hb, hsa, hd]; rfl)
theorem lfree : Statement .lfree := by
  obtain ⟨-, ho, hb, hsa, hd⟩ := short_fields 0x15 0 0 0 (by omega)
  exact of_short _ 0x15 0 0 0 rfl rfl rfl (by omega) (by simp only [decodeShort, ho, hb, hsa, hd]; rfl)
theorem sadd (o : Op) : Statement (.sadd o) := of_op _ _ o rfl rfl rfl (by decide)
theorem ssub (o : Op) : Statement (.ssub o) := of_op _ _ o rfl rfl rfl (by decide)
theorem smul (o : Op) : Statement (.smul o) := of_op _ _ o rfl rfl rfl (by decide)
theorem smulh (o : Op) : Statement (.smulh o) := of_op _ _ o rfl rfl rfl (by decide)
theorem sand (o : Op) : Statement (.sand o) := of_op _ _ o rfl rfl rfl (by decide)
theorem sor (o : Op) : Statement (.sor o) := of_op _ _ o rfl rfl rfl (by decide)
theorem sxor (o : Op) : Statement (.sxor o) := of_op _ _ o rfl rfl rfl (by decide)
theorem sshl (o : Op) : Statement (.sshl o) := of_op _ _ o rfl rfl rfl (by decide)
theorem sshr (o : Op) : Statement (.sshr o) := of_op _ _ o rfl rfl rfl (by decide)
theorem ssar (o : Op) : Statement (.ssar o) := of_op _ _ o rfl rfl rfl (by decide)
theorem smin (o : Op) : Statement (.smin o) := of_op _ _ o rfl rfl rfl (by decide)
theorem smax (o : Op) : Statement (.smax o) := of_op _ _ o rfl rfl rfl (by decide)
theorem ssel (o : Op) : Statement (.ssel o) := of_op _ _ o rfl rfl rfl (by decide)
theorem scmp (o : Op) : Statement (.scmp o) := of_op _ _ o rfl rfl rfl (by decide)
theorem sbfe (o : Op) : Statement (.sbfe o) := of_op _ _ o rfl rfl rfl (by decide)
theorem sclz (o : Op) : Statement (.sclz o) := of_op _ _ o rfl rfl rfl (by decide)
theorem spopc (o : Op) : Statement (.spopc o) := of_op _ _ o rfl rfl rfl (by decide)
theorem saddp (o : Op) : Statement (.saddp o) := of_op _ _ o rfl rfl rfl (by decide)
theorem ssubp (o : Op) : Statement (.ssubp o) := of_op _ _ o rfl rfl rfl (by decide)
theorem sshlp (o : Op) : Statement (.sshlp o) := of_op _ _ o rfl rfl rfl (by decide)
theorem smov (o : Op) : Statement (.smov o) := of_op _ _ o rfl rfl rfl (by decide)
theorem plop (o : Op) : Statement (.plop o) := of_op _ _ o rfl rfl rfl (by decide)
theorem qlop (o : Op) : Statement (.qlop o) := of_op _ _ o rfl rfl rfl (by decide)
theorem pmask (o : Op) : Statement (.pmask o) := of_op _ _ o rfl rfl rfl (by decide)
theorem pset (o : Op) : Statement (.pset o) := of_op _ _ o rfl rfl rfl (by decide)
theorem sysr (o : Op) : Statement (.sysr o) := of_op _ _ o rfl rfl rfl (by decide)
theorem sysw (o : Op) : Statement (.sysw o) := of_op _ _ o rfl rfl rfl (by decide)
theorem trap (o : Op) : Statement (.trap o) := of_op _ _ o rfl rfl rfl (by decide)
theorem waitEng (o : Op) : Statement (.waitEng o) := of_op _ _ o rfl rfl rfl (by decide)
theorem hwait (o : Op) : Statement (.hwait o) := of_op _ _ o rfl rfl rfl (by decide)
theorem htest (o : Op) : Statement (.htest o) := of_op _ _ o rfl rfl rfl (by decide)
theorem hcancel (o : Op) : Statement (.hcancel o) := of_op _ _ o rfl rfl rfl (by decide)
theorem hpass (o : Op) : Statement (.hpass o) := of_op _ _ o rfl rfl rfl (by decide)
theorem bra (o : Op) : Statement (.bra o) := of_op _ _ o rfl rfl rfl (by decide)
theorem brc (o : Op) : Statement (.brc o) := of_op _ _ o rfl rfl rfl (by decide)
theorem brd (o : Op) : Statement (.brd o) := of_op _ _ o rfl rfl rfl (by decide)
theorem call (o : Op) : Statement (.call o) := of_op _ _ o rfl rfl rfl (by decide)
theorem brx (o : Op) : Statement (.brx o) := of_op _ _ o rfl rfl rfl (by decide)
theorem callx (o : Op) : Statement (.callx o) := of_op _ _ o rfl rfl rfl (by decide)
theorem draw (o : Op) : Statement (.draw o) := of_op _ _ o rfl rfl rfl (by decide)
theorem vadd (o : Op) : Statement (.vadd o) := of_op _ _ o rfl rfl rfl (by decide)
theorem vsub (o : Op) : Statement (.vsub o) := of_op _ _ o rfl rfl rfl (by decide)
theorem vmul (o : Op) : Statement (.vmul o) := of_op _ _ o rfl rfl rfl (by decide)
theorem vmulh (o : Op) : Statement (.vmulh o) := of_op _ _ o rfl rfl rfl (by decide)
theorem vmad (o : Op) : Statement (.vmad o) := of_op _ _ o rfl rfl rfl (by decide)
theorem vand (o : Op) : Statement (.vand o) := of_op _ _ o rfl rfl rfl (by decide)
theorem vor (o : Op) : Statement (.vor o) := of_op _ _ o rfl rfl rfl (by decide)
theorem vxor (o : Op) : Statement (.vxor o) := of_op _ _ o rfl rfl rfl (by decide)
theorem vshl (o : Op) : Statement (.vshl o) := of_op _ _ o rfl rfl rfl (by decide)
theorem vshr (o : Op) : Statement (.vshr o) := of_op _ _ o rfl rfl rfl (by decide)
theorem vsar (o : Op) : Statement (.vsar o) := of_op _ _ o rfl rfl rfl (by decide)
theorem vmin (o : Op) : Statement (.vmin o) := of_op _ _ o rfl rfl rfl (by decide)
theorem vmax (o : Op) : Statement (.vmax o) := of_op _ _ o rfl rfl rfl (by decide)
theorem vabs (o : Op) : Statement (.vabs o) := of_op _ _ o rfl rfl rfl (by decide)
theorem vneg (o : Op) : Statement (.vneg o) := of_op _ _ o rfl rfl rfl (by decide)
theorem vadds (o : Op) : Statement (.vadds o) := of_op _ _ o rfl rfl rfl (by decide)
theorem vsubs (o : Op) : Statement (.vsubs o) := of_op _ _ o rfl rfl rfl (by decide)
theorem vclz (o : Op) : Statement (.vclz o) := of_op _ _ o rfl rfl rfl (by decide)
theorem vpopc (o : Op) : Statement (.vpopc o) := of_op _ _ o rfl rfl rfl (by decide)
theorem vbfe (o : Op) : Statement (.vbfe o) := of_op _ _ o rfl rfl rfl (by decide)
theorem vbfi (o : Op) : Statement (.vbfi o) := of_op _ _ o rfl rfl rfl (by decide)
theorem vsel (o : Op) : Statement (.vsel o) := of_op _ _ o rfl rfl rfl (by decide)
theorem vmov (o : Op) : Statement (.vmov o) := of_op _ _ o rfl rfl rfl (by decide)
theorem vcmp (o : Op) : Statement (.vcmp o) := of_op _ _ o rfl rfl rfl (by decide)
theorem vcvt (o : Op) : Statement (.vcvt o) := of_op _ _ o rfl rfl rfl (by decide)
theorem vsibget (o : Op) : Statement (.vsibget o) := of_op _ _ o rfl rfl rfl (by decide)
theorem vsibmean (o : Op) : Statement (.vsibmean o) := of_op _ _ o rfl rfl rfl (by decide)
theorem vdigs (o : Op) : Statement (.vdigs o) := of_op _ _ o rfl rfl rfl (by decide)
theorem vnot (o : Op) : Statement (.vnot o) := of_op _ _ o rfl rfl rfl (by decide)
theorem vfadd (o : Op) : Statement (.vfadd o) := of_op _ _ o rfl rfl rfl (by decide)
theorem vfsub (o : Op) : Statement (.vfsub o) := of_op _ _ o rfl rfl rfl (by decide)
theorem vfmul (o : Op) : Statement (.vfmul o) := of_op _ _ o rfl rfl rfl (by decide)
theorem vfma (o : Op) : Statement (.vfma o) := of_op _ _ o rfl rfl rfl (by decide)
theorem vfdiv (o : Op) : Statement (.vfdiv o) := of_op _ _ o rfl rfl rfl (by decide)
theorem vfsqrt (o : Op) : Statement (.vfsqrt o) := of_op _ _ o rfl rfl rfl (by decide)
theorem vfmin (o : Op) : Statement (.vfmin o) := of_op _ _ o rfl rfl rfl (by decide)
theorem vfmax (o : Op) : Statement (.vfmax o) := of_op _ _ o rfl rfl rfl (by decide)
theorem vfabs (o : Op) : Statement (.vfabs o) := of_op _ _ o rfl rfl rfl (by decide)
theorem vfneg (o : Op) : Statement (.vfneg o) := of_op _ _ o rfl rfl rfl (by decide)
theorem vfcps (o : Op) : Statement (.vfcps o) := of_op _ _ o rfl rfl rfl (by decide)
theorem vfcmp (o : Op) : Statement (.vfcmp o) := of_op _ _ o rfl rfl rfl (by decide)
theorem vfrcp (o : Op) : Statement (.vfrcp o) := of_op _ _ o rfl rfl rfl (by decide)
theorem vfrcpr (o : Op) : Statement (.vfrcpr o) := of_op _ _ o rfl rfl rfl (by decide)
theorem vfrsq (o : Op) : Statement (.vfrsq o) := of_op _ _ o rfl rfl rfl (by decide)
theorem vfrsqr (o : Op) : Statement (.vfrsqr o) := of_op _ _ o rfl rfl rfl (by decide)
theorem vexp2 (o : Op) : Statement (.vexp2 o) := of_op _ _ o rfl rfl rfl (by decide)
theorem vexp2r (o : Op) : Statement (.vexp2r o) := of_op _ _ o rfl rfl rfl (by decide)
theorem vlog2 (o : Op) : Statement (.vlog2 o) := of_op _ _ o rfl rfl rfl (by decide)
theorem vlog2r (o : Op) : Statement (.vlog2r o) := of_op _ _ o rfl rfl rfl (by decide)
theorem vsin (o : Op) : Statement (.vsin o) := of_op _ _ o rfl rfl rfl (by decide)
theorem vsinr (o : Op) : Statement (.vsinr o) := of_op _ _ o rfl rfl rfl (by decide)
theorem vcos (o : Op) : Statement (.vcos o) := of_op _ _ o rfl rfl rfl (by decide)
theorem vcosr (o : Op) : Statement (.vcosr o) := of_op _ _ o rfl rfl rfl (by decide)
theorem vtanh (o : Op) : Statement (.vtanh o) := of_op _ _ o rfl rfl rfl (by decide)
theorem vtanhr (o : Op) : Statement (.vtanhr o) := of_op _ _ o rfl rfl rfl (by decide)
theorem vnfadd (o : Op) : Statement (.vnfadd o) := of_op _ _ o rfl rfl rfl (by decide)
theorem vnfmul (o : Op) : Statement (.vnfmul o) := of_op _ _ o rfl rfl rfl (by decide)
theorem vnffma (o : Op) : Statement (.vnffma o) := of_op _ _ o rfl rfl rfl (by decide)
theorem vnfpack (o : Op) : Statement (.vnfpack o) := of_op _ _ o rfl rfl rfl (by decide)
theorem vnfunpk (o : Op) : Statement (.vnfunpk o) := of_op _ _ o rfl rfl rfl (by decide)
theorem vqblk (o : Op) : Statement (.vqblk o) := of_op _ _ o rfl rfl rfl (by decide)
theorem vti (o : Op) : Statement (.vti o) := of_op _ _ o rfl rfl rfl (by decide)
theorem vgmm (o : Op) : Statement (.vgmm o) := of_op _ _ o rfl rfl rfl (by decide)
theorem vshfl (o : Op) : Statement (.vshfl o) := of_op _ _ o rfl rfl rfl (by decide)
theorem vbcast (o : Op) : Statement (.vbcast o) := of_op _ _ o rfl rfl rfl (by decide)
theorem vscan (o : Op) : Statement (.vscan o) := of_op _ _ o rfl rfl rfl (by decide)
theorem vred (o : Op) : Statement (.vred o) := of_op _ _ o rfl rfl rfl (by decide)
theorem vote (o : Op) : Statement (.vote o) := of_op _ _ o rfl rfl rfl (by decide)
theorem ballot (o : Op) : Statement (.ballot o) := of_op _ _ o rfl rfl rfl (by decide)
theorem regrp (o : Op) : Statement (.regrp o) := of_op _ _ o rfl rfl rfl (by decide)
theorem vgf2mm (o : Op) : Statement (.vgf2mm o) := of_op _ _ o rfl rfl rfl (by decide)
theorem vbdep (o : Op) : Statement (.vbdep o) := of_op _ _ o rfl rfl rfl (by decide)
theorem vbext (o : Op) : Statement (.vbext o) := of_op _ _ o rfl rfl rfl (by decide)
theorem vbperm (o : Op) : Statement (.vbperm o) := of_op _ _ o rfl rfl rfl (by decide)
theorem lbind (o : Op) : Statement (.lbind o) := of_op _ _ o rfl rfl rfl (by decide)
theorem ladd (o : Op) : Statement (.ladd o) := of_op _ _ o rfl rfl rfl (by decide)
theorem lsub (o : Op) : Statement (.lsub o) := of_op _ _ o rfl rfl rfl (by decide)
theorem lmuls (o : Op) : Statement (.lmuls o) := of_op _ _ o rfl rfl rfl (by decide)
theorem lshl (o : Op) : Statement (.lshl o) := of_op _ _ o rfl rfl rfl (by decide)
theorem lshr (o : Op) : Statement (.lshr o) := of_op _ _ o rfl rfl rfl (by decide)
theorem lcmp (o : Op) : Statement (.lcmp o) := of_op _ _ o rfl rfl rfl (by decide)
theorem lcarry (o : Op) : Statement (.lcarry o) := of_op _ _ o rfl rfl rfl (by decide)
theorem ldVV (o : MemOp) : Statement (.ldVV o) := of_mem _ _ o rfl rfl rfl rfl (by decide)
theorem ldVS (o : MemOp) : Statement (.ldVS o) := of_mem _ _ o rfl rfl rfl rfl (by decide)
theorem ldSS (o : MemOp) : Statement (.ldSS o) := of_mem _ _ o rfl rfl rfl rfl (by decide)
theorem stVV (o : MemOp) : Statement (.stVV o) := of_mem _ _ o rfl rfl rfl rfl (by decide)
theorem stVS (o : MemOp) : Statement (.stVS o) := of_mem _ _ o rfl rfl rfl rfl (by decide)
theorem stSS (o : MemOp) : Statement (.stSS o) := of_mem _ _ o rfl rfl rfl rfl (by decide)
theorem prfV (o : MemOp) : Statement (.prfV o) := of_mem _ _ o rfl rfl rfl rfl (by decide)
theorem prfS (o : MemOp) : Statement (.prfS o) := of_mem _ _ o rfl rfl rfl rfl (by decide)
theorem atomVV (o : MemOp) : Statement (.atomVV o) := of_mem _ _ o rfl rfl rfl rfl (by decide)
theorem atomVS (o : MemOp) : Statement (.atomVS o) := of_mem _ _ o rfl rfl rfl rfl (by decide)
theorem atomSS (o : MemOp) : Statement (.atomSS o) := of_mem _ _ o rfl rfl rfl rfl (by decide)
theorem atomrVV (o : MemOp) : Statement (.atomrVV o) := of_mem _ _ o rfl rfl rfl rfl (by decide)
theorem atomrVS (o : MemOp) : Statement (.atomrVS o) := of_mem _ _ o rfl rfl rfl rfl (by decide)
theorem atomrSS (o : MemOp) : Statement (.atomrSS o) := of_mem _ _ o rfl rfl rfl rfl (by decide)
theorem casVV (o : MemOp) : Statement (.casVV o) := of_mem _ _ o rfl rfl rfl rfl (by decide)
theorem casVS (o : MemOp) : Statement (.casVS o) := of_mem _ _ o rfl rfl rfl rfl (by decide)
theorem casSS (o : MemOp) : Statement (.casSS o) := of_mem _ _ o rfl rfl rfl rfl (by decide)
theorem oatomVV (o : MemOp) : Statement (.oatomVV o) := of_mem _ _ o rfl rfl rfl rfl (by decide)
theorem oatomVS (o : MemOp) : Statement (.oatomVS o) := of_mem _ _ o rfl rfl rfl rfl (by decide)
theorem cpy (o : Op) : Statement (.cpy o) := of_op _ _ o rfl rfl rfl (by decide)
theorem cpywp (o : Op) : Statement (.cpywp o) := of_op _ _ o rfl rfl rfl (by decide)
theorem binit (o : Op) : Statement (.binit o) := of_op _ _ o rfl rfl rfl (by decide)
theorem bwait (o : Op) : Statement (.bwait o) := of_op _ _ o rfl rfl rfl (by decide)
theorem trigPost (o : Op) : Statement (.trigPost o) := of_op _ _ o rfl rfl rfl (by decide)
theorem trigCancel (o : Op) : Statement (.trigCancel o) := of_op _ _ o rfl rfl rfl (by decide)
theorem trigRead (o : Op) : Statement (.trigRead o) := of_op _ _ o rfl rfl rfl (by decide)
theorem trigAdd (o : Op) : Statement (.trigAdd o) := of_op _ _ o rfl rfl rfl (by decide)
theorem mldb (o : Op) : Statement (.mldb o) := of_op _ _ o rfl rfl rfl (by decide)
theorem mlda (o : Op) : Statement (.mlda o) := of_op _ _ o rfl rfl rfl (by decide)
theorem mma (o : Op) : Statement (.mma o) := of_op _ _ o rfl rfl rfl (by decide)
theorem mzero (o : Op) : Statement (.mzero o) := of_op _ _ o rfl rfl rfl (by decide)
theorem mdrain (o : Op) : Statement (.mdrain o) := of_op _ _ o rfl rfl rfl (by decide)
theorem mstat (o : Op) : Statement (.mstat o) := of_op _ _ o rfl rfl rfl (by decide)
theorem vocabStream (o : Op) : Statement (.vocabStream o) := of_op _ _ o rfl rfl rfl (by decide)
theorem vocabRegen (o : Op) : Statement (.vocabRegen o) := of_op _ _ o rfl rfl rfl (by decide)
theorem vmeld (o : Op) : Statement (.vmeld o) := of_op _ _ o rfl rfl rfl (by decide)
theorem vheaprd (o : Op) : Statement (.vheaprd o) := of_op _ _ o rfl rfl rfl (by decide)
theorem loadReturn (id lane : Nat) : Statement (.loadReturn id lane) := fun h => nomatch h
theorem producerFill (id lane : Nat) : Statement (.producerFill id lane) := fun h => nomatch h
theorem limbLanding (id : Nat) : Statement (.limbLanding id) := fun h => nomatch h
theorem storeAck (id : Nat) : Statement (.storeAck id) := fun h => nomatch h
theorem atomicPerform (id : Nat) : Statement (.atomicPerform id) := fun h => nomatch h
theorem fetchBlockArrive (u : UnitRef) (slot : Nat) (block : BitVec 64) : Statement (.fetchBlockArrive u slot block) := fun h => nomatch h
theorem pageWalkComplete (id : Nat) : Statement (.pageWalkComplete id) := fun h => nomatch h
theorem heldRecordWrite (ring : RingId) : Statement (.heldRecordWrite ring) := fun h => nomatch h
theorem invalidateRange (count : BitVec 32) : Statement (.invalidateRange count) := fun h => nomatch h
theorem replay (cmd : BitVec 64) : Statement (.replay cmd) := fun h => nomatch h
theorem cancelLaunch (cmd : BitVec 64) : Statement (.cancelLaunch cmd) := fun h => nomatch h
theorem migrate (slot : Nat) (ctl : BitVec 64) : Statement (.migrate slot ctl) := fun h => nomatch h
theorem migrationComplete (slot : Nat) : Statement (.migrationComplete slot) := fun h => nomatch h
theorem pinHoldExpiry (asid page : Nat) : Statement (.pinHoldExpiry asid page) := fun h => nomatch h
theorem submissionTailWrite (queue : Nat) (value : BitVec 64) : Statement (.submissionTailWrite queue value) := fun h => nomatch h
theorem reservationTimeout (ident : Word) : Statement (.reservationTimeout ident) := fun h => nomatch h
theorem launchComplete (ident : Word) : Statement (.launchComplete ident) := fun h => nomatch h
theorem oatomUpdateAccept (id : Nat) : Statement (.oatomUpdateAccept id) := fun h => nomatch h
theorem roundClose (ident : Word) : Statement (.roundClose ident) := fun h => nomatch h
theorem roundApply (ident : Word) (slice : Nat) : Statement (.roundApply ident slice) := fun h => nomatch h
theorem roundWordWrite (ident : Word) : Statement (.roundWordWrite ident) := fun h => nomatch h
theorem regrpFuse (a b : UnitRef) : Statement (.regrpFuse a b) := fun h => nomatch h
theorem copyAccept (cluster chan : Nat) : Statement (.copyAccept cluster chan) := fun h => nomatch h
theorem copyStep (cluster chan : Nat) : Statement (.copyStep cluster chan) := fun h => nomatch h
theorem copyComplete (cluster chan : Nat) : Statement (.copyComplete cluster chan) := fun h => nomatch h
theorem matrixOpComplete (cluster core : Nat) : Statement (.matrixOpComplete cluster core) := fun h => nomatch h
theorem vocabTileCommit (cluster core : Nat) : Statement (.vocabTileCommit cluster core) := fun h => nomatch h
theorem triggerRaise (id : Nat) : Statement (.triggerRaise id) := fun h => nomatch h
theorem postedTransferComplete (slot : Nat) : Statement (.postedTransferComplete slot) := fun h => nomatch h
theorem remoteIncrement (p : Packet) : Statement (.remoteIncrement p) := fun h => nomatch h
theorem fabricPacket (p : Packet) : Statement (.fabricPacket p) := fun h => nomatch h
theorem fabricAck (run : FarStream) (slice : Nat) (seq : Word) : Statement (.fabricAck run slice seq) := fun h => nomatch h
theorem streamEndMark (key : StreamKey) : Statement (.streamEndMark key) := fun h => nomatch h
theorem streamAbortMark (key : StreamKey) : Statement (.streamAbortMark key) := fun h => nomatch h
theorem endToEndTimeout (run : FarStream) (slice : Nat) : Statement (.endToEndTimeout run slice) := fun h => nomatch h
theorem hwmEntryExpiry (key : StreamKey) (slice : Nat) : Statement (.hwmEntryExpiry key slice) := fun h => nomatch h
theorem linkFlitCrcError (link : Nat) : Statement (.linkFlitCrcError link) := fun h => nomatch h
theorem drainTokenReturn (token : DrainToken) : Statement (.drainTokenReturn token) := fun h => nomatch h
theorem idtabWrite (n : Nat) (value : BitVec 64) : Statement (.idtabWrite n value) := fun h => nomatch h
theorem preemptGang (cmd : BitVec 64) : Statement (.preemptGang cmd) := fun h => nomatch h
theorem preemptLaunch (cmd : BitVec 64) : Statement (.preemptLaunch cmd) := fun h => nomatch h
theorem preemptSaveDone (ident : Word) (gang : Nat) : Statement (.preemptSaveDone ident gang) := fun h => nomatch h
theorem dbgStop (pid : Nat) : Statement (.dbgStop pid) := fun h => nomatch h
theorem dbgResume (pid : Nat) : Statement (.dbgResume pid) := fun h => nomatch h
theorem dbgStep (pid : Nat) : Statement (.dbgStep pid) := fun h => nomatch h
theorem ctrclr (pid : Nat) : Statement (.ctrclr pid) := fun h => nomatch h
theorem watchResume (n : Nat) : Statement (.watchResume n) := fun h => nomatch h
theorem sampleTick (pid : Nat) : Statement (.sampleTick pid) := fun h => nomatch h
theorem hostSnoop (snoop : Snoop) : Statement (.hostSnoop snoop) := fun h => nomatch h
theorem bar2Access (off : Nat) (n : Nat) (data : Option (List Byte)) : Statement (.bar2Access off n data) := fun h => nomatch h
theorem cxlLinkTraining (hostRev hostRate hostWidth : Nat) : Statement (.cxlLinkTraining hostRev hostRate hostWidth) := fun h => nomatch h
theorem supplyDroop (die : Nat) : Statement (.supplyDroop die) := fun h => nomatch h
theorem supplyRecovery (die : Nat) : Statement (.supplyRecovery die) := fun h => nomatch h
theorem firmwareBoot (images : List FwImage) (cfg : FwConfig) : Statement (.firmwareBoot images cfg) := fun h => nomatch h
theorem spdmRequest (req : SpdmRequest) : Statement (.spdmRequest req) := fun h => nomatch h
theorem registerWrite (off : Nat) (value : BitVec 64) : Statement (.registerWrite off value) := fun h => nomatch h
theorem partitionCycle (pid : Nat) : Statement (.partitionCycle pid) := fun h => nomatch h
theorem cxlMemAccess (addr : Nat) (n : Nat) (data : Option (List Byte)) : Statement (.cxlMemAccess addr n data) := fun h => nomatch h
theorem remoteReadRequest (src : Nat) (addr : Nat) (n : Nat) (atomic : Option Packet) : Statement (.remoteReadRequest src addr n atomic) := fun h => nomatch h
theorem damhedanLinkTraining (link gen : Nat) : Statement (.damhedanLinkTraining link gen) := fun h => nomatch h
theorem damhedanLinkDown (link : Nat) : Statement (.damhedanLinkDown link) := fun h => nomatch h
theorem invalidateAsid : Statement .invalidateAsid := fun h => nomatch h
theorem invalidateAll : Statement .invalidateAll := fun h => nomatch h
theorem invalidationDone : Statement .invalidationDone := fun h => nomatch h
theorem launchAccept : Statement .launchAccept := fun h => nomatch h
theorem gangPlacement : Statement .gangPlacement := fun h => nomatch h
theorem drawAnswer : Statement .drawAnswer := fun h => nomatch h
theorem drain : Statement .drain := fun h => nomatch h
theorem mbReadCrewState : Statement .mbReadCrewState := fun h => nomatch h
theorem mbWriteRegister : Statement .mbWriteRegister := fun h => nomatch h

end Sys2Proof.Laws.RoundTrip
end

