-- ==== Sys2Proof/Laws/Units.lean ====
section
/-! SUPPORT. Units and their registers: what replacing a unit, writing or emptying registers, counting and issuing an instruction do, and what they leave alone. -/

namespace Sys2Proof.Laws

open Sys2Proof Sys2Proof.Machine

/-! ### A unit and its name -/

@[simp] theorem ref_setSlot (u : UnitSt) (k : Nat) (x : Slot) : (u.setSlot k x).ref = u.ref := by
  cases u <;> simp only [UnitSt.setSlot, Crew.setSlot] <;> split <;> rfl

@[simp] theorem ref_setScal (u : UnitSt) (x : Scal) : (u.setScal x).ref = u.ref := by cases u <;> rfl

@[simp] theorem ref_markEmpty (u : UnitSt) (cls : RegClass) (n : Nat) (m : Mask) : (u.markEmpty cls n m).ref = u.ref := by
  cases u <;> cases cls <;> rfl

@[simp] theorem ref_fill (u : UnitSt) (w : RegWrite) : (u.fill w).ref = u.ref := by
  obtain ⟨cls, n, l, v⟩ := w
  cases u <;> cases cls <;> rfl

@[simp] theorem ref_fills (u : UnitSt) (ws : List RegWrite) : (u.fills ws).ref = u.ref := by
  unfold UnitSt.fills
  induction ws generalizing u with
  | nil => rfl
  | cons w r ih => exact (ih _).trans (ref_fill u w)

@[simp] theorem ref_empties (u : UnitSt) (ws : List RegWrite) : (u.empties ws).ref = u.ref := by
  unfold UnitSt.empties
  induction ws generalizing u with
  | nil => rfl
  | cons w r ih => exact (ih _).trans (ref_markEmpty u _ _ _)

@[simp] theorem ref_count (u : UnitSt) (k : Nat) (b : Bool) : (u.count k b).ref = u.ref := by
  cases u <;> simp only [UnitSt.count] <;> split <;> first | rfl | (split <;> rfl)

@[simp] theorem ref_trace (u : UnitSt) (k : Nat) (w : Word) : (u.trace k w).ref = u.ref := by
  unfold UnitSt.trace; split <;> first | rfl | (cases u <;> rfl)

/-- The unit that a name finds has that name. -/
theorem unit_ref {s : State} {r : UnitRef} {u : UnitSt} (h : s.unit? r = some u) : u.ref = r := by
  cases r <;> simp only [State.unit?, Option.map_eq_some_iff] at h <;> obtain ⟨c, hc, rfl⟩ := h <;>
    (have := List.find?_some hc
     exact eq_of_beq this)

theorem find_replace {α : Type} [BEq α] (key : α → UnitRef) (l : List α) (c v : α) (r : UnitRef)
    (h : l.find? (fun x => key x == r) = some c) (hv : key v = r) :
    (l.map fun x => if key x == key v then v else x).find? (fun x => key x == r) = some v := by
  induction l with
  | nil => simp at h
  | cons a l ih =>
    by_cases ha : key a = r
    · simp [ha, hv]
    · simp only [List.find?_cons, List.map_cons, hv] at h ⊢
      have h0 : (key a == r) = false := by simpa using ha
      simp only [h0, Bool.false_eq_true, if_false] at h ⊢
      have := ih h
      rw [hv] at this
      exact this

theorem find_replace_ne {α : Type} (key : α → UnitRef) (l : List α) (v : α) (r : UnitRef) (hv : key v ≠ r) :
    (l.map fun x => if key x == key v then v else x).find? (fun x => key x == r) = l.find? (fun x => key x == r) := by
  induction l with
  | nil => rfl
  | cons a l ih =>
    simp only [List.map_cons, List.find?_cons]
    by_cases ha : key a = key v
    · have h1 : (key v == r) = false := by simpa using hv
      simp only [ha, beq_self_eq_true, if_true, h1, ih]
    · have h0 : (key a == key v) = false := by simpa using ha
      simp only [h0, Bool.false_eq_true, if_false, ih]

/-- The unit replaced is the one found under its name. -/
theorem unit_setUnit {s : State} {r : UnitRef} {u v : UnitSt} (h : s.unit? r = some u) (hv : v.ref = r) :
    (s.setUnit v).unit? r = some v := by
  have hu := unit_ref h
  cases r <;> cases v <;> simp only [UnitSt.ref, Crew.ref, Cox.ref] at hv <;>
    first
    | cases hv; done
    | (simp only [State.unit?, Option.map_eq_some_iff] at h ⊢
       obtain ⟨c, hc, rfl⟩ := h
       first
       | exact ⟨_, find_replace Crew.ref _ _ _ _ hc hv, rfl⟩
       | exact ⟨_, find_replace Cox.ref _ _ _ _ hc hv, rfl⟩)

/-- Every other unit stays. -/
theorem unit_setUnit_ne {s : State} {r : UnitRef} {v : UnitSt} (hv : v.ref ≠ r) : (s.setUnit v).unit? r = s.unit? r := by
  cases v with
  | crew c =>
    cases r with
    | crew => exact congrArg (Option.map UnitSt.crew) (find_replace_ne Crew.ref s.crews c _ hv)
    | cox => rfl
  | cox c =>
    cases r with
    | crew => rfl
    | cox => exact congrArg (Option.map UnitSt.cox) (find_replace_ne Cox.ref s.coxes c _ hv)

/-- A unit changed by a function that keeps its name. -/
theorem unit_modUnit {s : State} {r : UnitRef} {u : UnitSt} {f : UnitSt → UnitSt} (h : s.unit? r = some u)
    (hf : (f u).ref = u.ref) : (s.modUnit r f).unit? r = some (f u) := by
  simp only [State.modUnit, h]
  exact unit_setUnit h (hf.trans (unit_ref h))

theorem unit_modUnit_ne {s : State} {r q : UnitRef} {f : UnitSt → UnitSt} (hq : q ≠ r) (hf : ∀ u, (f u).ref = u.ref) :
    (s.modUnit r f).unit? q = s.unit? q := by
  unfold State.modUnit
  split
  · rename_i u h
    exact unit_setUnit_ne (by rw [hf u, unit_ref h]; exact Ne.symm hq)
  · rfl

/-! ### Registers written -/

/-- Registers written at once. -/
theorem unit_writeRegs {s : State} {c : Ctx} {u : UnitSt} (ws : List RegWrite) (h : s.unit? c.iss.unit = some u) :
    (s.writeRegs c ws).unit? c.iss.unit = some (u.fills ws) := unit_modUnit h (ref_fills u ws)

theorem unit_writeRegs_ne {s : State} {c : Ctx} (ws : List RegWrite) {q : UnitRef} (hq : q ≠ c.iss.unit) :
    (s.writeRegs c ws).unit? q = s.unit? q := unit_modUnit_ne hq fun u => ref_fills u ws

/-- A scalar register after a scalar register is written. -/
theorem sget_sset (x : Scal) (n k : Nat) (v : Word) (h : twf 0 x.s = true) : (x.sset n v).sget k = if k = n then v else x.sget k :=
  tget_tset_if x.s n k v h

theorem sget_sset_ne (x : Scal) {n k : Nat} (v : Word) (h : n ≠ k) : (x.sset n v).sget k = x.sget k := tget_tset_ne x.s v h

theorem qget_qset (x : Scal) (n k : Nat) (b : Bool) (hn : n < 16) : (x.qset n b).qget k = if k = n then b else x.qget k := by
  unfold Scal.qget Scal.qset setBit
  cases b <;> simp only [Bool.false_eq_true, if_false, if_true, BitVec.getLsbD_and, BitVec.getLsbD_or, BitVec.getLsbD_not,
    BitVec.getLsbD_twoPow] <;> by_cases h : k = n
  · subst h; simp [hn]
  · by_cases hk : k < 16
    · simp [h, hk, Ne.symm h]
    · have : x.q.getLsbD k = false := BitVec.getLsbD_of_ge _ _ (by omega)
      simp [h, this]
  · subst h; simp [hn]
  · simp [h, Ne.symm h]

/-- A vector register lane after one is written. -/
theorem vget_vput_ne (c : Crew) {n l m k : Nat} (v : Word) (h : 96 * n + l ≠ 96 * m + k) : (c.vput n l v).vget m k = c.vget m k :=
  tget_tset_ne c.v v h

theorem vget_vput (c : Crew) (n l : Nat) (v : Word) (h : twf 0 c.v = true) : (c.vput n l v).vget n l = v :=
  tget_tset c.v (96 * n + l) v h

/-! ### Issuing -/

/-- The unit after its instruction has issued and completed (R155, R157). -/
def issuedUnit (s : State) (c : Ctx) : UnitSt :=
  let k := c.iss.slot
  let u := (c.u.count k c.single).trace k (s.codeOff c.iss.unit c.pc)
  let u := u.setSlot k { u.slot k with
    pc := c.nextPc, st := .ready, unfinished := none, acc := 0, counted := false, kept := none, walked := [], skipBp := false
    skipWatch := [], replayed := false }
  match u with
  | .crew x => .crew { x with last1 := k == 1 }
  | v => v

theorem issued_eq (s : State) (c : Ctx) : s.issued c = { s with issuer := none }.setUnit (issuedUnit s c) := rfl

@[simp] theorem ref_issuedUnit (s : State) (c : Ctx) : (issuedUnit s c).ref = c.u.ref := by
  unfold issuedUnit
  have h : ∀ v : UnitSt, (match v with
      | .crew x => UnitSt.crew { x with last1 := c.iss.slot == 1 }
      | v => v).ref = v.ref := by
    intro v; cases v <;> rfl
  exact (h _).trans (by simp)

/-- The issuer after its instruction. -/
theorem unit_issued {s : State} {c : Ctx} (h : s.unit? c.iss.unit = some c.u) :
    (s.issued c).unit? c.iss.unit = some (issuedUnit s c) := by
  rw [issued_eq]
  have h' : ({ s with issuer := none } : State).unit? c.iss.unit = some c.u := by
    rw [← h]; cases c.iss.unit <;> rfl
  exact unit_setUnit h' ((ref_issuedUnit s c).trans (unit_ref h))

/-- Every other unit stays. -/
theorem unit_issued_ne {s : State} {c : Ctx} (h : s.unit? c.iss.unit = some c.u) {q : UnitRef} (hq : q ≠ c.iss.unit) :
    (s.issued c).unit? q = s.unit? q := by
  rw [issued_eq, unit_setUnit_ne (by rw [ref_issuedUnit, unit_ref h]; exact Ne.symm hq)]
  cases q <;> rfl

end Sys2Proof.Laws
end

