-- ==== Sys2Proof/Tests/Slice0.lean ====
section
/-! SUPPORT. Tests on fixed values: ill-formed terms that each check refuses, words written out from the encoding tables, and single steps of the spec's worked examples. -/

namespace Sys2Proof.Tests

open Sys2Proof Sys2Proof.Machine Sys2Proof.Safety

/-! ### Small states and instructions -/

/-- An unguarded instruction of the 64-bit format: D, SA, SB, SC, TYPE, FN. -/
def op (d sa sb sc : BitVec 8) (ty : BitVec 4) (fn : BitVec 8) : Op := ⟨d, sa, sb, sc, 0, true, false, false, false, ty, fn, none⟩

/-- The same with a literal (R207). -/
def opl (d sa sb sc : BitVec 8) (ty : BitVec 4) (fn : BitVec 8) (l : Word) : Op := { op d sa sb sc ty fn with lit := some l }

/-- An unguarded memory instruction: DATA, BASE, OFFSET, SZF. -/
def mop (data : BitVec 8) (base : BitVec 7) (off : BitVec 24) (szf : BitVec 4) (ext : Option MemExt) : MemOp :=
  ⟨data, base, 0, true, off, szf, 0, false, false, ext⟩

/-- An extension word: XA, XB, AOP, ORD, SCOPE (R209). -/
def ext (xa xb : BitVec 8) (aop : BitVec 4) (ord : BitVec 2) (scope : BitVec 3) : Option MemExt :=
  some ⟨xa, xb, aop, ord, scope, false, false, 0⟩

/-- The crew of the probe launch changed by `f`, about to issue `i`. -/
def probe (i : Instr) (f : Crew → Crew) : State :=
  let s := State.reset.withProbe false ((encode i).flatMap bytesOfWord)
  { s with crews := s.crews.map f }

/-- The cox core of the probe launch changed by `f`, about to issue `i`. -/
def coxProbe (i : Instr) (f : Cox → Cox) : State :=
  let s := State.reset.withProbe true ((encode i).flatMap bytesOfWord)
  { s with coxes := s.coxes.map f }

/-- The probe launch's record changed. -/
def relaunch (f : LaunchRec → LaunchRec) (s : State) : State :=
  { s with dealer := { s.dealer with launches := s.dealer.launches.map fun l => { l with lr := f l.lr } } }

/-- The probe crew and its cox core. -/
def crew0 : UnitRef := .crew 0x1000 0 0 0
def cox0 : UnitRef := .cox 0x1000 0

/-- A crew with scalar registers set. -/
def sregs (l : Tab Word) (c : Crew) : Crew := { c with scal := { c.scal with s := l } }
/-- A crew with vector registers set, lane by lane from register and value by thread. -/
def vregs (l : List (Nat × (Nat → Word))) (c : Crew) : Crew :=
  { c with v := l.flatMap fun x => (List.range 96).filterMap fun k => if x.2 k = 0 then none else some (96 * x.1 + k, x.2 k) }
/-- A crew with predicate registers set. -/
def pregs (l : Tab Mask) (c : Crew) : Crew := { c with p := l }

/-- The instruction passes the gate of the state, and its context meets `p`. -/
def goes (s : State) (i : Instr) (p : Ctx → Bool) : Bool :=
  match s.gate i with
  | .go c => c.slot.pendingOn.isNone && p c
  | _ => false

/-- A state in which the gate passes an instruction makes it ready. -/
theorem ready_of_goes {s : State} {i : Instr} {p : Ctx → Bool} (h : goes s i p = true) : ∃ c, Ready s i c ∧ p c = true := by
  unfold goes at h
  split at h
  · rename_i c hc
    rw [Bool.and_eq_true, Option.isNone_iff_eq_none] at h
    exact ⟨c, Laws.ready_of_gate h.1 hc, h.2⟩
  · cases h

/-- Every entry of a list of states, instructions and conditions makes its instruction ready. -/
theorem meets {l : List (State × Instr × (Ctx → Bool))} (h : (l.all fun x => goes x.1 x.2.1 x.2.2) = true) :
    ∀ x ∈ l, ∃ c, Ready x.1 x.2.1 c ∧ x.2.2 c = true :=
  fun x hx => ready_of_goes (List.all_eq_true.1 h x hx)

/-- What the next state of a step holds. -/
def after (s : State) (p : State → Bool) : Bool :=
  match step s with
  | .next t => p t
  | _ => false

/-! ### Ill-formed terms (R204), with the cause that refuses each for every issuer -/

/-- The 64-bit and 96-bit formats: a type, a function, an unused source, an unused destination, a trap-on-empty bit on an unused field,
a field under a literal, a scalar-source bit where none may stand, a literal that does not fit, an operand rule, a guard that must be
absent; a literal and a length that the opcode does not take; a register out of range, a misaligned pair, in source and
destination; a Q guard out of range. -/
theorem test_ill_formed : ([
    (.smulh (op 1 2 3 0 3 0), 3), (.sadd (op 1 2 3 0 0 1), 3), (.sclz (op 1 2 3 0 0 0), 3), (.trap (op 1 2 0 0 0 0), 3),
    (.sclz { op 1 2 0 0 0 0 with teb := true }, 3), (.sadd (opl 1 2 3 0 0 0 7), 3), (.vcmp (op 1 2 3 0 0 0x40), 3),
    (.vsel (op 1 2 3 4 0 4), 3),
    (.vfadd (opl 1 2 0 0 6 0 0x10000), 3), (.bra (opl 0 0 0 0 0 0 2), 3), (.vsibget (opl 1 2 0 0 8 0 3), 3),
    (.htest { op 1 2 0 0 0 0 with tea := true }, 3), (.lmuls (op 4 2 3 8 2 4), 3), (.regrp { op 1 8 3 0 0 0 with g := 1 }, 3),
    (.sysr (opl 1 0 0 0 0 0 5), 4), (.bra (op 0 0 0 0 0 0), 4),
    (.sadd (op 1 128 3 0 0 0), 5), (.saddp (op 2 4 5 0 3 0), 5), (.plop (op 64 2 3 0 0 0), 5), (.saddp (op 3 4 6 0 3 0), 5),
    (.sadd { op 1 2 3 0 0 0 with g := 16 }, 5)] : List (Instr × Nat)).all (fun x => x.1.cause none == some x.2 && !x.1.wellFormed) = true := by
  decide +kernel

/-- The memory formats: PRF with data, a trap-on-empty bit on a destination, a cache policy on an atomic, a reserved bit, XA, XB and
AOP where they are not used, an operation its type does not allow, a narrow CAS, an ordering that does not apply, an ordered
narrow access; a missing extension; data out of range, an odd data pair, an odd compare pair, a Q guard out of range. -/
theorem test_ill_formed_memory : ([
    (.prfV (mop 1 2 0 0 none), 3), (.ldVV { mop 1 2 0 4 none with ted := true }, 3),
    (.atomVV { mop 1 2 0 4 (ext 0 0 0 0 0) with cp := 1 }, 3), (.ldVV (mop 1 2 0 4 (some ⟨0, 0, 0, 0, 0, false, false, 1⟩)), 3),
    (.ldVV (mop 1 2 0 4 (ext 1 0 0 0 0)), 3), (.atomrVV (mop 1 2 0 4 (ext 3 1 0 0 0)), 3), (.stVV (mop 1 2 0 4 (ext 0 0 1 0 0)), 3),
    (.oatomVV (mop 1 2 0 4 (ext 0 0 6 0 0)), 3), (.casVV (mop 1 2 0 2 (ext 3 4 0 0 0)), 3), (.ldVV (mop 1 2 0 4 (ext 0 0 0 2 0)), 3),
    (.ldVV (mop 1 2 0 2 (ext 0 0 0 1 0)), 3), (.atomVV (mop 1 2 0 4 none), 4), (.ldSS (mop 128 2 0 4 none), 5),
    (.ldVV (mop 1 2 0 6 none), 5), (.casVV (mop 2 2 0 6 (ext 3 4 0 0 0)), 5), (.ldSS (mop 128 2 0 4 none), 5),
    (.ldSS { mop 1 2 0 4 none with g := 16 }, 5)] : List (Instr × Nat)).all (fun x => x.1.cause none == some x.2 && !x.1.wellFormed) = true := by
  decide +kernel

/-- The 32-bit format: scalar registers, a barrier's number, a record's alignment, a uniform predicate; and an event, which has no
encoding. -/
theorem test_ill_formed_short : ([(.saddShort 128 0 0, some 5), (.smovShort 0 128, some 5), (.bar 16, some 3), (.dpark 3, some 5),
    (.dresume 128, some 5), (.dprune 16 2, some 5), (.drain, none)] : List (Instr × Option Nat)).all
      (fun x => x.1.cause none == x.2 && !x.1.wellFormed) = true := by decide +kernel

/-- The issuer decides (R204, R214, R233): a vector register beyond VREGS, a crew's opcode on a cox core and a cox core's in a crew, a
per-lane system register on a cox core, .THR and a misaligned record in single-lane mode, a workgroup that the gang lacks. -/
theorem test_ill_formed_for_issuer :
    let crew : EncCtx := ⟨false, false, 8, 1, fun _ => 8⟩
    let single : EncCtx := ⟨false, true, 8, 1, fun _ => 8⟩
    let cox : EncCtx := ⟨true, false, 8, 1, fun _ => 8⟩
    (([(.vadd (op 8 2 3 0 0 0), crew, 5), (.vmovShort 8 0, crew, 5), (.vadd (op 1 2 3 0 0 0), cox, 6), (.join, cox, 6),
      (.mzero (op 0 2 0 0 0 1), cox, 3), (.mzero (op 0 2 0 0 0 1), crew, 3), (.sysr (op 1 0 0 0 0 0x80), cox, 6),
      (.pmask (op 1 2 0 0 0 3), single, 3), (.dpark 2, single, 5), (.vocabStream (op 0 2 0 0 0 0), crew, 6)] : List (Instr × EncCtx × Nat)).all
        fun x => x.1.cause (some x.2.1) == some x.2.2) = true := by
  decide +kernel

/-! ### Words written out from the encodings -/

/-- R205: B6 = 63 in bits 31 to 26, SA = 2 in 25 to 18, D = 5 in 17 to 10, opcode 0x03 in 9 to 2, length 00b. -/
theorem test_decode_short_scalar : decode [0xFC08140C#32] = .ok (.sshlShort 5 2 63) := by rfl

/-- R205, R218: DPRUNE Q3, S4: opcode 0x13. -/
theorem test_decode_short_control : decode [0x00100C4C#32] = .ok (.dprune 3 4) := by rfl

/-- R206, R227: SSUB.I32.SAT S4, S1, S5 guarded by not Q7: FN 1, TYPE 1, GN 1, G 7. -/
theorem test_decode_scalar : decode [0x14041085#32, 0x01111C00#32] = .ok (.ssub ⟨4, 1, 5, 0, 7, true, false, false, false, 1, 1, none⟩) := by rfl

/-- R207: BRC.NONE P2 with the literal −64: length 10b, FN 2. -/
theorem test_decode_branch : decode [0x0008010A#32, 0x02010000#32, 0xFFFFFFC0#32] = .ok (.brc ⟨0, 2, 0, 0, 0, true, false, false, false, 0, 2, some 0xFFFFFFC0#32⟩) := by rfl

/-- R254: SYSR V10:V11 from ICOUNT, number 0x82 in FN. -/
theorem test_decode_system : decode [0x000028E5#32, 0x82010000#32] = .ok (.sysr ⟨10, 0, 0, 0, 0, true, false, false, false, 0, 130, none⟩) := by rfl

/-- R206, R258: VMAD.N64 V12, V2, V4, V6 guarded by P3, trap on empty for SB: TYPE 5. -/
theorem test_decode_vector : decode [0x10083151#32, 0x00540C18#32] = .ok (.vmad ⟨12, 2, 4, 6, 3, false, false, true, false, 5, 0, none⟩) := by rfl

/-- R206: VFMA.F32 V10, V4, V6, V8: TYPE 8. -/
theorem test_decode_float : decode [0x181029CD#32, 0x00810020#32] = .ok (.vfma ⟨10, 4, 6, 8, 0, true, false, false, false, 8, 0, none⟩) := by rfl

/-- R212: VNFADD.NF2 V1, V2, V3: TYPE 14. -/
theorem test_decode_packed : decode [0x0C080629#32, 0x00E10000#32] = .ok (.vnfadd ⟨1, 2, 3, 0, 0, true, false, false, false, 14, 0, none⟩) := by rfl

/-- R283, R286: VSHFL.UP.G4.I32 V6, V3, 1: FN 0x21 with GRP 010b and mode 001b, and the literal 1. -/
theorem test_decode_lane : decode [0x000C1A4A#32, 0x21110000#32, 0x00000001#32] = .ok (.vshfl ⟨6, 3, 0, 0, 0, true, false, false, false, 1, 33, some 0x00000001#32⟩) := by rfl

/-- R297: VBEXT.B64 V2, V4, V6: TYPE 3. -/
theorem test_decode_bit : decode [0x18100A6D#32, 0x00310000#32] = .ok (.vbext ⟨2, 4, 6, 0, 0, true, false, false, false, 3, 0, none⟩) := by rfl

/-- The example of R307: LADD.N32 V10, P5, V4, V6 is 0x0521_0000_1810_2A85. -/
theorem test_decode_limb : decode [0x18102A85#32, 0x05210000#32] = .ok (.ladd ⟨10, 4, 6, 0, 0, true, false, false, false, 2, 5, none⟩) := by rfl

/-- The example of R334: TRIG.POST S8, S20 is 0x0001_0000_0050_22D1. -/
theorem test_decode_engine : decode [0x005022D1#32, 0x00010000#32] = .ok (.trigPost ⟨8, 20, 0, 0, 0, true, false, false, false, 0, 0, none⟩) := by rfl

/-- R323: CPY H3, S10 with HND in FN bit 0. -/
theorem test_decode_copy : decode [0x00280EC1#32, 0x01010000#32] = .ok (.cpy ⟨3, 10, 0, 0, 0, true, false, false, false, 0, 1, none⟩) := by rfl

/-- R208: LD.F32 V10, V6:V7, −8: SZF 10, the offset in bits 55 to 32, SB of the base 3. -/
theorem test_decode_load : decode [0x800C2B01#32, 0x0AFFFFF8#32] = .ok (.ldVV ⟨10, 3, 0, true, 0xFFFFF8#24, 10, 0, false, false, none⟩) := by rfl

/-- R209: CAS.B64 with XA 12, XB 14, ORD 3, SCOPE 3. -/
theorem test_decode_cas : decode [0x800C2B3E#32, 0x06000000#32, 0x00F00E0C#32] = .ok (.casVS ⟨10, 3, 0, true, 0, 6, 0, false, false, some ⟨12, 14, 0, 3, 3, false, false, 0⟩⟩) := by rfl

/-- R337, R344: MMA S4, S8 with workgroup 2 and a handle. -/
theorem test_decode_matrix : decode [0x20100789#32, 0x06010000#32] = .ok (.mma ⟨1, 4, 8, 0, 0, true, false, false, false, 0, 6, none⟩) := by rfl

/-- R341: VHEAPRD.HDR S6:S7, S4, S5: FN bit 0. -/
theorem test_decode_vocabulary : decode [0x14101BA5#32, 0x01010000#32] = .ok (.vheaprd ⟨6, 4, 5, 0, 0, true, false, false, false, 0, 1, none⟩) := by rfl

/-! ### Single steps of the spec's examples -/

/-- The values that the newest producer will write to register `r`, by thread in triple mode, where the three siblings agree. -/
def made (t : State) (r : Nat) : List (Nat × Word) :=
  match t.flight.producers with
  | [o] => (o.writes.filter fun w => w.reg == r && w.lane % 3 == 0).map fun w => (w.lane / 3, w.val)
  | _ => []

/-- The crew of R291's example: threads 0 to 7 in the slot, P2 in threads 1, 2, 4, 5 and 7, V3 holding `t + 1`. -/
def scanCrew (c : Crew) : Crew :=
  pregs [(2, maskOf ([1, 2, 4, 5, 7].flatMap fun t => [3 * t, 3 * t + 1, 3 * t + 2]))]
    (vregs [(3, fun l => BitVec.ofNat 32 (l / 3 + 1))] { c with slot0 := { c.slot0 with mask := fullMask 24 } })

/-- R291's table: VSCAN.ADD.I32 V4, V3. -/
theorem test_scan : let i := Instr.vscan { op 4 3 0 0 1 0 with g := 2, gn := false }
    after (probe i scanCrew) (fun t => made t 4 == [(1, 2), (2, 5), (4, 10), (5, 16), (7, 24)]) = true := by decide +kernel

/-- R291's table: VSCAN.ADD.EXCL.I32 V5, V3. -/
theorem test_scan_exclusive : let i := Instr.vscan { op 5 3 0 0 1 0x80 with g := 2, gn := false }
    after (probe i scanCrew) (fun t => made t 5 == [(1, 0), (2, 2), (4, 5), (5, 10), (7, 16)]) = true := by decide +kernel

/-- R291's table: VSHFL.UP.G4.I32 V6, V3, 1: a source outside the group, or one that does not act, gives a thread its own. -/
theorem test_shuffle : let i := Instr.vshfl { opl 6 3 0 0 1 0x21 1 with g := 2, gn := false }
    after (probe i scanCrew) (fun t => made t 6 == [(1, 2), (2, 2), (4, 5), (5, 5), (7, 8)]) = true := by decide +kernel

/-- R291: BALLOT S9, P2 under P2 writes 0xB6. -/
theorem test_ballot : let i := Instr.ballot { op 9 2 0 0 0 0 with g := 2, gn := false }
    after (probe i scanCrew) (fun t => t.flight.producers.map Producer.writes == [[⟨.s, 9, 0, 0xB6⟩]]) = true := by decide +kernel

/-- R296: the matrix 0x0102_0408_1020_4080 reverses the bits of each byte of 0x0103. -/
theorem test_bit_matrix : let i := Instr.vgf2mm (op 8 2 4 0 3 0)
    let f := vregs [(2, fun _ => 0x103), (4, fun _ => 0x10204080), (5, fun _ => 0x01020408)]
    after (probe i fun c => f { c with slot0 := { c.slot0 with mask := fullMask 3 } }) (fun t => made t 8 == [(0, 0x80C0)]) = true := by decide +kernel

/-- R297: bits extracted from 0xDEADBEEF under 0xFF00. -/
theorem test_extract : let i := Instr.vbext (op 8 2 4 0 0 0)
    let f := vregs [(2, fun _ => 0xDEADBEEF), (4, fun _ => 0xFF00)]
    after (probe i fun c => f { c with slot0 := { c.slot0 with mask := fullMask 3 } }) (fun t => made t 8 == [(0, 0xBE)]) = true := by
  decide +kernel

/-- R297: 0xBE deposited under 0x00FF00F0. -/
theorem test_deposit : let i := Instr.vbdep (op 8 2 4 0 0 0)
    let f := vregs [(2, fun _ => 0xBE), (4, fun _ => 0x00FF00F0)]
    after (probe i fun c => f { c with slot0 := { c.slot0 with mask := fullMask 3 } }) (fun t => made t 8 == [(0, 0x000B00E0)]) = true := by
  decide +kernel

/-- R307's example: the sum of two four-limb numbers lands as 0, 0, 1, 0 with its carry in the top thread and in LIMBSTAT. -/
theorem test_limb_sum : let i := Instr.ladd (op 10 4 6 0 2 5)
    let a (l : Nat) : Word := if l / 3 = 3 then 0x80000000 else if l / 3 < 2 then 0xFFFFFFFF else 0
    let b (l : Nat) : Word := if l / 3 = 3 then 0x80000000 else if l / 3 = 0 then 1 else 0
    after (probe i fun c => { vregs [(4, a), (6, b)] c with limbN := 4, slot0 := { c.slot0 with mask := fullMask 12 } }) (fun t =>
      let t := t.landLimbs crew0
      match t.unit? crew0 with
      | some (.crew c) => ((List.range 4).map fun k => c.vget 10 (3 * k)) == [0, 0, 1, 0] && c.pget 5 == 0xE00 && c.limbStat == 0x08000001
      | _ => false) = true := by decide +kernel

/-- R229: a 96-bit SADD.B32 with the literal −4 subtracts 4 modulo 2^32. -/
theorem test_add_wraps : let i := Instr.sadd (opl 2 2 0 0 0 0 0xFFFFFFFC)
    after (probe i (sregs [(2, 3)])) (fun t => ((t.unit? crew0).map fun u => u.scal.sget 2) == some 0xFFFFFFFF) = true := by decide +kernel

/-- R228: SSUB.N32.SAT clamps at 0. -/
theorem test_subtract_clamps : let i := Instr.ssub (op 4 2 3 0 2 1)
    after (probe i (sregs [(2, 3), (3, 9), (4, 7)])) (fun t => ((t.unit? crew0).map fun u => u.scal.sget 4) == some 0) = true := by
  decide +kernel

/-- R230: SADDP.I64 with the literal −256 steps a 64-bit value down across the halves. -/
theorem test_pair_borrows : let i := Instr.saddp (opl 4 4 0 0 4 0 0xFFFFFF00)
    after (probe i (sregs [(5, 1)])) (fun t => ((t.unit? crew0).map fun u => u.scal.sget2 4) == some 0xFFFFFF00) = true := by decide +kernel

/-- R251, R387, R388: TRAP saves its code and the next instruction's offset, and the slot goes on at the handler. -/
theorem test_trap : let i := Instr.trap (opl 0 0 0 0 0 0 0x55)
    after (relaunch (fun r => { r with trapOff := 0x100 }) (probe i id)) (fun t => match t.unit? crew0 with
      | some (.crew c) => c.scal.trap.kind == 11 && c.scal.trap.code == 0x55 && c.scal.trap.resume == 12 && c.scal.trap.trapPc == 0 &&
        c.scal.trap.inh && c.slot0.pc == 0x100
      | _ => false) = true := by decide +kernel

/-- R236: a divergent branch sends the taken lanes to the other slot. -/
theorem test_diverge : let i := Instr.brd (opl 0 1 0 0 0 0 64)
    after (probe i (pregs [(1, fullMask 6)])) (fun t => match t.unit? crew0 with
      | some (.crew c) => c.slot1.pc == 64 && c.slot1.mask == fullMask 6 && c.slot0.pc == 12 && c.slot0.mask == (fullMask 96 &&& ~~~(fullMask 6))
      | _ => false) = true := by decide +kernel

/-- R204: the word 3 has no length; the machine takes the illegal-encoding trap, which ends a launch without a handler. -/
theorem test_no_length : after (State.reset.withProbe false [3, 0, 0, 0]) (fun t => t.crews.isEmpty && t.coxes.isEmpty) = true := by
  decide +kernel

end Sys2Proof.Tests
end

