-- ==== Sys2Proof/Tests/Ready.lean ====
section
/-! SUPPORT. Witnesses: concrete states and operands that meet the hypotheses of the statements about instructions, clause by clause. -/

set_option Elab.async false

namespace Sys2Proof.Tests

open Sys2Proof Sys2Proof.Machine Sys2Proof.Safety

/-! ### Every instruction is ready somewhere -/

/-- One legal instruction for each constructor with an encoding. -/
def samples : List Instr := List.flatten [
  (let o : Op := op 8 8 16 0 0 0
   [.sadd o, .ssub o, .smul o, .sand o, .sor o, .sxor o, .sshl o, .sshr o, .ssar o, .ssel o, .scmp o, .plop o,
    .vadd o, .vsub o, .vmul o, .vand o, .vor o, .vxor o, .vshl o, .vshr o, .vsar o, .vcmp o, .vshfl o, .vbcast o,
    .regrp o, .vbdep o, .vbext o, .vheaprd o]),
  (let o : Op := op 8 8 16 0 1 0
   [.smulh o, .smin o, .smax o, .vmulh o, .vmin o, .vmax o, .vadds o, .vsubs o]),
  (let o : Op := op 8 8 16 24 1 0
   [.sbfe o, .vmad o, .vbfe o]),
  (let o : Op := op 8 8 0 0 0 0
   [.sclz o, .spopc o, .smov o, .qlop o, .pmask o, .pset o, .waitEng o, .hwait o, .htest o, .vclz o, .vpopc o,
    .vmov o, .vnot o, .vote o, .ballot o, .lcarry o, .cpywp o, .bwait o, .trigPost o, .trigCancel o, .trigRead o]),
  (let o : Op := op 8 8 16 0 3 0
   [.saddp o, .ssubp o, .sshlp o, .vgf2mm o, .vbperm o]),
  (let o : Op := op 8 0 0 0 0 0
   [.sysr o, .mstat o]),
  (let o : Op := op 0 8 0 0 0 0
   [.sysw o, .trap o, .hcancel o, .brx o, .callx o, .lbind o, .cpy o, .mzero o, .vocabStream o, .vocabRegen o]),
  (let o : Op := op 0 8 16 0 0 0
   [.hpass o, .draw o, .binit o, .trigAdd o, .mma o]),
  (let o : Op := opl 0 0 0 0 0 0 0
   [.bra o, .call o]),
  (let o : Op := opl 0 8 0 0 0 0 0
   [.brc o, .brd o]),
  (let o : Op := op 8 8 0 0 1 0
   [.vabs o, .vneg o]),
  (let o : Op := op 8 8 16 24 0 0
   [.vbfi o, .vsel o]),
  (let o : Op := op 8 8 0 0 1 16
   [.vcvt o]),
  (let o : Op := op 8 8 16 0 6 0
   [.vsibget o, .vfadd o, .vfsub o, .vfmul o, .vfdiv o, .vfmin o, .vfmax o, .vfcps o, .vfcmp o]),
  (let o : Op := op 8 8 0 0 6 0
   [.vsibmean o, .vdigs o, .vfsqrt o, .vfabs o, .vfneg o, .vfrcp o, .vfrcpr o, .vfrsq o, .vfrsqr o, .vexp2 o,
    .vexp2r o, .vlog2 o, .vlog2r o, .vsin o, .vsinr o, .vcos o, .vcosr o, .vtanh o, .vtanhr o, .vti o]),
  (let o : Op := op 8 8 16 24 6 0
   [.vfma o]),
  (let o : Op := op 8 8 16 0 12 0
   [.vnfadd o, .vnfmul o, .vnfpack o, .vnfunpk o]),
  (let o : Op := op 8 8 16 24 12 0
   [.vnffma o]),
  (let o : Op := op 8 8 0 0 8 0
   [.vqblk o]),
  (let o : Op := op 8 8 16 24 8 0
   [.vgmm o]),
  (let o : Op := op 8 8 0 0 0 3
   [.vscan o, .vred o]),
  (let o : Op := op 8 8 16 0 2 0
   [.ladd o, .lsub o, .lshl o, .lshr o, .lcmp o]),
  (let o : Op := op 8 8 16 24 2 0
   [.lmuls o]),
  (let o : Op := op 0 8 16 24 0 0
   [.mldb o, .mlda o, .mdrain o, .vmeld o]),
  [.nop, .saddShort 1 2 3, .ssubShort 1 2 3, .sshlShort 1 2 3, .sshrShort 1 2 3, .smovShort 1 2, .vmovShort 1 2, .yield, .exit, .join,
   .bktOpen, .bktClose, .ret, .tret, .bkpt 1, .bar 1, .ornd, .dpark 2, .dresume 2, .dprune 1 2, .gbar, .lfree],
  (let o : MemOp := mop 8 4 0 4 none
   [.ldVV o, .ldVS o, .ldSS o, .stVV o, .stVS o, .stSS o, .prfV { o with data := 0, szf := 0 }, .prfS { o with data := 0, szf := 0 }]),
  (let o : MemOp := mop 8 4 0 4 (ext 0 0 0 0 0)
   [.atomVV o, .atomVS o, .atomSS o, .oatomVV o, .oatomVS o]),
  (let o : MemOp := mop 8 4 0 4 (ext 16 0 0 0 0)
   [.atomrVV o, .atomrVS o, .atomrSS o]),
  (let o : MemOp := mop 8 4 0 4 (ext 16 24 0 0 0)
   [.casVV o, .casVS o, .casSS o])]

/-- Its samples are well formed (DecodeEncode). -/
theorem test_samples_well_formed : (samples.all fun i => i.wellFormed && !i.isEvent) = true := by decide +kernel

/-- The unit that issues a sample: a cox core for what only a cox core may issue. -/
def sampleState (i : Instr) : State :=
  match i.row with
  | some r => if r.who == .cox then coxProbe i id else probe i id
  | none => probe i id

/-- A state in which each sample passes the gate. -/
theorem test_samples_ready : (samples.all fun i => goes (sampleState i) i fun _ => true) = true := by decide +kernel

/-- Every constructor with an encoding is ready in some state, with some operands. -/
theorem test_meets_ready : ∀ i ∈ samples, ∃ c, Ready (sampleState i) i c := fun i hi =>
  (ready_of_goes (List.all_eq_true.1 test_samples_ready i hi)).imp fun _ h => h.1

/-- No constructor with an encoding is missing among the samples: 181 of them, with 181 opcodes. -/
theorem test_samples_count : samples.length = 181 ∧ ((samples.map fun i => (((encode i).head?).getD 0).toNat / 4 % 256).eraseDups).length = 181 := by
  decide +kernel

/-! ### The clauses of the statements about instructions -/

/-- Each entry's instruction is ready in its state, with a context that meets its condition. -/
def Met (l : List (State × Instr × (Ctx → Bool))) : Prop := ∀ x ∈ l, ∃ c, Ready x.1 x.2.1 c ∧ x.2.2 c = true

/-- The probe crew with threads 0 and 1 in its slot, changed by `f`, about to issue `i`; what its context meets. -/
def on (i : Instr) (f : Crew → Crew) (p : Ctx → Bool) : State × Instr × (Ctx → Bool) :=
  (probe i fun c => f { c with slot0 := { c.slot0 with mask := fullMask 6 } }, i, p)

/-- The same in single-lane mode, lanes 0 to 5. -/
def onSingle (i : Instr) (f : Crew → Crew) (p : Ctx → Bool) : State × Instr × (Ctx → Bool) :=
  let x := on i f p
  (relaunch (fun r => { r with shape := r.shape ||| 0x10000 }) x.1, i, fun c => c.single && p c)

/-- The probe's cox core. -/
def onCox (i : Instr) (f : Cox → Cox) (p : Ctx → Bool) : State × Instr × (Ctx → Bool) := (coxProbe i f, i, fun c => c.u.isCox && p c)

def yes (_ : Ctx) : Bool := true

/-- The siblings of every acting thread have one value. -/
def agreeB (c : Ctx) (f : Nat → DWord) : Bool :=
  c.single || c.threads.all fun t => f (3 * t) == f (3 * t + 1) && f (3 * t) == f (3 * t + 2)

/-- The other slot of the crew in a state of its own. -/
def other (x : Slot) (c : Crew) : Crew := { c with slot1 := x }

/-- SiblingMismatch, its last part: an instruction that may issue with a line of its source, or of its crew's state, that fails its check. -/
theorem test_meets_bad_registers : ∀ l ∈ [0, regLine 4 5], ∃ c : Ctx,
    MayIssue (probe (.vadd (op 8 2 4 0 1 0)) fun c => { c with regBad := [(l, 1)] }) (.vadd (op 8 2 4 0 1 0)) c ∧ c.readsBad = true := by
  intro l hl
  have h : (match (probe (.vadd (op 8 2 4 0 1 0)) fun c => { c with regBad := [(l, 1)] }).gate (.vadd (op 8 2 4 0 1 0)) with
      | .check c => c.slot.pendingOn.isNone
      | _ => false) = true := by
    revert l
    decide +kernel
  split at h
  · rename_i c hc
    exact ⟨c, Laws.mayIssue_of_gate (b := true) (Option.isNone_iff_eq_none.1 h) hc⟩
  · cases h

/-- ShortForms: the ends of the immediate and of the shift, and the literal −4. -/
theorem test_meets_ShortForms : Met [
    on .nop id yes, on (.saddShort 127 127 63) (sregs [(127, 0xFFFFFFFF)]) yes, on (.ssubShort 1 2 63) id yes,
    on (.sshlShort 1 2 31) id yes, on (.sshlShort 1 2 32) id yes, on (.sshrShort 1 2 31) id yes, on (.sshrShort 1 2 32) id yes,
    on (.sadd (opl 2 2 0 0 0 0 (-4))) id (fun c => c.fn == 0 && c.ty == tyB32), on (.smovShort 127 0) id yes,
    on (.vmovShort 255 0) id yes] := meets (by decide +kernel)

/-- ScalarResults: saturation at both ends of both types, full shifts, empty fields, and literals of pairs. -/
theorem test_meets_ScalarResults : Met [
    on (.sadd (op 4 2 3 0 1 1)) (sregs [(2, 0x7FFFFFFF), (3, 1)]) yes, on (.sadd (op 4 2 3 0 2 1)) (sregs [(2, 0xFFFFFFFF), (3, 1)]) yes,
    on (.ssub (op 4 2 3 0 1 1)) (sregs [(2, 0x80000000), (3, 1)]) yes, on (.ssub (op 4 2 3 0 2 1)) (sregs [(3, 1)]) yes,
    on (.smulh (op 4 2 3 0 1 0)) (sregs [(2, 0x80000000), (3, 0x80000000)]) yes, on (.smulh (op 4 2 3 0 2 0)) id yes,
    on (.sshl (op 4 2 3 0 0 0)) (sregs [(3, 32)]) (fun c => c.s32 1 == 32), on (.sshr (op 4 2 3 0 0 0)) (sregs [(3, 31)]) yes,
    on (.ssar (op 4 2 3 0 0 0)) (sregs [(2, 0x80000000), (3, 33)]) yes, on (.ssel (op 4 2 3 1 0 0)) id yes,
    on (.sbfe (op 4 2 3 5 1 0)) (sregs [(5, 64)]) (fun c => (c.s32 2).toNat % 64 == 0),
    on (.sbfe (op 4 2 3 5 2 0)) (sregs [(3, 31), (5, 63)]) yes, on (.saddp (opl 4 4 0 0 4 0 (-256))) id yes,
    on (.saddp (opl 4 4 0 0 5 0 (-256))) id yes, on (.ssubp (opl 4 4 0 0 3 0 (-1))) id yes, on (.sshlp (op 4 6 3 0 3 0)) (sregs [(3, 64)]) yes,
    onCox (.sadd (op 4 2 3 0 0 0)) id yes] := meets (by decide +kernel)

/-- ScalarMovesAndPredicates: both widths, each condition, a truth table with agreeing siblings, each part of a predicate. -/
theorem test_meets_ScalarMovesAndPredicates : Met ([
    on (.smov (op 4 2 0 0 0 0)) id yes, on (.smov (op 4 2 0 0 3 0)) id yes, on (.qlop (op 1 2 3 0 0 6)) id yes,
    on (.plop (op 1 2 3 0 0 6)) (pregs [(2, 7), (3, 0x38)]) (fun c => agreeB c fun l =>
      if (6 : BitVec 8).getLsbD (2 * (if (c.crew.pget 2).getLsbD l then 1 else 0) + if (c.crew.pget 3).getLsbD l then 1 else 0) then 1 else 0),
    on (.pmask (op 1 2 0 0 0 3)) (pregs [(2, 7)]) yes, on (.pset (op 1 2 0 0 0 3)) id yes,
    onSingle (.pmask (op 1 2 0 0 0 2)) id yes, onSingle (.pset (op 1 2 0 0 0 0)) id yes] ++
    ([0, 1, 2, 3, 4, 5] : List (BitVec 8)).flatMap fun k => [on (.scmp (op 1 2 3 0 1 k)) (sregs [(2, 0x80000000)]) yes,
      on (.scmp (op 1 2 4 0 5 k)) id yes]) := meets (by decide +kernel)

/-- SystemRegisters: every register read, and every one that may be written, with a valid and an invalid value. -/
theorem test_meets_SystemRegisters : Met ((([0, 1, 2, 4, 6, 8, 9, 0xA, 0xB, 0xC, 0xE, 0x10, 0x11, 0x12, 0x14, 0x16, 0x18, 0x1B, 0x20,
      0x29, 0x2A, 0x2F, 0x80, 0x81, 0x82] : List (BitVec 8)).map fun n => on (.sysr (op 8 0 0 0 0 n)) id fun c => c.fn == n.toNat) ++
    (([0, 1, 2, 4, 6, 8, 0xE, 0x10, 0x11, 0x12, 0x14, 0x16, 0x18, 0x1B, 0x20, 0x21, 0x22, 0x2F, 0x80, 0x82] : List (BitVec 8)).map fun n =>
      on (.sysw (op 0 8 0 0 0 n)) id fun c => !c.u.isCox && c.fn == n.toNat) ++
    [on (.sysw (op 0 8 0 0 0 0)) (sregs [(8, 5)]) (fun c => !(arithCtlValid (c.s32 0))),
     on (.sysw (op 0 8 0 0 0 0x18)) (sregs [(8, 0x300)]) (fun c => !(nfValid (c.s32 0)))]) := meets (by decide +kernel)

/-- Branches: targets in and out of place, taken and not, on a crew and a cox core. -/
theorem test_meets_Branches : Met [
    on (.bra (opl 0 0 0 0 0 0 (-4))) id yes, on (.call (opl 0 0 0 0 0 0 64)) id yes,
    on (.brc (opl 0 1 0 0 0 0 64)) (pregs [(1, 7)]) (fun c => c.crew.pget 1 &&& c.mask != 0),
    on (.brc (opl 0 1 0 0 0 1 64)) (pregs [(1, 7)]) (fun c => c.crew.pget 1 &&& c.mask != c.mask),
    on (.brc (opl 0 1 0 0 0 2 64)) id (fun c => c.crew.pget 1 &&& c.mask == 0), onCox (.brc (opl 0 1 0 0 0 2 64)) id yes,
    on (.brx (op 0 8 0 0 0 0)) id (fun c => (c.s32 0).toNat % 4 == 0), on (.brx (op 0 8 0 0 0 0)) (sregs [(8, 2)]) (fun c => (c.s32 0).toNat % 4 != 0),
    on (.callx (op 0 8 0 0 0 0)) id yes, on (.callx (op 0 8 0 0 0 0)) (sregs [(8, 1)]) (fun c => (c.s32 0).toNat % 4 != 0),
    on .ret id (fun c => c.slot.link.toNat % 4 == 0),
    on .ret (fun c => { c with slot0 := { c.slot0 with link := 3 } }) (fun c => c.slot.link.toNat % 4 != 0),
    on (.brd (opl 0 1 0 0 0 0 64)) (fun c => pregs [(1, 7)] { c with limbN := 2 }) (fun c => splitsSegment c.single c.crew.limbN (c.crew.pget 1 &&& c.mask)),
    on (.brd (opl 0 1 0 0 0 0 64)) id (fun c => c.crew.pget 1 &&& c.mask == 0),
    on (.brd (opl 0 1 0 0 0 0 64)) (pregs [(1, 0x3F)]) (fun c => c.crew.pget 1 &&& c.mask == c.mask),
    on (.brd (opl 0 1 0 0 0 0 64)) (fun c => pregs [(1, 7)] { c with bracket := some 0x3F }) (fun c => c.crew.bracket.isSome),
    on (.brd (opl 0 1 0 0 0 0 64)) (fun c => pregs [(1, 7)] (other (Slot.start 64 0x1C0) c)) (fun c => c.other.st != .empty),
    on (.brd (opl 0 1 0 0 0 0 64)) (pregs [(1, 7)]) (fun c => c.other.st == .empty &&
      agreeB { c with act := c.mask } fun l => if (c.crew.pget 1).getLsbD l then 1 else 0)] := meets (by decide +kernel)

/-- JoinsAndBrackets: each state of the other slot, and a bracket open or not. -/
theorem test_meets_JoinsAndBrackets : Met [
    on .join id (fun c => c.other.st == .empty), on .join (fun c => { c with bracket := some 0x3F }) (fun c => c.crew.bracket.isSome),
    on .join (other { Slot.start 0 0x1C0 with st := .joinWait }) (fun c => c.other.st == .joinWait && !c.other.frozen && c.other.pc == c.pc),
    on .join (other { Slot.start 4 0x1C0 with st := .joinWait }) (fun c => c.other.st == .joinWait && !c.other.frozen && c.other.pc != c.pc),
    on .join (other { Slot.start 0 0x1C0 with st := .joinWait, frozenTrap := true }) (fun c => c.crew.bracket.isNone && c.other.frozen),
    on .join (other (Slot.start 0 0x1C0)) (fun c => c.crew.bracket.isNone && c.other.st == .ready),
    on .bktOpen id (fun c => c.crew.bracket.isNone), on .bktOpen (fun c => { c with bracket := some 7 }) (fun c => c.crew.bracket.isSome),
    on .bktClose (fun c => { c with bracket := some 7 }) (fun c => c.crew.bracket == some 7), on .bktClose id (fun c => c.crew.bracket.isNone),
    on .yield id yes, onCox .yield id yes] := meets (by decide +kernel)

/-- ExitAndDraws: each outcome of a record, and a mailbox in and out of place. -/
theorem test_meets_ExitAndDraws : Met [
    on .exit id (fun c => !c.u.isCox), onCox .exit id yes, on (.dpark 2) id (fun c => c.other.st == .empty),
    on (.dpark 2) (other (Slot.start 0 0x1C0)) (fun c => c.other.st != .empty && c.crew.bracket.isNone),
    on (.dresume 2) (other (Slot.start 0 0x1C0)) (fun c => c.other.st != .empty),
    on (.dresume 2) (sregs [(2, 1), (3, 2)]) (fun c => c.other.st == .empty && ((c.recordAt 2)[1]?).getD 0 == 2),
    on (.dresume 2) id (fun c => recordMask c.single (c.recordAt 2) == 0),
    on (.dresume 2) (sregs [(2, 4), (3, 8)]) (fun c => recordMask c.single (c.recordAt 2) == 0x1C0), on (.dprune 1 2) (sregs [(2, 7)]) yes,
    on (.draw (op 0 8 16 0 0 0)) (sregs [(16, 0x100000)]) (fun c => bits (c.s32 1).toNat 20 12 != 0),
    on (.draw (op 0 8 16 0 0 0)) (sregs [(16, 0xFFFFF)]) (fun c => bits (c.s32 1).toNat 20 12 == 0 &&
      match c.spRecord (c.s32 0).toNat 32 32 with | .ok _ => true | .error _ => false)] := meets (by decide +kernel)

/-- BarriersAndWaits: with the other slot live and without, each engine class, a handle full and empty, a crew that is there and one
that is not. -/
theorem test_meets_BarriersAndWaits : Met [
    on (.bar 15) id (fun c => !c.divergent), on (.bar 0) (other (Slot.start 0 0x1C0)) Ctx.divergent,
    on .gbar id (fun c => !c.divergent), on .gbar (other (Slot.start 0 0x1C0)) Ctx.divergent, onCox .gbar id yes, on .ornd id yes, onCox .ornd id yes,
    on (.waitEng (op 8 8 0 0 0 0)) id (fun c => c.u.traps.isEmpty), on (.waitEng (op 8 8 0 0 0 3)) (sregs [(8, 2)]) yes,
    on (.hwait (op 8 15 0 0 0 0)) id yes, on (.htest (op 8 8 0 0 0 0)) id (fun c => c.u.isFull .h 8 (BitVec.allOnes 96)),
    on (.htest (op 8 8 0 0 0 0)) (fun c => { c with scal := { c.scal with hEmpty := 0x100 } }) (fun c => !(c.u.isFull .h 8 (BitVec.allOnes 96))),
    on (.hcancel (op 0 8 0 0 0 0)) id yes, on (.hpass (op 0 8 16 0 0 0)) (sregs [(16, 0x501)]) (fun c => bits (c.s32 1).toNat 0 5 == 1),
    on (.hpass (op 0 8 16 0 0 0)) (sregs [(16, 0x500)]) (fun c => c.u.isFull .h 8 (BitVec.allOnes 96)),
    on (.hpass (op 0 8 16 0 0 0)) (fun c => sregs [(16, 0x500)] { c with scal := { c.scal with hEmpty := 0x100 } })
      (fun c => !(c.u.isFull .h 8 (BitVec.allOnes 96)))] := meets (by decide +kernel)

/-- TrapInstructions: a crew and a cox core; outside a handler, in one, and in one whose resume point is misaligned. -/
theorem test_meets_traps : Met [
    on (.trap (op 0 8 0 0 0 0)) id yes, onCox (.trap (opl 0 0 0 0 0 0 7)) id yes, on (.bkpt 63) id yes, on (.bkpt 0) id yes,
    on .tret id (fun c => !c.u.scal.trap.inh && c.u.traps.isEmpty),
    on .tret (fun c => { c with scal := { c.scal with trap := { TrapRec.zero with inh := true, resume := 8 } } }) (fun c => c.u.scal.trap.inh),
    on .tret (fun c => { c with scal := { c.scal with trap := { TrapRec.zero with inh := true, resume := 2 } } })
      (fun c => c.u.scal.trap.resume.toNat % 4 != 0),
    onCox .tret (fun c => { c with scal := { c.scal with trap := { TrapRec.zero with inh := true } } }) yes] := meets (by decide +kernel)

/-- Thread 1's siblings differ, and those of thread 0 agree. -/
def splitB (c : Ctx) (f : Nat → DWord) : Bool :=
  !c.single && c.threads == [0, 1] && !(f 3 == f 4 && f 3 == f 5) && f 0 == f 1 && f 0 == f 2

/-- SiblingMismatch: thread 1's middle sibling differs, in each instruction that the statement names. -/
theorem test_meets_SiblingMismatch :
    let v : Crew → Crew := vregs [(2, fun l => if l = 4 then 1 else 0), (4, fun _ => 1)]
    let low (x : DWord) : DWord := (x.extractLsb' 0 32).zeroExtend 64
    let o := op 8 2 4 0 1 0
    let bit (b : Bool) : DWord := if b then 1 else 0
    let m : MemOp := mop 16 4 8 4 (ext 24 32 0 0 0)
    let bases : Crew → Crew := vregs [(8, fun l => if l = 4 then 16 else 0)]
    let apart (n : Nat) : Crew → Crew := vregs [(n, fun l => if l = 4 then 1 else 0)]
    Met [on (.vadd o) v (fun c => splitB c fun l => low (c.src 0 l + c.src 1 l)), on (.vsub o) v (fun c => splitB c fun l => low (c.src 0 l - c.src 1 l)),
      on (.vmul o) v (fun c => splitB c fun l => low (c.src 0 l * c.src 1 l)), on (.vand (op 8 2 4 0 0 0)) v (fun c => splitB c fun l => c.src 0 l &&& c.src 1 l),
      on (.vor (op 8 2 6 0 0 0)) v (fun c => splitB c fun l => c.src 0 l ||| c.src 1 l), on (.vxor (op 8 2 4 0 0 0)) v (fun c => splitB c fun l => c.src 0 l ^^^ c.src 1 l),
      on (.vcmp (op 1 2 4 0 1 0)) v (fun c => splitB c fun l => bit (condInt 0 (tyInt c.ty (c.src 0 l)) (tyInt c.ty (c.src 1 l)))),
      on (.plop (op 1 2 3 0 0 6)) (pregs [(2, 0x10), (3, 0)]) (fun c => splitB c fun l => bit (truth 6 ((c.crew.pget 2).getLsbD l) ((c.crew.pget 3).getLsbD l))),
      on (.vmov (op 8 2 0 0 1 0)) v (fun c => isInt c.ty && splitB c (c.src 0)),
      on (.vsel (op 8 2 4 1 1 0)) (fun c => pregs [(1, 0x3F)] (v c)) (fun c => isInt c.ty && splitB c fun l => if (c.crew.pget 1).getLsbD l then c.src 0 l else c.src 1 l),
      on (.vshfl (op 8 2 4 0 1 0)) (apart 4) (fun c => splitB c fun l => (c.src32 1 l).zeroExtend 64),
      on (.vshfl (op 8 2 4 0 1 0)) v (fun c => agreeB c (fun l => (c.src32 1 l).zeroExtend 64) && !(agreeB c (c.src 0))),
      on (.ldVV (mop 16 4 0 4 none)) bases (fun c => splitB c c.baseVal), on (.stVV (mop 16 4 0 4 none)) (apart 16) (fun c => agreeB c c.baseVal && splitB c (c.dataVal 16)),
      on (.atomrVV { m with ext := ext 24 0 6 0 0 }) (apart 24) (fun c => splitB c (c.dataVal c.mext.xa.toNat)),
      on (.casVV m) (apart 32) (fun c => agreeB c (c.dataVal c.mext.xa.toNat) && splitB c (c.dataVal c.mext.xb.toNat)),
      on (.ladd (op 10 4 6 3 2 0x45)) (fun c => vregs [(4, fun l => if l = 4 then 1 else 0)] { c with limbN := 2 })
        (fun c => c.crew.limbN == 2 && !(splitsSegment c.single 2 c.act) && c.segments == [0] && c.segVal 0 0 0 != c.segVal 0 0 1)] := meets (by decide +kernel)

/-- The vector instructions of two sources whose siblings agree, in 32- and 64-bit types, signed at both ends. -/
theorem test_meets_VectorIntegers : Met ((([1, 2, 4, 5] : List (BitVec 4)).flatMap fun ty =>
    ([.vadd (op 8 2 4 0 ty 0), .vmulh (op 8 2 4 0 ty 0), .vadds (op 8 2 4 0 ty 0), .vsubs (op 8 2 4 0 ty 0), .vmin (op 8 2 4 0 ty 0),
      .vmad (op 8 2 4 6 ty 0)] : List Instr).map fun i =>
        on i (vregs [(2, fun _ => 0x80000000), (3, fun _ => 0x80000000), (4, fun _ => 1)]) fun c => agreeB c (c.src 0) && agreeB c (c.src 1)) ++
    [on (.vabs (op 8 2 0 0 1 0)) (vregs [(2, fun _ => 0x80000000)]) (fun c => agreeB c (c.src 0)), on (.vneg (op 8 2 0 0 4 0)) id yes,
     on (.vsub (op 8 2 4 0 0 0)) id yes, on (.vmul (op 8 2 4 0 3 0)) id yes, on (.vmax (op 8 2 4 0 2 0)) id yes,
     onSingle (.vadd (op 8 2 4 0 1 0)) (vregs [(2, fun l => BitVec.ofNat 32 l)]) yes]) := meets (by decide +kernel)

/-- VectorBits: shifts by the width and one less, in both widths, and fields with no bit and every bit. -/
theorem test_meets_VectorBits : Met (
    (([31, 32, 64] : List Nat).flatMap fun n => ([.vshl (op 8 2 4 0 0 0), .vshr (op 8 2 4 0 3 0), .vsar (op 8 2 4 0 0 0)] : List Instr).map fun i =>
      on i (vregs [(2, fun _ => 0x80000001), (4, fun _ => BitVec.ofNat 32 n)]) fun c => agreeB c (c.src 0) && agreeB c (c.src 1)) ++
    [on (.vbfe (op 8 2 4 6 1 0)) (vregs [(6, fun _ => 64)]) (fun c => (c.src32 2 0).toNat % 64 == 0),
     on (.vbfe (op 8 2 4 6 2 0)) (vregs [(4, fun _ => 31), (6, fun _ => 63)]) yes, on (.vbfi (op 8 2 4 6 0 0)) (vregs [(6, fun _ => 8)]) yes,
     on (.vclz (op 8 2 0 0 0 0)) id yes, on (.vclz (op 8 2 0 0 3 0)) id yes, on (.vpopc (op 8 2 0 0 3 0)) id yes,
     on (.vnot (op 8 2 0 0 3 0)) id yes, on (.vand (op 8 2 4 0 3 0)) id yes, on (.vor (op 8 2 4 0 0 0)) id yes,
     on (.vxor (op 8 2 4 0 0 0)) id yes]) := meets (by decide +kernel)

/-- VectorSelectsAndMoves: an integer type whose siblings agree, a float type whose siblings differ, 16 bits and a pair. -/
theorem test_meets_VectorSelectsAndMoves : Met [
    on (.vmov (op 8 2 0 0 1 0)) id (fun c => agreeB c (c.src 0)), on (.vmov (op 8 2 0 0 8 0)) (vregs [(2, fun l => BitVec.ofNat 32 l)]) yes,
    on (.vmov (op 8 2 0 0 6 0)) id yes, on (.vmov (op 8 2 0 0 9 0)) id yes,
    on (.vsel (op 8 2 4 1 1 0)) (pregs [(1, 7)]) (fun c => agreeB c fun l => if (c.crew.pget 1).getLsbD l then c.src 0 l else c.src 1 l),
    on (.vsel (op 8 2 4 1 12 0)) (pregs [(1, 1)]) yes] := meets (by decide +kernel)

/-- VectorCompares: each condition, in both sibling modes. -/
theorem test_meets_VectorCompares : Met (([0, 8, 16, 24, 32, 40] : List (BitVec 8)).flatMap fun k => [
    on (.vcmp (op 1 2 4 0 1 k)) (vregs [(2, fun _ => 0x80000000)]) (fun c => agreeB c (c.src 0) && agreeB c (c.src 1)),
    onSingle (.vcmp (op 1 2 4 0 5 k)) id yes, on (.vfcmp (op 1 2 4 0 8 k)) (vregs [(2, fun l => if l = 0 then 0x3F800000 else 0)]) yes,
    onSingle (.vfcmp (op 1 2 4 0 6 k)) id yes]) := meets (by decide +kernel)

/-- FloatArithmetic and Transcendentals: a narrow and a wide type, and single-lane mode. -/
theorem test_meets_floats : Met (([6, 7, 8, 9] : List (BitVec 4)).flatMap (fun ty => [
    on (.vfadd (op 8 2 4 0 ty 0)) id yes, on (.vfma (op 8 2 4 6 ty 0)) id yes, on (.vfdiv (op 8 2 4 0 ty 0)) id yes, on (.vfsqrt (op 8 2 0 0 ty 0)) id yes,
    on (.vfcps (op 8 2 4 0 ty 0)) id yes]) ++ [on (.vfrcp (op 8 2 0 0 8 0)) id yes, onSingle (.vexp2r (op 8 2 0 0 8 0)) id yes,
    onSingle (.vfmul (op 8 2 4 0 8 0)) (fun c => { c with arithCtl := 1 }) yes,
    on (.vfsub (op 8 2 4 0 8 0)) (fun c => vregs [(2, fun _ => 0x3F800000), (4, fun _ => 0x3F800000)] { c with arithCtl := 0x700 }) yes]) :=
  meets (by decide +kernel)

/-- Conversions: each pair of kinds of type, packed formats in range and out of it, blocks with and without a permutation. -/
theorem test_meets_Conversions : Met [
    on (.vcvt (op 8 2 0 0 9 0x40)) id (fun c => isFloat c.ty && isFloat (bits c.fn 3 5)), on (.vcvt (op 8 2 0 0 8 0x08)) id (fun c => isFloat c.ty && !(isFloat (bits c.fn 3 5))),
    on (.vcvt (op 8 2 0 0 1 0x40)) id (fun c => !(isFloat c.ty) && isFloat (bits c.fn 3 5)),
    on (.vcvt (op 8 2 0 0 4 0x10)) id (fun c => !(isFloat c.ty) && bits c.fn 3 5 == 2), on (.vcvt (op 8 2 0 0 0 0x18)) id (fun c => bits c.fn 3 5 == tyB64),
    on (.vnfadd (op 8 2 4 0 12 0)) id yes, on (.vnffma (op 8 2 4 6 15 0)) id yes,
    on (.vnfpack (op 8 2 4 0 12 0)) id (fun c => c.s32 1 == 0), on (.vnfpack (op 8 2 4 0 12 0)) (sregs [(4, 32)]) (fun c => c.s32 1 == 32),
    on (.vnfunpk (op 8 2 4 0 13 0)) (sregs [(4, 31)]) yes, on (.vqblk (op 8 2 0 0 8 0)) id yes, on (.vqblk (op 8 2 4 0 8 8)) (vregs [(4, fun l => BitVec.ofNat 32 (31 - l / 3))]) yes] :=
  meets (by decide +kernel)

/-- SiblingAccess: each sibling and one past the last, a count of steps that agrees, both sibling modes. -/
theorem test_meets_SiblingAccess : Met [
    on (.vsibget (op 8 2 4 0 8 0)) (sregs [(4, 2)]) yes, on (.vsibget (op 8 2 4 0 8 0)) (sregs [(4, 0xFFFFFFFF)]) yes,
    onSingle (.vsibget (op 8 2 4 0 12 0)) id yes, on (.vsibmean (op 8 2 0 0 9 0)) id yes, onSingle (.vsibmean (op 8 2 0 0 8 0)) id yes,
    on (.vdigs (op 8 2 0 0 9 0)) id yes, onSingle (.vdigs (op 8 2 0 0 6 0)) id yes,
    on (.vgmm (op 8 2 4 8 8 0)) (vregs [(8, fun _ => 4)]) (fun c => agreeB c fun l => (c.src32 2 l).zeroExtend 64),
    onSingle (.vgmm (op 8 2 4 8 8 3)) id yes] := meets (by decide +kernel)

/-- LaneOperations: each mode, in the crew and in groups, with a choice that agrees; votes, ballots and the bit instructions. -/
theorem test_meets_LaneOperations : Met (([0, 1, 2, 3, 0x10, 0x51] : List (BitVec 8)).map (fun f =>
      on (.vshfl (op 8 2 4 0 1 f)) (vregs [(4, fun l => BitVec.ofNat 32 (l / 3))]) fun c => agreeB c (c.src 0) && agreeB c (c.src 1)) ++
    ([0x00, 0x20] : List (BitVec 8)).map (fun f => on (.vbcast (op 8 2 4 0 8 f)) (vregs [(4, fun _ => 1)]) fun c => agreeB c (c.src 1)) ++
    ([0x01, 0x12] : List (BitVec 8)).map (fun f => on (.vbcast (op 8 2 0 0 1 f)) id yes) ++
    ([0, 1, 2, 3] : List (BitVec 8)).map (fun f => on (.vote (op 1 2 0 0 0 f)) (pregs [(2, 7)]) fun c =>
      agreeB c fun l => if (c.crew.pget 2).getLsbD l then 1 else 0) ++
    [on (.ballot (op 9 2 0 0 0 0)) (pregs [(2, 0x38)]) yes, onSingle (.ballot (op 125 2 0 0 0 0)) id yes,
     on (.vgf2mm (op 8 2 4 0 3 0)) id (fun c => agreeB c (c.src 0)), on (.vbdep (op 8 2 4 0 3 0)) id yes, on (.vbext (op 8 2 4 0 0 0)) id yes,
     on (.vbperm (op 8 2 244 0 3 0)) id yes]) := meets (by decide +kernel)

/-- Scans: each combination, inclusive, exclusive and reduced; .F32 with its siblings apart. -/
theorem test_meets_Scans : Met (([(0, 1), (1, 1), (2, 5), (3, 0), (4, 3), (5, 0)] : List (BitVec 8 × BitVec 4)).flatMap (fun x => [
      on (.vscan (op 8 2 0 0 x.2 x.1)) id (fun c => agreeB c (c.src 0)), on (.vscan (op 8 2 0 0 x.2 (x.1 ||| 0x90))) id yes, on (.vred (op 8 2 0 0 x.2 x.1)) id yes]) ++
    ([0, 1, 2] : List (BitVec 8)).flatMap (fun f => [on (.vscan (op 8 2 0 0 8 f)) (vregs [(2, fun l => BitVec.ofNat 32 l)]) yes,
      onSingle (.vred (op 8 2 0 0 8 f)) id yes])) := meets (by decide +kernel)

/-- LimbBinding: legal and illegal sizes in both modes, a bracket open, a slot whose mask splits a segment; an unbound crew, a guard that splits a segment. -/
theorem test_meets_LimbBinding : Met [
    on (.lbind (op 0 8 0 0 0 0)) (sregs [(8, 2)]) (fun c => c.crew.bracket.isNone && c.other.st == .empty && !(splitsSegment c.single 2 c.mask)),
    on (.lbind (op 0 8 0 0 0 0)) (sregs [(8, 32)]) (fun c => splitsSegment c.single 32 c.mask), on (.lbind (op 0 8 0 0 0 0)) (sregs [(8, 3)]) yes,
    on (.lbind (op 0 8 0 0 0 0)) (fun c => sregs [(8, 2)] { c with bracket := some 7 }) (fun c => c.crew.bracket.isSome),
    onSingle (.lbind (op 0 8 0 0 0 0)) (sregs [(8, 6)]) yes, onSingle (.lbind (op 0 8 0 0 0 0)) (sregs [(8, 5)]) yes, on .lfree id yes,
    on (.ladd (op 10 4 6 0 2 5)) id (fun c => c.crew.limbN == 0),
    on (.lcmp { op 1 4 6 0 2 0 with g := 3, gn := false }) (fun c => pregs [(3, 7)] { c with limbN := 2 })
      (fun c => c.crew.limbN == 2 && splitsSegment c.single 2 c.act)] := meets (by decide +kernel)

/-- LimbArithmetic: a segment of two limbs whose siblings agree, carry in and out, and shifts at both ends. -/
theorem test_meets_LimbArithmetic :
    let f (n : Word) (c : Crew) : Crew := sregs [(8, n)] (vregs [(4, fun _ => 0xFFFFFFFF), (6, fun _ => 1)] (pregs [(3, 0x3F)] { c with limbN := 2 }))
    let ok (c : Ctx) : Bool := c.crew.limbN == 2 && !(splitsSegment c.single 2 c.act) && c.segments == [0] &&
      c.segVal 0 0 0 == c.segVal 0 0 1 && c.segVal 0 0 0 == c.segVal 0 0 2
    Met ([on (.ladd (op 10 4 6 3 2 0x45)) (f 0) ok, on (.lsub (op 10 6 4 3 2 0x45)) (f 0) ok, on (.lmuls (op 10 4 6 4 2 12)) (f 0) ok,
      on (.lcarry (op 1 3 0 0 0 0)) (f 0) ok, on (.lcarry (op 1 3 0 0 0 1)) (f 0) ok] ++
    ([0, 63, 64, 0xFFFFFFFF] : List Word).flatMap (fun n => [on (.lshl (op 10 4 8 0 2 5)) (f n) ok, on (.lshr (op 10 4 8 0 2 5)) (f n) ok]) ++
    ([0, 1, 2, 3, 4, 5] : List (BitVec 8)).map (fun k => on (.lcmp (op 1 4 6 0 2 k)) (f 0) ok)) := meets (by decide +kernel)

/-- Regrouping, its first part: a partner out of range, the crew itself, one that is not there. -/
theorem test_meets_Regrouping : Met [
    on (.regrp (op 1 8 16 0 0 0)) (sregs [(16, 32)]) (fun c => 32 ≤ (c.s32 1).toNat), on (.regrp (op 1 8 16 0 0 0)) (sregs [(16, 1)]) (fun c => c.lr.nCrews ≤ (c.s32 1).toNat),
    on (.regrp (op 1 8 16 0 0 0)) id (fun c => (c.s32 1).toNat == c.crew.crew),
    (let x := on (.regrp (op 1 8 16 0 0 0)) (sregs [(16, 1)]) yes
     (relaunch (fun r => { r with shape := 2 }) x.1, x.2.1, fun c => (c.s32 1).toNat < c.lr.nCrews && c.crew.crew == 0))] := meets (by decide +kernel)

end Sys2Proof.Tests
end

