-- ==== Sys2Proof/Tests/Events.lean ====
section
/-! SUPPORT. Witnesses: concrete states that meet the hypotheses of the statements about steps, traps and the device's events; the events complete in them. -/

set_option Elab.async false

namespace Sys2Proof.Tests

open Sys2Proof Sys2Proof.Machine Sys2Proof.Safety

/-! ### Steps, guards and traps -/

/-- The probe crew of a state. -/
def crewOf (s : State) : Crew := (s.crews.head?).getD (Crew.start probeRec 0 0 0 ⟨0, 0, 0, 0⟩ 0)

/-- Its slot's words. -/
def wordsOf (s : State) : List Word := (((crewOf s).slot0.block? (crewOf s).slot0.pc).map fun b => b.words (crewOf s).slot0.pc).getD []

/-- The outcome is a next state that meets `p`. -/
def nextIs (o : Out) (p : State → Bool) : Bool :=
  match o with
  | .next t => p t
  | _ => false

/-- StepRunsDecoded: a slot with its block, no breakpoint, and bytes that decode; the next address is past the instruction. -/
theorem test_meets_StepRunsDecoded : let i := Instr.sadd (opl 4 5 0 0 0 0 7)
    let s := probe i id
    (s.issuer == some ⟨crew0, 0⟩ && decide (s.unit? crew0 = some (.crew (crewOf s))) && (s.breakAt crew0 (crewOf s).slot0.pc).isNone &&
      (match decode (wordsOf s) with
      | .ok j => j == i
      | .error _ => false) && after s fun t => (crewOf t).slot0.pc == 12) = true := by decide +kernel

/-- IllegalEncodings: words that are no instruction, and an instruction that its issuer may not issue. -/
theorem test_meets_IllegalEncodings :
    let s := State.reset.withProbe false [0x58, 0, 0, 0]
    ((match decodeFields (wordsOf s) with
      | .error r => r != .truncated && r.cause == 2
      | .ok _ => false) && (s.breakAt crew0 0).isNone &&
      (Instr.mzero (op 0 8 0 0 0 0)).cause (some (s.encCtx (.crew (crewOf s)))) == some 6) = true := by decide +kernel

/-- StepOrder: a check value that goes bad, an event from outside, what recovery lets through, and a part with nothing due. -/
theorem test_meets_StepOrder :
    (nextIs (step { State.reset with inbox := [.supplyDroop 2] }) (fun t => t.plat.droop == 4 && t.inbox == []) &&
      nextIs (step { State.reset with upsets := [.memory 4], inbox := [.supplyDroop 2] }) (fun t => t.lineBad 0x100 && t.upsets.isEmpty && t.inbox.length == 1) &&
      nextIs (step { State.reset with plat := { State.reset.plat with recovery := true }, inbox := [.bar2Access 0 1 (some [7])] })
        (fun t => t.mem == [] && t.inbox.isEmpty) &&
      !(State.moves { State.reset with free := 1 }).isEmpty && !(byHecen (.bar2Access 0 1 none))) = true := by decide +kernel

/-- StepKeepsMemory: a step that writes memory, from canonical memory. -/
theorem test_meets_StepKeepsMemory :
    let o : StoreOp := ⟨0, crew0, 0, [.mem 0x100], [(0x100, 7)], none, false, none, [], Rank.plain⟩
    let s : State := { State.reset with inbox := [.storeAck 0], flight := { State.reset.flight with stores := [o] } }
    (Memory.wf s.mem && nextIs (step s) fun t => t.mem == [(0x100, 7)] && Memory.wf t.mem) = true := by decide +kernel

/-- Guards: a uniform guard that is false, and a per-thread guard whose bits disagree in thread 1. -/
theorem test_meets_Guards :
    let i := Instr.sadd { op 8 8 16 0 0 0 with g := 1, gn := false }
    let j := Instr.vadd { op 8 2 4 0 1 0 with g := 2, gn := false }
    let s := probe i id
    let t := probe j (pregs [(2, 0x1F)])
    let u := UnitSt.crew (crewOf s)
    let v := UnitSt.crew (crewOf t)
    (uniformGuard u (instrGuard i) && u.allFull (guardWait u (instrGuard i) (fullMask 96)) && guardLanes u (instrGuard i) (fullMask 96) == 0 &&
      (i.cause (some (s.encCtx u))).isNone && (j.cause (some (t.encCtx v))).isNone && v.allFull (guardWait v (instrGuard j) (fullMask 96)) &&
      (t.ctxOf j ⟨crew0, 0⟩ v).guardSplit == some 1) = true := by decide +kernel

/-- EmptyRegisters: an empty guard, an empty source with and without its trap bit, an empty destination. -/
theorem test_meets_EmptyRegisters :
    let i := Instr.vadd { op 8 2 4 0 1 0 with g := 2, gn := false }
    let empty (r : RegClass) (n : Nat) (i : Instr) : UnitSt := (UnitSt.crew (crewOf (probe i (pregs [(2, fullMask 96)])))).markEmpty r n (fullMask 96)
    let j := Instr.vadd { op 8 2 4 0 1 0 with tea := true }
    let k := Instr.vadd (op 8 2 4 0 1 0)
    let src (i : Instr) (u : UnitSt) : List (Nat × Bool) :=
      ((instrSources i false false).filter fun y => !(u.allFull (runWaits i (fullMask 96) y.1))).map fun y => (y.1.first, y.2.2)
    (!((empty .p 2 i).allFull (guardWait (empty .p 2 i) (instrGuard i) (fullMask 96))) &&
      src j (empty .v 2 j) == [(2, true)] && src k (empty .v 4 k) == [(4, false)] &&
      !((empty .v 8 k).allFull ((probe k id).ctxOf k ⟨crew0, 0⟩ (empty .v 8 k)).destWaits)) = true := by decide +kernel

/-- TrapEntry and TrapInstructions: a crew outside and inside a handler, and a launch without one. -/
theorem test_meets_handlers :
    let s := probe .nop id
    let h := relaunch (fun r => { r with trapOff := 0x100 }) s
    let busy (s : State) : State := { s with crews := s.crews.map fun c => { c with scal := { c.scal with trap := { c.scal.trap with inh := true } } } }
    (decide ((h.landLimbs crew0).unit? crew0 = some (.crew (crewOf h))) && !(crewOf h).scal.trap.inh &&
      (h.lrec 0x1000).trapOff != 0xFFFFFFFF && s.handlerOff crew0 == 0xFFFFFFFF && (crewOf (busy h)).scal.trap.inh &&
      (((busy h).landLimbs crew0).unit? crew0).isSome) = true := by decide +kernel

/-- Rounding: quanta below and above the exponent, in each direction; a finite value of each format. -/
theorem test_meets_Rounding :
    (roundAt .near false 5 0 1 == (2, true) && roundAt .near false 7 0 1 == (4, true) && roundAt .up true 5 0 1 == (2, true) &&
      roundAt .down true 5 0 1 == (3, true) && roundAt .zero false 5 3 1 == (20, false) &&
      [f16, bf16, f32, f64].all fun f => match f.decode 1 with
        | .fin _ _ _ => true
        | _ => false) = true := by decide +kernel

/-! ### Regrouping, scratchpads and slices -/

/-- Two crews of one launch that wait for each other at `REGRP Q1, S8, S16`, with `a` and `b` threads in their slots. -/
def pair (a b : Nat) : State :=
  let i := Instr.regrp (op 1 8 16 0 0 0)
  let s := relaunch (fun r => { r with shape := 2 }) (probe i id)
  let c := crewOf s
  let at_ (k n : Nat) : Crew := sregs [(16, BitVec.ofNat 32 (1 - k))]
    { c with crew := k, slot0 := { c.slot0 with mask := fullMask (3 * n), st := .blocked (.regroup (1 - k)) } }
  { s with issuer := none, crews := [at_ 0 a, { at_ 1 b with place := some ⟨0, 0, 0, 1⟩ }] }

/-- Regrouping, its second part: two crews that meet, whose threads fit in one or do not. -/
theorem test_meets_meetings : (([(2, 3), (20, 13)] : List (Nat × Nat)).all fun x =>
    let s := pair x.1 x.2
    let r (k : Nat) : UnitRef := .crew 0x1000 0 0 k
    let crew (k : Nat) : Crew := match s.unit? (r k) with
      | some (.crew c) => c
      | _ => crewOf s
    (crew 0).regroups 1 == some 0 && (crew 1).regroups 0 == some 0 && s.drained (.crew (crew 0)) && s.drained (.crew (crew 1)) &&
    (match s.waiting (r 0) 0, s.waiting (r 1) 0 with
      | some c, some d => c.pc == d.pc && c.d == d.d && decide (c.d < 16)
      | _, _ => false) && nextIs (exec (.regrpFuse (r 0) (r 1)) s) fun t => t.crews.length == (if x.1 + x.2 ≤ 32 then 1 else 2) &&
      match t.unit? (r 0) with
      | some (.crew c) => c.slot0.pc == 8 && c.scal.qget 1 == decide (x.1 + x.2 ≤ 32) &&
        (decide (32 < x.1 + x.2) || c.lanes == 3 * (x.1 + x.2))
      | _ => false) = true := by decide +kernel

/-- GlobalAccesses: places in this package's memory; every AOP and integer SZF; a compare that fails. -/
theorem test_meets_atomAt :
    let s := State.reset
    (paPkg 0x100 == s.pkg && !((tget 0 s.xlat.asctx 2).getLsbD 31) && Memory.wf s.mem &&
      (List.range 8).all fun a => ([4, 5, 6, 7] : List Nat).all fun z =>
        let x := s.atomAt (.mem 0x100) ⟨a, z, 5, 1, 2⟩
        x.1 == 0 && leNat (x.2.rdMem 0x100 4) == (if a = 1 ∨ a = 3 ∨ a = 7 then 0 else 5)) = true := by decide +kernel

/-! ### Operations in flight -/

/-- The probe launch with nothing chosen to issue, changed. -/
def idle (f : State → State) : State := f { probe .nop id with issuer := none }

/-- An ordered update of 4 bytes at 0x100. -/
def update1 (place : UpdatePlace) : OUpdate := ⟨1, crew0, 0x100, 0, 4, 9, 2, 0, 0, 0, 0, 0, 0, place, false, none⟩

/-- RegistersFill: a load with its bytes to read and read, an acquiring one, one of a bad line; a producer's lane; limb instructions with outs. -/
theorem test_meets_RegistersFill :
    let ld (got : Option Byte) (acq : Bool) : LoadOp := { id := 1, unit := crew0, cache := 0, vdata := true, reg := 8, lanes := [0, 1, 2], szf := 4
                                                          form := .one, locs := [.mem 0x100, .mem 0x101, .mem 0x102, .mem 0x103]
                                                          got := got :: List.replicate 3 none, alloc := [], acquire := acq, wide := acq
                                                          fail := none, port := none, tied := false }
    let w (l : Nat) : RegWrite := ⟨.v, 9, l, 5⟩
    ((([(none, false), (some 1, false), (none, true)] : List (Option Byte × Bool)).all fun x =>
      let s := idle fun s => { s with mem := [(0x100, 7)], flight := { s.flight with loads := [ld x.1 x.2] } }
      s.loadReady (ld x.1 x.2) && ((ld x.1 x.2).fail.or (s.badLine (ld x.1 x.2).missing)).isNone && (s.unit? crew0).isSome &&
      nextIs (exec (.loadReturn 1 0) s) fun t => (crewOf t).vget 8 1 == (if x.1.isSome then 1 else 7) && t.flight.loads.isEmpty) &&
    (let s := idle fun s => { s with checks := [(4, 1)], flight := { s.flight with loads := [ld none false] } }
     (s.badLine (ld none false).missing).isSome && nextIs (exec (.loadReturn 1 0) s) fun t => t.crews.isEmpty) &&
    (let s := idle fun s => { s with flight := { s.flight with producers := [⟨1, crew0, false, true, [w 0, w 1]⟩] } }
     nextIs (exec (.producerFill 1 1) s) fun t => (crewOf t).vget 9 1 == 5 && t.flight.producers.length == 1) &&
    (let s := idle fun s => { s with flight := { s.flight with limbs := [⟨1, crew0, true, [w 0], [(23, true)]⟩, ⟨2, crew0, false, [], [(23, false)]⟩] } }
     nextIs (exec (.limbLanding 1) s) (fun t => (crewOf t).limbCarry == 0x800000 && (crewOf t).vget 9 0 == 5) &&
     nextIs (exec (.limbLanding 2) s) fun t => t.flight.limbs.length == 1)) = true := by decide +kernel

/-- StoresAndRaisesLand: a store, an update that finds a place and one that spills, raises, an atomic with its old value returned. -/
theorem test_meets_StoresAndRaisesLand :
    let st : StoreOp := ⟨1, crew0, 0, [.mem 0x100], [(0x100, 7)], none, false, none, [], Rank.plain⟩
    let ps : StoreOp := ⟨1, crew0, 0, [.sp 0x1000 0 0 8], [], none, false, some 0, [(.sp 0x1000 0 0 8, 7)], Rank.plain⟩
    let rs : StoreOp := ⟨1, crew0, 0, [.ctr 3], [], some (3, [5, 6], false), false, none, [], Rank.plain⟩
    let at_ : AtomOp := { id := 1, unit := crew0, cache := 0, aop := 0, szf := 4, vdata := true, ret := true, reg := 8, acquire := true, wide := true
                          port := none, lanes := [⟨[0, 1, 2], .mem 0x100, 5, 0, 2, none⟩], batch := 1, held := [], rank := Rank.plain }
    ((let s := idle fun s => { s with flight := { s.flight with stores := [st] } }
      s.storeReady st && nextIs (exec (.storeAck 1) s) fun t => tget 0 t.mem 0x100 == 7 && t.flight.stores.isEmpty) &&
    (let s := idle fun s => { s with flight := { s.flight with stores := [ps] } }
     s.storeReady ps && nextIs (exec (.storeAck 1) s) fun t => (t.wgs.head?).map (fun w => tget 0 w.sp 8) == some 7 && t.flight.stores.isEmpty) &&
    (([0, 16] : List Nat).all fun n =>
      let s := idle fun s => { s with flight := { s.flight with updates := update1 .sent ::
        ((List.range n).map fun k => { update1 .held with id := k + 2 }) } }
      let s := relaunch (fun r => { r with ovfCnt := 1, ovfBase := 0x1000 }) s
      (s.launch? 0x1000).isSome && nextIs (exec (.oatomUpdateAccept 1) s) fun t =>
        (t.flight.updates.getLast?).map OUpdate.place == some (if n = 0 then .held else .spilled 0)) &&
    (let s := idle fun s => { s with flight := { s.flight with stores := [rs] } }
     s.storeReady rs && twf 0 s.ctrs && nextIs (exec (.triggerRaise 1) s) fun t => tget 0 t.ctrs 3 == 11) &&
    (let s := idle fun s => { s with eng := { s.eng with raises := [⟨4, 7, 2, false, none⟩] } }
     nextIs (exec (.triggerRaise 4) s) fun t => tget 0 t.ctrs 7 == 2 && t.eng.raises.isEmpty) &&
    (let s := idle fun s => { s with mem := [(0x100, 7)], flight := { s.flight with atomics := [at_] } }
     s.writeReady 0 1 none at_.locs && (s.atomFar at_).isNone && (s.badLine at_.locs).isNone && nextIs (exec (.atomicPerform 1) s) fun t =>
      tget 0 t.mem 0x100 == 12 && (crewOf t).vget 8 2 == 7 && t.flight.atomics.isEmpty)) = true := by decide +kernel

/-! ### Fetch and translation -/


/-- FetchAndInvalidation: a block with no translation and with one; a walk; each invalidation, running and not. -/
theorem test_meets_FetchAndInvalidation :
    let bare : State := idle fun s => { s with crews := s.crews.map fun c => { c with slot0 := { c.slot0 with blocks := [] } } }
    let good : State := { bare with mem := [(0x10000, 0xA)], caches := { bare.caches with tlb := [⟨0, 0, 0, 0, 0x10000, 0, false, false, true⟩] } }
    let u (s : State) : UnitSt := .crew (crewOf s)
    let tr (s : State) : WalkResult × State := s.translate (s.asker crew0) (s.tlbsOf crew0) (s.clusterOf crew0 / 12) (s.lrec 0x1000).asid 0
    (bare.live (u bare) 0 && (crewOf bare).slot0.lacks && (match (tr bare).1 with
      | .fault _ => true
      | _ => false) && nextIs (exec (.fetchBlockArrive crew0 0 0) bare) (fun t => match (crewOf t).slot0.st with
      | .parked _ _ _ => true
      | _ => false) && (match (tr good).1 with
      | .ok f mt _ _ true _ => f == 0x10000 && mt == 0 && good.backed (onPage f 0) && !(good.lineBad f) &&
        (good.ilFind (good.cacheOf crew0) (good.lrec 0x1000).asid 0).isNone
      | _ => false) && nextIs (exec (.fetchBlockArrive crew0 0 0) good) (fun t =>
        ((crewOf t).slot0.block? 0).map (fun b => b.bytes.head?) == some (some 0xA)) &&
    (let w : WalkReq := ⟨1, 0, 0, 0, 5, false⟩
     nextIs (exec (.pageWalkComplete 1) { bare with caches := { bare.caches with walks := [w] } }) fun t => t.caches.walks.isEmpty) &&
    (let v : Invalidation := ⟨0, 0, 0, 2 ^ 32⟩
     let s : State := { good with xlat := { good.xlat with invBusy := some v } }
     s.invQuiet v && !((s.flushRange v).fab.out.any fun o => o.origin == .priv) &&
     nextIs (exec .invalidationDone s) (fun t => t.xlat.invBusy.isNone && t.caches.tlb.isEmpty) &&
     nextIs (exec .invalidateAll s) (fun t => t.xlat.invDropped) && nextIs (exec (.invalidateRange 3) good) fun t => t.xlat.invBusy.isSome)) =
    true := by decide +kernel

/-- Page 0 of address space 0 mapped to frame 0x10000, for every use, by tables at 0, 0x1000, 0x2000, 0x3000 and 0x300000. -/
def mapped (s : State) : State :=
  { s with mem := [(0, 1), (1, 0x10), (0x1000, 1), (0x1001, 0x20), (0x2000, 1), (0x2001, 0x30), (0x3000, 1), (0x3002, 0x30),
             (0x300000, 0x33), (0x300002, 1)]
           xlat := { s.xlat with asctx := [(0, 1)] } }

/-- TranslationCommands: a held record with room; a replay and a cancel, refused and taken; a migration refused, started and ended; a pin whose hold elapses. -/
theorem test_meets_TranslationCommands :
    let rg : Ring := { Ring.zero with en := true, held := [List.replicate 64 1] }
    let parked : State := idle fun s => { s with crews := s.crews.map fun c => { c with slot0 := { c.slot0 with st := .parked false 0 [5] } } }
    let m : MigSlot := { MigSlot.zero with dst := 0x10000, state := 1 }
    let put (m : MigSlot) (s : State) : State := { s with xlat := { s.xlat with migs := m :: s.xlat.migs.drop 1 } }
    let pin (s : State) : State := { s with xlat := { s.xlat with pins := [⟨0, 5, 0, 0⟩], asctx := [(1, 1 <<< 32)] }, plat := { s.plat with dieCtr := [(4, 2100)] } }
    ((let s := State.reset.setRing .fault rg
      rg.room && nextIs (exec (.heldRecordWrite .fault) s) fun t => (t.ring .fault).held.isEmpty && (t.ring .fault).put == 1) &&
    (let all : DWord := BitVec.ofNat 64 (2 * 2 ^ 60)
     cmdOp all == 0 && nextIs (exec (.replay all) parked) (fun t => (crewOf t).slot0.st == .ready) &&
     nextIs (exec (.replay (BitVec.ofNat 64 (5 * 2 ^ 57))) parked) (fun t => t.xlat.badCmd)) &&
    (let c : DWord := BitVec.ofNat 64 (2 ^ 62 + 3 * 2 ^ 60 + 1 * 2 ^ 25)
     cmdOp c == 1 && cmdIdent c == 0x1000 && nextIs (exec (.cancelLaunch c) parked) (fun t => t.crews.isEmpty) &&
     nextIs (exec (.cancelLaunch (BitVec.ofNat 64 (2 ^ 62))) parked) fun t => t.xlat.badCmd) &&
    nextIs (exec (.migrate 0 (BitVec.ofNat 64 (2 ^ 63 + 3))) State.reset) (fun t => (t.xlat.migs.head?).map MigSlot.state == some 4) &&
    nextIs (exec (.migrate 15 (BitVec.ofNat 64 (2 ^ 63))) State.reset) (fun t => (t.xlat.migs.getLast?).map MigSlot.state == some 4) &&
    nextIs (exec (.migrate 1 (BitVec.ofNat 64 (2 ^ 63))) (mapped State.reset)) (fun t => (t.xlat.migs.map MigSlot.state).take 2 == [0, 1]) &&
    (let s := put m State.reset
     s.invQuiet m.inv && nextIs (exec (.migrationComplete 0) s) fun t => (t.xlat.migs.head?).map MigSlot.state != some 1) &&
    (let s := pin State.reset
     s.pinReady ⟨0, 5, 0, 0⟩ && nextIs (exec (.pinHoldExpiry 0 5) s) fun t => t.xlat.pins.isEmpty)) = true := by decide +kernel

/-! ### The dealer and rounds -/

/-- One launch in the window, of one gang, not yet placed; nothing resident. -/
def waitingLaunch (f : Launch → Launch) : State :=
  let s := idle id
  { s with crews := [], coxes := [], wgs := [], gangs := []
           dealer := { s.dealer with launches := [f (Launch.start { probeRec with roundWord := 0x40, compl := 0x80 } 0 0 0)] } }

/-- Its launch. -/
def theLaunch (s : State) : Launch := (s.dealer.launches.head?).getD (Launch.start probeRec 0 0 0)

/-- DealerEvents: a tail that passes and one that does not; a record to accept; a placement; a reservation that has run; draws of each answer. -/
theorem test_meets_DealerEvents :
    let q : SubQueue := ⟨1, true, false, 0, 4, 1, 0⟩
    let dr (launch : Nat) (s : State) : State := { s with dealer := { s.dealer with draws := [⟨cox0, 0, 64, launch, 0⟩] } }
    (nextIs (exec (.submissionTailWrite 0 17) State.reset) (fun t => (t.dealer.queues.head?).map SubQueue.ovr == some true) &&
    nextIs (exec (.submissionTailWrite 127 16) State.reset) (fun t => (t.dealer.queues.getLast?).map SubQueue.tail == some 16) &&
    (let s : State := { State.reset with dealer := { State.reset.dealer with queues := q :: State.reset.dealer.queues.drop 1, rotation := 5 } }
     s.nextQueue == some 0 && nextIs (exec .launchAccept s) fun t => t.dealer.launches.length == 1) &&
    (let s := waitingLaunch id
     let l := theLaunch s
     s.placeable == [l] && !l.lr.persist && !l.lr.determ && l.lr.affMode != 3 && l.returned.isEmpty &&
      (s.toPlace l 1).head? == some (0, false)) &&
    (let s := idle id
     let r : Reservation := ⟨0x2000, 0, 0, 0⟩
     let big : Launch := Launch.start { probeRec with ident := 0x2000, prio := 7, shape := 0x20, poolPart := 0x1010FF1F } 0 1 0
     let s : State := { s with plat := { s.plat with dieCtr := [(0, 0x100000)] }
                               dealer := { s.dealer with reservations := [r], launches := s.dealer.launches ++ [big] } }
     decide (r.since + 2 ^ 20 ≤ (s.dieCtr (dieOfCluster r.cluster)).toNat) && !(s.toPreempt r).isEmpty &&
      (s.toPreempt r).all (fun g => !(s.shareHalted g.ident g.gang)) && nextIs (exec (.reservationTimeout 0x2000) s) fun t => t.gangs.any Gang.saving) &&
    (([(1, 1, 0), (1, 2, 0), (9, 2, 1)] : List (Nat × Nat × Nat)).all fun x =>
      let s := dr x.1 (relaunch (fun r => { r with gangCount := x.2.1 }) (idle id))
      (s.drawn ⟨cox0, 0, 64, x.1, 0⟩).isSome == (x.2.2 == 0) && (s.wg? 0x1000 0 0).isSome && nextIs (exec .drawAnswer s) fun t => t.dealer.draws.isEmpty)) =
    true := by decide +kernel

/-- RoundsAndCompletion: a report to the peers, a round to close, one to apply with and without its update, the round word and the completion record. -/
theorem test_meets_RoundsAndCompletion :
    let crewRound (n : Word) (s : State) : State := { s with coxes := [], crews := s.crews.map fun c => { c with scal := { c.scal with round := n } } }
    let two (told : Option (Nat × Bool)) : State := relaunch (fun r => { r with pkgN := 2 }) (crewRound 1 (idle fun s =>
      { s with dealer := { s.dealer with launches := s.dealer.launches.map fun l => { l with told := told, peers := [(1, 1, false)] } } }))
    ((let s := two none
      decide (1 < (theLaunch s).lr.setSize) && (theLaunch s).told != some (s.report (theLaunch s)) && nextIs (exec (.roundClose 0x1000) s) fun t => (theLaunch t).told.isSome) &&
    (let s := two (some ((two none).report (theLaunch (two none))))
     (theLaunch s).told == some (s.report (theLaunch s)) && s.closeLimit (theLaunch s) == some 1 && nextIs (exec (.roundClose 0x1000) s) fun t => (theLaunch t).closed == 1) &&
    (([[], [update1 .held]] : List (List OUpdate)).all fun us =>
      let s := waitingLaunch fun l => { l with closed := 1 }
      let s : State := { s with flight := { s.flight with updates := us } }
      (s.clustersOf s.pkg).contains 0 && (theLaunch s).appliedOn 0 == 0 && nextIs (exec (.roundApply 0x1000 0) s) fun t =>
        t.flight.updates.isEmpty && (theLaunch t).appliedOn 0 == 1 && tget 0 t.mem 0x100 == (if us.isEmpty then 0 else 9)) &&
    (let done := waitingLaunch fun l => { l with closed := 1, applied := (List.range 48).map fun k => (k, 1) }
     decide ((theLaunch done).roundWritten < done.appliedAll (theLaunch done)) && !(done.dealerOut 0x1000) &&
      nextIs (exec (.roundWordWrite 0x1000) done) (fun t => (theLaunch t).roundParked.isSome) &&
      nextIs (exec (.roundWordWrite 0x1000) (mapped done)) fun t => (theLaunch t).roundWritten == 1 && tget 0 t.mem 0x10040 == 1) &&
    (let s := waitingLaunch fun l => { l with nextGang := 1 }
     s.toComplete 0x1000 == some (theLaunch s) && nextIs (exec (.launchComplete 0x1000) (mapped s)) (fun t => t.dealer.launches.isEmpty) &&
      nextIs (exec (.launchComplete 0x1000) s) fun t => match (theLaunch t).phase with
        | .parkedRecord _ => true
        | _ => false) &&
    (let s := waitingLaunch fun l => { l with nextGang := 1, phase := .sentRecord }
     s.toComplete 0x1000 == some (theLaunch s) && nextIs (exec (.launchComplete 0x1000) s) fun t => t.dealer.launches.isEmpty)) = true := by
  decide +kernel

/-- DealerEvents, the placement: a part of one core, on which the gang fits. -/
theorem test_meets_placement :
    let s := waitingLaunch id
    let s : State := { s with plat := { s.plat with unitcnt := 1, corecnt0 := 0 } }
    (s.choose false (theLaunch s) 0 false == some (0, [0]) && s.launch? 0x1000 == some (theLaunch s) && (s.toPlace (theLaunch s) 1).head? == some (0, false) &&
      nextIs (exec .gangPlacement s) fun t => t.crews.length == 1 && t.coxes.length == 1) = true := by decide +kernel

/-! ### Engines and the fabric -/

/-- A copy request of the probe crew, its record at scratchpad offset 0. -/
def copy1 (phase : CopyPhase) (job : Option CopyJob) : CopyReq :=
  ⟨1, 0, 3, crew0, some (0, 0), 2, [], [], 0, 0, 0, 0, 0, 0, none, [], false, [], [], phase, job, false⟩

/-- A job of one step of 256 bytes, on its way or not. -/
def job1 (step : Nat) : CopyJob := { copyJobOf (List.replicate 64 0) (List.replicate 64 0) [] with total := 256, stepBytes := step }

def withCopy (q : CopyReq) : State := idle fun s => { s with nextId := 2, eng := { s.eng with copies := [q] } }

/-- CopyEvents: a request that fails its checks and one that passes, a step acknowledged and a cancelled one, a completion, a resumption. -/
theorem test_meets_CopyEvents :
    let q := copy1 .queued none
    let done := copy1 (.finishing 0) (some (job1 0))
    (let s := withCopy q
     (s.readRequest q).1 != 0 && nextIs (exec (.copyAccept 0 3) s) fun t => (t.eng.copies.map CopyReq.phase) == [.finishing (s.readRequest q).1]) &&
    (let rec_ := leBytes 8 0xFFFF000000001000 ++ leBytes 8 0xFFFF000000002000 ++ leBytes 4 64 ++ leBytes 4 0xFFFFFFFF ++ leBytes 2 0 ++ [0, 3] ++
       leBytes 36 0 ++ [1, 0, 0, 0, 0, 0, 0, 0] ++ leBytes 4 4 ++ leBytes 4 1 ++ leBytes 4 1 ++ leBytes 4 1 ++ leBytes 40 0
     let s := withCopy q
     let s : State := { s with wgs := s.wgs.map fun w => { w with sp := putBytes w.sp 0 rec_ } }
     (s.readRequest q).1 == 0 && nextIs (exec (.copyAccept 0 3) s) fun t => (t.eng.copies.map CopyReq.phase) == [.running]) &&
    (let s := withCopy (copy1 .running (some (job1 256)))
     (s.headCopy 0 3).any (fun q => s.copyMove q == some .count) && nextIs (exec (.copyStep 0 3) s) fun t => (t.eng.copies.map CopyReq.phase) == [.finishing 0]) &&
    (let s := withCopy { copy1 .running (some (job1 0)) with cancel := true }
     (s.headCopy 0 3).any (fun q => s.copyMove q == some .cancel) && nextIs (exec (.copyStep 0 3) s) fun t => (t.eng.copies.map CopyReq.phase) == [.finishing 8]) &&
    (let s := withCopy done
     nextIs (exec (.copyComplete 0 3) s) fun t => t.eng.copies.isEmpty && (crewOf t).scal.cpy == (crewOf s).scal.cpy - 1) &&
    nextIs (exec (.watchResume 15) (withCopy (copy1 (.watched 15) (some (job1 0))))) (fun t => (t.eng.copies.map CopyReq.phase) == [.running]) = true := by
  decide +kernel

/-- EngineEvents: a head that completes, one with its rows to write; a tile to commit; posted operations before and after their raises. -/
theorem test_meets_EngineEvents :
    let mo (k : MatKind) : MatOp := ⟨1, cox0, 0, [], 0, false, k⟩
    let q (k : MatKind) : State := idle fun s => { s with eng := { s.eng with mats := [⟨0, 0, [], [], [], 0, 0, [mo k], [], 0, [], []⟩] } }
    let j : VocabJob := ⟨false, [1, 1, 0, 1] ++ leBytes 2 1 ++ leBytes 2 0 ++ leBytes 4 0 ++ leBytes 4 1 ++ List.replicate 28 0 ++ leBytes 4 0xFFFFFFFF ++
      leBytes 4 196608 ++ leBytes 4 0xFFFFFFFF ++ leBytes 8 0 ++ [2, 0] ++ List.replicate 62 0, 0, 0, 1, false, true, false, [], none, 0, 0⟩
    let p (st told : Nat) : Post := { postOf 5 0x1000 0 (leBytes 1 4 ++ leBytes 63 0) with state := .transferring, waiting := 1, done := st, told := told == 1 }
    (let s := q (.mzero 0)
     s.matReady (s.matrix 0 0) && nextIs (exec (.matrixOpComplete 0 0) s) fun t => (t.matrix 0 0).queue.isEmpty) &&
    (let s := q (.vocab j)
     s.tileReady (s.matrix 0 0) && (s.wg? 0x1000 0 0).isSome) &&
    (([(0, 0), (1, 0), (1, 1)] : List (Nat × Nat)).all fun x =>
      let s := idle fun s => { s with eng := { s.eng with posts := [p x.1 x.2] } }
      !(s.postWaits (p x.1 x.2)) && nextIs (exec (.postedTransferComplete 5) s) fun t => (t.post? 5).isSome == (x.2 == 0)) = true := by
  decide +kernel

/-- FabricEvents: packets in turn, seen, ahead of a gap and stale; an acknowledgment; marks; a timeout below and at the limit; links, drains, the table. -/
theorem test_meets_FabricEvents :
    let key : StreamKey := ⟨1, 0, 0, 0x1000, 1⟩
    let far : State := { State.reset with fab := { State.reset.fab with
      idtab := [(1, 0x8000000000001000#64)], route := [(0, 0x10000#64), (1, 0x10000#64)], hwm := [⟨key, 48, 5⟩],
      links := ⟨0, 1, true⟩ :: State.reset.fab.links.drop 1 } }
    let pk (seq : Word) (pl : Payload) (slice : Nat) : Packet := ⟨key, slice, seq, pl⟩
    let out (n : Nat) : State := { far with fab := { far.fab with out := [⟨pk 6 (.write 0x40 [7]) 0, 1, .plain, n, false⟩] } }
    (far.fromFar (pk 6 (.increment 3 5 false) 48) && !(far.stale 0x1000) && far.stale 0x2000) &&
    nextIs (exec (.remoteIncrement (pk 6 (.increment 3 5 false) 48)) far) (fun t => tget 0 t.ctrs 3 == 5 && t.outputs.length == 1) &&
    nextIs (exec (.remoteIncrement (pk 5 (.increment 3 5 false) 48)) far) (fun t => tget 0 t.ctrs 3 == 0 && t.outputs.length == 1) &&
    nextIs (exec (.remoteIncrement (pk 7 (.increment 3 5 false) 48)) far) (fun t => t.outputs.isEmpty) &&
    nextIs (exec (.fabricPacket (pk 1 (.write 0x40 [7]) 0)) far) (fun t => tget 0 t.mem 0x40 == 7 && far.servable (far.ownPa 0x40)) &&
    nextIs (exec (.fabricPacket { pk 1 (.write 0x40 [7]) 0 with key := { key with ident := 0x2000 } }) far) (fun t => t.fab.stale == 1 && t.mem == []) &&
    nextIs (exec (.fabricAck ⟨1, key⟩ 0 6) (out 0)) (fun t => t.fab.out.isEmpty && tget 0 t.mem (2 ^ 44 + 0x40) == 7) &&
    nextIs (exec (.streamEndMark key) far) (fun t => t.fab.hwm.isEmpty) && nextIs (exec (.streamAbortMark key) far) (fun t => t.fab.hwm.isEmpty) &&
    nextIs (exec (.hwmEntryExpiry key 48) far) (fun t => t.fab.hwm.isEmpty) &&
    nextIs (exec (.endToEndTimeout ⟨1, key⟩ 0) (out 0)) (fun t => (t.fab.out.map OutPacket.resends) == [1]) &&
    nextIs (exec (.endToEndTimeout ⟨1, key⟩ 0) (out 8)) (fun _ => true) &&
    ((out 8).fab.out.map OutPacket.resends) == [(max 1 far.fab.retryMax.toNat)] &&
    nextIs (exec (.linkFlitCrcError 0) far) (fun t => (t.fab.links.head?).map Link.retry == some 1) &&
    nextIs (exec (.damhedanLinkTraining 15 2) far) (fun t => (t.fab.links.getLast?).map Link.gen == some 2) &&
    nextIs (exec (.damhedanLinkDown 0) far) (fun t => (t.fab.links.head?).map Link.gen == some 0) &&
    nextIs (exec .drain far) (fun t => t.fab.draining == [0] && nextIs (exec (.drainTokenReturn ⟨0, false⟩) t) fun u => u.fab.draining.isEmpty) &&
    nextIs (exec (.drainTokenReturn ⟨0, true⟩) far) (fun t => t.outputs == [.drainReturn 0]) &&
    nextIs (exec (.idtabWrite 1 0) far) (fun t => t.fab.hwm.isEmpty && tget 0 t.fab.idtab 1 == 0) = true := by decide +kernel

/-! ### Pre-emption, debug, platform -/

/-- PreemptionEvents: a command that names a gang and one that names none; a gang whose parties have stopped. -/
theorem test_meets_PreemptionEvents :
    let s := idle id
    let c : DWord := 0x8000000000001000
    let saving : State := { s with gangs := s.gangs.map fun g => { g with saving := true } }
    (!(s.preemptBusy) && nextIs (exec (.preemptGang c) s) (fun t => t.gangs.all Gang.saving) &&
     nextIs (exec (.preemptLaunch (c ||| 0x4000000000000000)) s) (fun t => t.gangs.all Gang.saving) &&
     nextIs (exec (.preemptGang 0x8000000000002000) s) (fun t => t.dealer.preemptNotFound) &&
     saving.gangs.all saving.saveReady && nextIs (exec (.preemptSaveDone 0x1000 0) saving) fun t => t.gangs.all Gang.saved) = true := by
  decide +kernel

/-- DebugEvents: a partition that runs and one that is stopped, with and without a crew; the mailbox with and without one. -/
theorem test_meets_DebugEvents :
    let run := idle id
    let stop (s : State) : State := s.setPart 0 { s.part 0 with halted := true }
    let box (cmd cls : Nat) (s : State) : State := { s with dbg := { s.dbg with mbBusy := true, mbCmd := [BitVec.ofNat 64 (cmd + cls * 2 ^ 40), 7, 0, 0, 0, 0, 0, 0] } }
    (run.pidExists 0 && run.pidExists 0x3BF && !((run.part 0).halted) && (((stop run).part 0).halted) &&
     nextIs (exec (.dbgStop 0) run) (fun t => (t.part 0).halted) && nextIs (exec (.dbgResume 0) (stop run)) (fun t => !((t.part 0).halted)) &&
     nextIs (exec (.dbgStep 0) (stop run)) (fun t => t.issuer == some ⟨crew0, 0⟩) && nextIs (exec (.ctrclr 0) run) (fun t => ((t.part 0).counters.all (· == 0))) &&
     nextIs (exec (.partitionCycle 0x3BF) run) (fun t => ((t.part 0x3BF).counters) == [1, 0, 0, 0, 0, 0, 0, 0, 0, 1]) &&
     nextIs (exec (.sampleTick 0) (run.setPart 0 { run.part 0 with samples := [List.replicate 64 1] })) (fun t => t.dbg.ring.drop == 1 && (t.part 0).samples.isEmpty) &&
     nextIs (exec (.partitionCycle 0x3BF) (run.setPart 0x3BF { run.part 0x3BF with sample := true, sper := 10, since := 1023 })) (fun t =>
      (t.part 0x3BF).since == 0 && (t.part 0x3BF).samples.length == 1) &&
     ((box 1 0 run).mbCrew).isNone && nextIs (exec .mbReadCrewState (box 1 0 run)) (fun t => t.dbg.mbResult == 1) &&
     nextIs (exec .mbReadCrewState (box 1 0 (stop run))) (fun t => t.dbg.mbResult == 0) &&
     nextIs (exec .mbWriteRegister (box 2 1 (stop run))) (fun t => t.dbg.mbResult == 0 && (crewOf t).scal.sget 0 == 7) &&
     nextIs (exec .mbWriteRegister (box 2 6 (stop run))) (fun t => t.dbg.mbResult == 2)) = true := by decide +kernel

/-- PlatformEvents: accesses of the host at both ends of its window, and over CXL.mem; another package's reads; links; firmware; SPDM; registers. -/
theorem test_meets_PlatformEvents :
    let s := State.reset
    let cxl : State := { s with plat := { s.plat with cxlRev := 4, unitcnt := 0x100000#64 ||| s.plat.unitcnt } }
    let far : State := { s with fab := { s.fab with route := [(0, 0x10000#64), (1, 0x10000#64)] } }
    let img (signed : Bool) (v : Nat) : FwImage := ⟨signed, v, true, 0⟩
    (nextIs (exec (.bar2Access 0 1 (some [7])) s) (fun t => tget 0 t.mem 0 == 7) &&
     nextIs (exec (.bar2Access (2 ^ 30 - 8) 8 none) s) (fun t => t.outputs == [.hostRead (List.replicate 8 0)]) &&
     nextIs (exec (.cxlMemAccess 0 4 none) cxl) (fun t => t.outputs.length == 1) && nextIs (exec (.hostSnoop ⟨5, none⟩) s) (fun t => t.mem == [] && t.outputs == [.snoopAnswer 5 []]) &&
     (let t : State := { s with caches := { s.caches with l2 := [⟨0, s.hostPa 0x140 / 64, 1, true, false, none⟩] } }
      nextIs (exec (.hostSnoop ⟨5, none⟩) t) (fun u => (u.caches.l2.map L2Line.dirty) == [false] && u.outputs == [.snoopAnswer 5 (List.replicate 64 0)]) &&
      nextIs (exec (.hostSnoop ⟨5, some (List.replicate 64 7)⟩) t) (fun u => u.caches.l2.isEmpty && u.rdMem (s.hostPa 0x140) 64 == List.replicate 64 7)) &&
     far.inDomain 1 && far.servable (far.ownPa 0x40) && !(far.lineBad (far.ownPa 0x40)) &&
     nextIs (exec (.remoteReadRequest 1 0x40 4 none) far) (fun t => t.outputs == [.remoteRead 1 [0, 0, 0, 0]]) &&
     nextIs (exec (.remoteReadRequest 1 0x40 4 none) { far with checks := [(1, 1)] }) (fun t => t.outputs.getLast? == some (.remoteRead 1 [])) &&
     (let p : Packet := ⟨⟨1, 0, 0, 0x1000, 1⟩, 0, 1, .atomic 0x40 ⟨0, 4, 5, 0, 2⟩⟩
      let far : State := { far with fab := { far.fab with idtab := [(1, 0x8000000000001000#64)] } }
      far.fromFar p && rightPlace p && !(far.stale 0x1000) && nextIs (exec (.remoteReadRequest 1 0x40 4 (some p)) far) (fun t => tget 0 t.mem 0x40 == 5 &&
        t.outputs == [.ack p.key 0 1, .remoteRead 1 [0, 0, 0, 0]])) &&
     nextIs (exec (.cxlLinkTraining 1 3 16) s) (fun t => t.plat.cxlRev == 0) && nextIs (exec (.supplyRecovery 3) s) (fun t => t.plat.droop == 0) &&
     nextIs (exec (.firmwareBoot [] ⟨0, 0, 0, 0, 0, [], []⟩) s) (fun t => t.plat.recovery) &&
     nextIs (exec (.firmwareBoot [img true 3] ⟨0, 5, 0, 0, 0, [], []⟩) s) (fun t => t.plat.booted && t.plat.pkgnum == 5 && t.plat.fuse == 3) &&
     nextIs (exec (.firmwareBoot [img false 3] ⟨0, 5, 0, 0, 0, [], []⟩) s) (fun t => t.plat.recovery) &&
     s.plat.spdmPhase != 3 && nextIs (exec (.registerWrite 0x08 (0xFFFFFFFFFFFFFFFF#64)) s) (fun t => t.regRead .apwin == 0x00000FFFC0000000#64) &&
     (regAt 1).isNone && (regAt 0x100000).isSome) = true := by decide +kernel
end Sys2Proof.Tests
end

