-- ==== Sys2Proof/Tests/Clauses.lean ====
section
/-! SUPPORT. Witnesses: concrete states that meet the hypotheses of further clauses of the statements about the device's events: meetings of crews, migrations, posted transfers, rounds, packets, the choice of an issuer, the mailbox and registers. -/

set_option Elab.async false

namespace Sys2Proof.Tests

open Sys2Proof Sys2Proof.Machine Sys2Proof.Safety

/-! ### Regrouping -/

/-- Regrouping: crews that meet at different addresses, with an open bracket, bound to limbs, and with no threads at all. -/
theorem test_meets_other_meetings :
    let r (k : Nat) : UnitRef := .crew 0x1000 0 0 k
    let second (f : Crew → Crew) (s : State) : State := { s with crews := s.crews.map fun c => if c.crew = 1 then f c else c }
    let both (p : Crew → Crew → Ctx → Ctx → Bool) (s : State) : Bool := match s.unit? (r 0), s.unit? (r 1), s.waiting (r 0) 0, s.waiting (r 1) 0 with
      | some (.crew x), some (.crew y), some a, some b => x.regroups 1 == some 0 && y.regroups 0 == some 0 &&
        s.drained (.crew x) && s.drained (.crew y) && p x y a b
      | _, _, _, _ => false
    let trapped (k : Nat) (t : State) : Bool := match t.unit? (r k) with
      | some (.crew c) => c.scal.trap.inh || (t.unit? (r (1 - k))).isSome
      | _ => true
    let bkt := second (fun c => { c with bracket := some 7 }) (pair 2 3)
    let later := second (fun c => { c with slot0 := { c.slot0 with pc := 8, blocks := c.slot0.blocks.map fun b =>
      { b with bytes := List.replicate 8 0 ++ b.bytes.take 24 } } }) (pair 2 3)
    let lim := second (fun c => { c with limbN := 2 }) (pair 2 3)
    (both (fun _ _ a b => a.pc != b.pc) later && nextIs (exec (.regrpFuse (r 0) (r 1)) later) (fun t => t.crews.isEmpty || t.crews.length == 2) &&
     both (fun _ y a b => a.pc == b.pc && y.bracket.isSome) bkt && nextIs (exec (.regrpFuse (r 0) (r 1)) bkt) (trapped 1) &&
     both (fun x y a b => a.pc == b.pc && x.limbN == 0 && y.limbN != 0) lim && nextIs (exec (.regrpFuse (r 0) (r 1)) lim) (trapped 1) &&
     both (fun x y _ _ => x.regBad.isEmpty && y.regBad.isEmpty) (pair 0 0) &&
     nextIs (exec (.regrpFuse (r 0) (r 1)) (pair 0 0)) fun t => (t.unit? (r 0)).isNone && (t.unit? (r 1)).isNone) = true := by decide +kernel

/-! ### Translation -/

/-- Page 0 of address space 0 mapped to a frame with a memory type. -/
def mappedTo (frame mt : Nat) (s : State) : State :=
  let leaf := leBytes 8 ((if mt = 2 then 0x13 else 0x33) + mt * 2 ^ 8 + frame)
  { mapped s with mem := ((mapped s).mem.filter fun x => x.1 < 0x300000) ++
      (leaf.zipIdx.filter fun x => x.1 != 0).map fun x => (0x300000 + x.2, x.1) }

/-- The slot of a migration of that page that has marked its entry. -/
def mig1 (frame : Nat) : MigSlot :=
  { MigSlot.zero with state := 1, entryAddr := 0x300000, entry := BitVec.ofNat 64 0x10033, dst := BitVec.ofNat 64 frame, runDst := BitVec.ofNat 64 frame }

def migrating (frame : Nat) : State :=
  let s := mappedTo 0x10000 0 State.reset
  let s := s.wrMem 0x300000 (leBytes 8 0x10833)
  { s with xlat := { s.xlat with migs := mig1 frame :: s.xlat.migs.drop 1 } }

/-- TranslationCommands: a migration of the mapped page that starts; one with everything done, its page's lines good, that ends here, one with a
bad line, one whose entry has been changed meanwhile, and a pin that the table still holds. -/
theorem test_meets_migrations :
    let start : State := { mappedTo 0x10000 0 State.reset with
      xlat := { (mappedTo 0x10000 0 State.reset).xlat with migs := { MigSlot.zero with dst := 0x20000 } :: State.reset.xlat.migs.drop 1 } }
    let ends (s : State) (st : BitVec 4) (p : State → Bool) : Bool :=
      (s.xlat.migs.head?).any (fun m => m.state == 1 && s.invQuiet m.inv) && (s.migStream 0).isNone &&
        nextIs (exec (.migrationComplete 0) s) fun t => (t.xlat.migs.head?).any (fun m => m.state == st) && p t
    let s := migrating 0x10000
    (nextIs (exec (.migrate 0 0x8000000000000000) start) (fun t => (t.xlat.migs.head?).any fun m =>
       m.state == 1 && m.entryAddr == 0x300000 && leNat (t.rdMem 0x300000 8) == 0x10833) &&
     Memory.wf s.mem && ends s 2 (fun t => leNat (t.rdMem 0x300000 8) == 0x10033) &&
     ends { s with checks := [(0x10040 / 64, 1)] } 6 (fun t => leNat (t.rdMem 0x300000 8) == 0x10033) &&
     ends (s.wrMem 0x300000 [0x13]) 5 (fun _ => true) &&
     (let p : State := mappedTo 0x10000 0x4 State.reset
      let p : State := { p with xlat := { p.xlat with pins := [⟨0, 0, 0, 0⟩], asctx := [(0, 1), (1, 1 <<< 32)] }, plat := { p.plat with dieCtr := [(4, 2100)] } }
      p.pinReady ⟨0, 0, 0, 0⟩ && nextIs (exec (.pinHoldExpiry 0 0) p) fun t => leNat (t.rdMem 0x300000 8) == 0x10033)) = true := by
  decide +kernel

/-! ### Posted operations -/

/-- A slot in transfer: its kind, REDOP, source and destination; four bytes, or units. -/
def post1 (kind redop src dst : Nat) : Post :=
  { postOf 5 0x1000 0 ([BitVec.ofNat 8 kind, 0, BitVec.ofNat 8 redop] ++ leBytes 17 0 ++ leBytes 4 4 ++ leBytes 8 src ++ leBytes 8 dst ++ leBytes 24 0) with
    state := .transferring, waiting := 1 }

/-- EngineEvents: a put, a get and a reducing put of this package; a put to another one; a raise of a counter; the raises after an action. -/
theorem test_meets_transfers :
    let at_ (s : State) (p : Post) : State := { s with eng := { s.eng with posts := [p] } }
    let here := (mappedTo 0x10000 0 (idle id)).wrMem 0x10000 [1, 2, 3, 4]
    let run (a : Nat) : List Nat := (List.range 4).map fun k => a + k
    let ok (x : PostAt × State) (pas : List Nat) : Bool := match x.1 with
      | .ok ps => ps == pas
      | _ => false
    let goes (s : State) (p : Post) (p' : State → Bool) : Bool :=
      (s.post? 5) == some p && nextIs (exec (.postedTransferComplete 5) s) p'
    (([(0, 0), (1, 0), (2, 1)] : List (Nat × Nat)).all fun x =>
      let p := post1 x.1 x.2 0 0x40
      let s := at_ here p
      Memory.wf s.mem && ok (s.postBytes p false (x.1 != 1) (run 0)) (run 0x10000) && ok (s.postBytes p true (x.1 == 1) (run 0x40)) (run 0x10040) &&
        (s.postCheck p (run 0x10000) (run 0x10040)).isNone &&
        goes s p fun t => t.rdMem 0x10040 4 == [1, 2, 3, 4] && (t.post? 5).map Post.done == some 4) &&
    (let p := post1 3 0 0 0x10
     let s := at_ (mappedTo 0x030000000000 2 (idle id)) p
     (match (s.postByte p 0x10 true).1 with
      | .ok x => x == (0x030000000010, 2) && targetOf (paLocal x.1) == .trigger
      | .error _ => false) && goes s p fun t => t.eng.raises.map (fun r => (r.idx, r.v, r.asid)) == [(1, 4, some 0)]) &&
    (let p := post1 4 0 0 0
     let s := at_ (idle id) p
     goes s p fun t => (t.post? 5).map Post.done == some 1) &&
    (let p : Post := { post1 4 0 0 0 with done := 1, c1 := some (0, 7, 9), c2 := some (0, 8, 9) }
     let s := at_ (idle id) p
     p.acted && !(s.postWaits p) && goes s p fun t => t.eng.raises.map (fun r => (r.idx, r.v)) == [(7, 9), (8, 9)]) = true := by decide +kernel

/-! ### Rounds -/

/-- RoundsAndCompletion: two updates of a round on a slice, whose order their keys decide, and two that lie on another package. -/
theorem test_meets_ordered_updates :
    let up (issuer operand : Nat) (remote : Bool) : OUpdate :=
      { update1 .held with id := issuer, issuer := issuer, operand := BitVec.ofNat 64 operand, aop := 0, szf := 10, remote := remote
                           pa := (if remote then 2 ^ 44 else 0) + 0x100 }
    let good (s : State) : Bool := s.checks.isEmpty && s.caches.l2.isEmpty
    (let s := waitingLaunch fun l => { l with closed := 1 }
     let s : State := { s with flight := { s.flight with updates := [up 2 0x4B800000 false, up 1 0x3F800000 false] } }
     good s && (s.clustersOf s.pkg).contains 0 && nextIs (exec (.roundApply 0x1000 0) s) fun t => t.flight.updates.isEmpty && (theLaunch t).appliedOn 0 == 1) &&
    (let s := idle id
     let s : State := { s with coxes := [], crews := s.crews.map fun c => { c with scal := { c.scal with round := 1 } }
                               flight := { s.flight with updates := [up 2 0x4B800000 true, up 1 0x3F800000 true] } }
     (theLaunch s).lr.setSize == 1 && s.closeLimit (theLaunch s) == some 1 &&
       nextIs (exec (.roundClose 0x1000) s) fun t => t.flight.updates.isEmpty && (theLaunch t).closed == 1) = true := by
  decide +kernel

/-! ### Packets -/

/-- FabricEvents: an atomic packet in turn, at storage that is there and good, that fails its check, and at none; its acknowledgment. -/
theorem test_meets_atomic_packets :
    let key : StreamKey := ⟨1, 2, 0, 0x1000, 1⟩
    let far : State := { State.reset with fab := { State.reset.fab with
      idtab := [(1, 0x8000000000001000#64)], route := [(0, 0x10000#64), (1, 0x10000#64)] } }
    let a : RemoteAtomic := ⟨0, 4, 5, 0, 0⟩
    let pk (at_ : Nat) : Packet := ⟨key, 0, 1, .atomic at_ a⟩
    let acked (t : State) : Bool := t.outputs == [.ack key 0 1]
    let gone : Nat := 0x00F000000000
    (far.fromFar (pk 0x40) && rightPlace (pk 0x40) && !(far.stale 0x1000) && far.servable (far.ownPa 0x40) && !(far.servable (far.ownPa gone)) &&
      nextIs (exec (.fabricPacket (pk 0x40)) far) (fun t => tget 0 t.mem 0x40 == 5 && acked t) &&
      nextIs (exec (.fabricPacket (pk 0x40)) { far with checks := [(1, 1)] }) (fun t => t.mem.isEmpty && !(acked t) && t.fab.hwm == [⟨key, 0, 0⟩]) &&
      nextIs (exec (.fabricPacket (pk gone)) far) (fun t => t.mem.isEmpty && acked t) &&
      (let out : State := { far with fab := { far.fab with out := [⟨{ pk 0x40 with key := { key with pkg := 0 } }, 1, .plain, 0, false⟩] } }
       nextIs (exec (.fabricAck ⟨1, { key with pkg := 0 }⟩ 0 1) out) fun t => t.fab.out.isEmpty && tget 0 t.mem (2 ^ 44 + 0x40) == 5)) = true := by
  decide +kernel

/-! ### The choice of an issuer, samples and the mailbox -/

/-- DebugEvents: two candidates of which one has waited longest, and two that are told apart by age; register classes of the mailbox at
the ends of their ranges. -/
theorem test_meets_choice :
    let two (waited : Nat) : State :=
      let s := pair 1 1
      { s with crews := s.crews.map fun c => { c with wait := if c.crew = 1 then waited else 0, age := 2 - c.crew, slot0 := { c.slot0 with st := .ready }
                                                      place := some ⟨0, 0, 0, c.crew⟩ } }
    let us (s : State) : State := s.tick 0
    let box (cls reg lane v : Nat) : State :=
      let s := idle id
      let s := s.setPart 0 { s.part 0 with halted := true }
      { s with dbg := { s.dbg with mbBusy := true, mbCmd := [BitVec.ofNat 64 (2 + cls * 2 ^ 40 + reg * 2 ^ 48 + lane * 2 ^ 56), BitVec.ofNat 64 v, 0, 0, 0, 0, 0, 0] } }
    (([(0, 1), (56, 1), (55, 1)] : List (Nat × Nat)).all fun x =>
      let s := two x.1
      let u := us s
      ((u.residents 0).map UnitSt.ref).eraseDups.length == 2 && ((u.candidates (u.residents 0)).length == 2) &&
        (u.residents 0).all (fun y => u.unit? y.ref == some y && u.prio y ≤ 7) && nextIs (exec (.partitionCycle 0) s) fun t => t.issuer.isSome) &&
    (([(0, 7, 95, 0), (0, 7, 96, 2), (1, 127, 0, 0), (1, 128, 0, 2), (2, 63, 95, 0), (3, 15, 0, 0), (3, 16, 0, 2), (4, 15, 0, 0), (5, 3, 0, 0), (5, 4, 0, 2),
        (6, 0, 0, 2)] : List (Nat × Nat × Nat × Nat)).all fun x =>
      (box x.1 x.2.1 x.2.2.1 0).mbCrew.isSome && nextIs (exec .mbWriteRegister (box x.1 x.2.1 x.2.2.1 0)) fun t => t.dbg.mbResult == BitVec.ofNat 8 x.2.2.2) =
    true := by decide +kernel

/-! ### The host and the registers -/

/-- PlatformEvents: writes of the host to memory and to a trigger counter, of a size that changes nothing; registers of each access code at
their offsets, and commands. -/
theorem test_meets_registers :
    let s := State.reset
    let all := 0xFFFFFFFFFFFFFFFF#64
    let at_ (o : Nat) (g : Reg) (v r : DWord) : Bool := regAt o == some g && nextIs (exec (.registerWrite o v) s) fun t => t.regRead g == r
    let counters : State := { s with plat := { s.plat with apwin := BitVec.ofNat 14 0xC00 } }
    (targetOf (0xC00 * 2 ^ 30) == .trigger && nextIs (exec (.bar2Access 0x10 4 (some [1, 0, 0, 0])) counters) (fun t => tget 0 t.ctrs 1 == 1) &&
      nextIs (exec (.bar2Access 0x10 2 (some [1, 0])) counters) (fun t => t.ctrs.isEmpty) && s.backed (s.ownPa 0) &&
      at_ 0x10 .unitcnt all (s.regRead .unitcnt) && at_ 0x10800 (.ring .fault 0) all 0xFFFFFFFFFFFFF000 && at_ 0x107F0 (.asctx 63 2) all 0x9F9F0000 &&
      at_ 0x110010 (.abp 0 0) all 0xBFFFFFFFFFFFFFFC && at_ 0x1901E8 (.watch 15 1) all 0xC0FFFFFFFFFFFFFF &&
      at_ 0x21FE8 (.queue 127 1) all 0x8000000000003F1F && at_ 0x110000 (.dbgCtl 0) (all &&& ~~~0xE004000000000000) 0x1FF8000000000000 &&
      nextIs (exec (.registerWrite 0x10890 2) { s with xlat := { s.xlat with badCmd := true } }) (fun t => t.regRead .replayStat == 0) &&
      regAt 0x31090 == some .drainCmd && nextIs (exec (.registerWrite 0x31090 0x8000000000000000) s) fun _ => true) = true := by decide +kernel

end Sys2Proof.Tests
end

