-- ==== Sys2Proof/Tests/Memory.lean ====
section
/-! SUPPORT. Witnesses: concrete states and operands that meet the hypotheses of the statements about memory and engine instructions. -/

set_option Elab.async false

namespace Sys2Proof.Tests

open Sys2Proof Sys2Proof.Machine Sys2Proof.Safety

/-! ### Accesses that pass every check -/

/-- The checks of `Passes`, computed. -/
def passesB (s : State) (c : Ctx) : Bool :=
  (c.memMismatch c.memReq).isNone && (c.prechecks (c.accs.map fun a => (c.memReq, a))).isNone && !(c.misuse c.memReq c.accs) &&
  (c.watched (s.issued c) (c.accs.map fun a => (c.memReq, a))).isNone &&
  (c.missing (memBase s c) (c.accs.map fun a => (c.memReq, a))).isEmpty &&
  c.accs.all fun a => match c.reach (memStart s c) c.memReq a with
    | .ok _ _ => true
    | _ => false

theorem passes_of_b {s : State} {c : Ctx} (h : passesB s c = true) : Passes s c := by
  simp only [passesB, Bool.and_eq_true, Option.isNone_iff_eq_none, Bool.not_eq_true', List.isEmpty_iff, List.all_eq_true] at h
  obtain ⟨⟨⟨⟨⟨h1, h2⟩, h3⟩, h4⟩, h5⟩, h6⟩ := h
  refine ⟨⟨h1, h2, h3, h4⟩, h5, fun a ha => ?_⟩
  have := h6 a ha
  split at this
  · exact ⟨_, _, by assumption⟩
  · cases this

/-- Each memory instruction, at a scratchpad address; the ordered ones in global memory, on a page that the core's TLB holds. -/
def scratchpadCases : List (State × Instr × (Ctx → Bool)) :=
  let sp (c : Crew) : Crew := sregs [(9, 0xFFFF0000), (20, 7)] (vregs [(9, fun _ => 0xFFFF0000), (8, fun l => BitVec.ofNat 32 (16 * (l / 3)))] c)
  let gl (i : Instr) : State × Instr × (Ctx → Bool) :=
    let x := on i (vregs [(8, fun l => BitVec.ofNat 32 (16 * (l / 3)))]) yes
    ({ x.1 with caches := { x.1.caches with tlb := [⟨0, 0, 0, 0, 0, 0, false, true, false⟩] } }, i, x.2.2)
  let o : MemOp := mop 16 4 0 4 none
  let a : MemOp := mop 16 4 8 4 (ext 24 32 0 0 0)
  let b : MemOp := mop 16 4 16 6 (ext 0 0 0 0 0)
  [on (.ldVV o) sp yes, on (.ldVS o) sp yes, on (.ldSS o) sp yes, on (.stVV o) sp yes, on (.stVS o) sp yes, on (.stSS o) sp yes,
   on (.atomVV { a with ext := ext 0 0 0 0 0 }) sp yes, on (.atomVS b) sp yes, on (.atomSS b) sp yes,
   on (.atomrVV { a with ext := ext 24 0 6 0 0 }) sp yes, on (.atomrVS { a with ext := ext 24 0 1 0 0 }) sp yes,
   on (.atomrSS { a with ext := ext 24 0 2 0 0 }) sp yes, on (.casVV a) sp yes, on (.casVS a) sp yes, on (.casSS a) sp yes,
   gl (.oatomVV { a with ext := ext 0 0 0 0 0 }), gl (.oatomVS { a with ext := ext 0 0 0 0 0 }), gl (.ldVV o), gl (.stVV o), gl (.casVV a)]

/-- MemoryInstructions: each form, ready, with every access passing. -/
theorem test_meets_MemoryInstructions : ∀ x ∈ scratchpadCases, ∃ c, Ready x.1 x.2.1 c ∧ Passes x.1 c := fun x hx =>
  (ready_of_goes (p := passesB x.1)
    (List.all_eq_true.1 (by decide +kernel : (scratchpadCases.all fun x => goes x.1 x.2.1 (passesB x.1)) = true) x hx)).imp
    fun _ h => ⟨h.1, passes_of_b h.2⟩

/-- MemoryInstructions: a page that no TLB knows; a page that may not be written, and one of the trigger counters, once it is known. -/
theorem test_meets_late_failures : Met (
    let gl (i : Instr) (tlb : List TlbEntry) (p : State → Ctx → Bool) : State × Instr × (Ctx → Bool) :=
      let x := on i (vregs [(8, fun l => BitVec.ofNat 32 (16 * (l / 3)))]) yes
      let s : State := { x.1 with caches := { x.1.caches with tlb := tlb } }
      (s, i, fun c => (c.memMismatch c.memReq).isNone && (c.prechecks (c.accs.map fun a => (c.memReq, a))).isNone && !(c.misuse c.memReq c.accs) &&
        (c.watched (s.issued c) (c.accs.map fun a => (c.memReq, a))).isNone && p s c)
    let o : MemOp := mop 16 4 0 4 none
    let page (frame mt : Nat) (w : Bool) : TlbEntry := ⟨0, 0, 0, 0, frame, mt, false, w, false⟩
    let fails (p : Reach → Bool) (s : State) (c : Ctx) : Bool := (unknown s c).isEmpty && c.accs.any fun a => p (c.reach (memStart s c) c.memReq a)
    [gl (.ldVV o) [] (fun s c => unknown s c == [0]),
     gl (.stVV o) [page 0 0 false] (fails fun | .page va cause => va == 0 && cause == 2 | _ => false),
     gl (.casVV { o with ext := ext 24 32 0 0 0 }) [page 0x030000000000 2 true] (fails fun | .fault order kind => order == 9 && kind == 8 | _ => false),
     gl (.stVV o) [page 0x030000000000 0 true] (fails fun | .fault order kind => order == 7 && kind == 7 | _ => false)]) := meets (by decide +kernel)

/-- Scratchpad and GlobalAccesses: accesses of the kinds that their clauses name, at the ends of a line and of a base pass. -/
theorem test_meets_accesses :
    let i := Instr.ldVV (mop 16 4 0 4 none)
    let s := (on i id yes).1
    let r (k : MemKind) : Req := ⟨k, 4, 0, false, true⟩
    let found (k : MemKind) (addr : Nat) (lanes : List Nat) (locs : List Loc) : Found := ⟨r k, ⟨lanes, addr⟩, locs, locs.map fun _ => 0⟩
    let sp (off n : Nat) : List Loc := (List.range n).map fun j => .sp 0x1000 0 0 (off + j)
    let c : Ctx := s.ctxOf i ⟨crew0, 0⟩ (.crew ((s.crews.head?).getD (Crew.start probeRec 0 0 0 ⟨0, 0, 0, 0⟩ 0)))
    let n := (c.spForm (r .ld)).size 4
    let xs := [found .ld 0xFFFF000000000000 [0, 1, 2] (sp 0 n), found .ld 0xFFFF000000000080 [93, 94, 95] (sp 128 n)]
    let g := found .st 0x3C [0] ((List.range 8).map fun j => .mem (0x3C + j))
    ((xs.all fun x => x.a.lanes.all (· < 96) && decide (x.locs = (List.range n).map fun j => .sp 0x1000 0 0 (x.a.addr % 2 ^ 48 + j)) && x.a.lanes.Nodup) &&
     (c.loadPasses s xs).flight.loads.length == 1 + 1 && (c.storePasses s (xs.map fun x => (x, List.replicate n 7))).flight.stores.length == 2 &&
     aperture g.a.addr == .global && (g.locs.all fun | .mem pa => paPkg pa == s.pkg | _ => false) &&
     !((tget 0 s.xlat.asctx (4 * c.lr.asid + 2)).getLsbD 31) && (splitLines (((List.range 8).map (0x3C + ·)).zip (List.replicate 8 (1 : Byte)))).length == 2 &&
     aperture 0xFFFE000000000000 == .priv && ((atomAll c s [found .atom 0x40 [0] [.mem 0x40, .mem 0x41, .mem 0x42, .mem 0x43]]).flight.atomics.length == 1) &&
     ((s.atomAt (.mem 0x40) ⟨7, 4, 5, 1, 2⟩).1 == 0)) = true := by decide +kernel

/-- A list of bases by lane for V8:V9. -/
def bases (f : Nat → Nat) (c : Crew) : Crew :=
  vregs [(8, fun l => BitVec.ofNat 32 (f (l / 3))), (9, fun l => BitVec.ofNat 32 (f (l / 3) / 2 ^ 32))] c

/-- AddressChecks, its first part: sums and addresses at the ends of each clause's range. -/
theorem test_meets_addresses : Met (
    ([(2 ^ 64 - 1, 1), (2 ^ 64 - 8, -8), (0, -1)] : List (Nat × Int)).map (fun x =>
      on (.ldVV (mop 16 4 (BitVec.ofInt 24 x.2) 4 none)) (bases fun _ => x.1) fun c =>
        c.accs.all fun a => decide (a.sum < 0 ∨ 2 ^ 64 ≤ a.sum) == decide (x.1 ≠ 2 ^ 64 - 8)) ++
    ([2 ^ 56, 0xFFFDFFFFFFFFFFFC, 0xFFFE000000000000, 0xFFFEFFFFFFFFFFFC, 0xFFFF000000000000, 2 ^ 56 - 4, 2 ^ 56 - 1, 0] : List Nat).map fun x =>
      on (.ldVV (mop 16 4 0 4 none)) (bases fun _ => x) fun c => c.accs.all fun a => a.addr == x) := meets (by decide +kernel)

/-- AddressChecks, its second part: the first access that fails the earliest check, with each kind of failure. -/
theorem test_meets_failures : Met (
    ([(2 ^ 64 - 1, 2), (2 ^ 56, 1), (0xFFFF000000000001, 3), (0xFFFF0000000FFFFC, 4), (2 ^ 56 - 4, 5)] : List (Nat × Nat)).map (fun x =>
      on (.ldVV (mop 16 4 (if x.2 = 2 then 1 else 0) (if x.2 = 5 then 8 else 4) none)) (bases fun t => if t = 0 then 0xFFFF000000000000 else x.1) fun c =>
        (c.memMismatch c.memReq).isNone &&
        match c.prechecks (c.accs.map fun a => (c.memReq, a)) with
        | some (_, a, .kind _, _) => a.lanes == [3, 4, 5]
        | _ => false) ++
    [on (.stVV (mop 16 4 0 4 none)) (bases fun _ => 0xFFFE000000000000) fun c => (c.memMismatch c.memReq).isNone &&
        match c.prechecks (c.accs.map fun a => (c.memReq, a)) with
        | some (_, _, .stack 0, m) => m == 0x3F
        | _ => false]) := meets (by decide +kernel)

/-- AddressChecks, its third part: a deterministic launch; an address in global memory, and one qualified at gang scope. -/
theorem test_meets_misuse : Met (([(.atomVV (mop 16 4 0 4 (ext 0 0 0 0 0)), 0), (.atomrVS (mop 16 4 0 4 (ext 24 0 0 0 0)), 0),
      (.casSS (mop 16 4 0 4 (ext 24 32 0 0 0)), 0), (.casVV (mop 16 4 0 4 (ext 24 32 0 3 2)), 0xFFFF000000000000)] : List (Instr × Nat)).map fun x =>
    let y := on x.1 (fun c => sregs [(9, 0)] (bases (fun _ => x.2) c)) yes
    (relaunch (fun r => { r with shape := 0x20001 }) y.1, x.1, fun c => c.lr.determ && (c.memMismatch c.memReq).isNone &&
      (c.prechecks (c.accs.map fun a => (c.memReq, a))).isNone &&
      ((c.accs.any fun a => decide (a.addr < 2 ^ 56)) || (c.mext.ord != 0 && decide (2 ≤ c.mext.scope.toNat))))) := meets (by decide +kernel)

/-- Bytes placed in the probe's scratchpad. -/
def placed (off : Nat) (bs : List Byte) (x : State × Instr × (Ctx → Bool)) : State × Instr × (Ctx → Bool) :=
  ({ x.1 with wgs := x.1.wgs.map fun w => { w with sp := putBytes w.sp off bs } }, x.2)

/-- A sweep record: F0 + A, two elements, at scratchpad addresses 0, 0x100 and 0x200. -/
def sweepRecord (op : Nat) : List Byte :=
  leBytes 8 op ++ leBytes 8 0 ++ leBytes 8 0xFFFF000000000000 ++ leBytes 8 0xFFFF000000000100 ++ leBytes 8 0xFFFF000000000200 ++
  leBytes 4 2 ++ leBytes 4 1 ++ leBytes 4 1 ++ List.replicate 28 0

/-- PrefetchesAndSweeps: prefetches in every aperture; a record that is not run; a step with every access passing, and the last. -/
theorem test_meets_PrefetchesAndSweeps : Met (
    ([0, 2 ^ 56, 0xFFFE000000000000, 0xFFFF000000000000, 2 ^ 64 - 1] : List Nat).map (fun x =>
      on (.prfV (mop 0 4 1 0 none)) (bases fun _ => x) fun c => (c.memMismatch c.memReq).isNone) ++
    [on (.prfS (mop 0 4 0 0 none)) (sregs [(9, 0xFFFF0000)]) yes,
     placed 64 (leBytes 8 6) (on (.vti (op 8 4 0 0 8 0)) (sregs [(4, 64)]) fun c => c.slot.sweep.isNone && match c.spRecord (c.s32 0).toNat 16 80 with
       | .ok _ => sweepStatus (leBytes 8 6 ++ List.replicate 72 0) == some 2
       | .error _ => false),
     placed 64 (sweepRecord 0) (on (.vti (op 8 4 0 0 8 0)) (sregs [(4, 64)]) fun c => c.slot.sweep.isNone && sweepStatus (sweepRecord 0) == none),
     on (.vti (op 8 4 0 0 8 0)) (fun c => { c with slot0 := { c.slot0 with mask := 0 } }) (fun c => c.slot.sweep.isNone && c.threads.isEmpty)] ++
    ([0, 1] : List Nat).flatMap fun n => ([0, 5] : List Nat).map fun k =>
      let s0 := onSingle (.vti (op 8 4 0 0 8 0)) (fun c => { c with slot0 := { c.slot0 with mask := 1, sweep := some ⟨⟨0, [], false⟩, n, sweepRecord k, 1, 0, (4, 4, 4)⟩ } }) yes
      (s0.1, s0.2.1, fun c => match c.slot.sweep with
        | some sw =>
          let ql : Req := ⟨.ld, sweepSzf 8, 0, false, true⟩
          let xs := [(ql, (⟨[0], sweepAddr sw.record 16 52 4 sw.step⟩ : Acc)), (⟨.st, sweepSzf 8, 0, false, true⟩, ⟨[0], sweepAddr sw.record 32 68 4 sw.step⟩)] ++
            (if sweepB k then [(ql, ⟨[0], sweepAddr sw.record 24 60 4 sw.step⟩)] else [])
          c.slot.unfinished.isNone && sw.strides.1 != 0 && (c.prechecks xs).isNone && (c.watched s0.1 xs).isNone && (c.missing s0.1 xs).isEmpty &&
          xs.all fun x => match c.reach s0.1 x.1 x.2 with
            | .ok _ _ => true
            | _ => false
        | none => false)) := meets (by decide +kernel)

/-- Copies: a record out of place, misaligned and in place, with and without a handle; the other three in place. -/
theorem test_meets_Copies : Met (
    [on (.cpy (op 0 8 0 0 0 0)) (sregs [(8, 262144 - 63)]) (fun c => match c.spRecord (c.s32 0).toNat 64 64 with
       | .error k => k == 3
       | .ok _ => false),
     on (.cpy (op 0 8 0 0 0 0)) (sregs [(8, 262144)]) (fun c => match c.spRecord (c.s32 0).toNat 64 64 with
       | .error k => k == 4
       | .ok _ => false)] ++
    ([.cpy (op 0 8 0 0 0 0), .cpy (op 3 8 0 0 0 1), .cpywp (op 8 8 0 0 0 0)] : List Instr).map (fun i =>
      on i (sregs [(8, 262144 - 64)]) fun c => match c.spRecord (c.s32 0).toNat 64 64 with
        | .ok _ => true
        | .error _ => false) ++
    ([.binit (op 0 8 16 0 0 0), .bwait (op 8 8 0 0 0 0)] : List Instr).map fun i =>
      let x := on i (sregs [(8, 16)]) yes
      (x.1, i, fun c => (match c.spRecord (c.s32 0).toNat 16 16 with
        | .ok _ => true
        | .error _ => false) && ((x.1.issued c).watchSp 0x1000 0 0 ((List.range 16).map fun j => 16 + j) c.slot.skipWatch).isNone)) := meets (by decide +kernel)

/-- A post record: a transfer of 64 bytes at every step of counter 3. -/
def postRecord (flags : Nat) (dst : Nat) : List Byte :=
  leBytes 1 0 ++ leBytes 1 flags ++ leBytes 2 0 ++ leBytes 4 3 ++ leBytes 4 0 ++ leBytes 4 5 ++ leBytes 4 (flags % 2) ++ leBytes 4 64 ++
  leBytes 8 0x10000 ++ leBytes 8 dst ++ List.replicate 24 0

/-- The operation of that record in slot 5. -/
def post5 (asid : Nat) (st : PostState) : Post := { postOf 5 0x1000 asid (postRecord 0 0x20000) with state := st }

/-- PostedOperations: good and bad records; slot numbers at the ends of their range; a free slot, another address space's and each state. -/
theorem test_meets_PostedOperations : Met (
    ([(0, 0x20000), (1, 0x20004), (8, 0x20000), (0, 0x20002)] : List (Nat × Nat)).map (fun x =>
      let y := placed 64 (postRecord x.1 x.2) (on (.trigPost (op 8 8 0 0 0 0)) (sregs [(8, 64)]) yes)
      (y.1, y.2.1, fun c => decide ((c.spRecord (c.s32 0).toNat 64 64).toOption = some (0, 64)) &&
        ((y.1.issued c).postCode ((y.1.issued c).spBytes c.iss.unit 0 64 64)).isNone == decide (x.1 ≤ 1 ∧ x.2 ≠ 0x20002))) ++
    ([5, 16383, 16384, 4095, 4096] : List Nat).flatMap (fun n => [on (.trigCancel (op 8 8 0 0 0 0)) (sregs [(8, BitVec.ofNat 32 n)]) yes,
      on (.trigRead (op 8 8 0 0 0 0)) (sregs [(8, BitVec.ofNat 32 n)]) yes, on (.trigRead (op 8 8 0 0 0 1)) (sregs [(8, BitVec.ofNat 32 n)]) yes]) ++
    ([post5 0 .armed, post5 0 .failed, post5 0 .transferring, post5 0 (.paused [2]), post5 1 .armed] : List Post).flatMap (fun p =>
      ([.trigCancel (op 8 8 0 0 0 0), .trigRead (op 8 8 0 0 0 1)] : List Instr).map fun i =>
        let x := on i (sregs [(8, 5)]) yes
        ({ x.1 with eng := { x.1.eng with posts := [p] } }, i, fun c => (x.1.issued c).nextId == x.1.nextId)) ++
    ([0x123, 0x1000, 0x1000123, 0x10123] : List Word).map fun a =>
      let x := on (.trigAdd (op 0 8 16 0 0 8)) (sregs [(8, a), (16, 7)]) yes
      (x.1, x.2.1, fun c => (bits a.toNat 12 4 == 0 && bits a.toNat 24 8 == 0 && x.1.inDomain (bits a.toNat 16 8) &&
        bits a.toNat 16 8 == (x.1.issued c).pkg) == (a == 0x123))) := meets (by decide +kernel)

/-- A cox core with scalar registers set. -/
def cregs (l : Tab Word) (c : Cox) : Cox := { c with scal := { c.scal with s := l } }

/-- MatrixInstructions: operands in and out of range; rows in the scratchpad, in no aperture, and in global memory on a page that is known. -/
theorem test_meets_MatrixInstructions : Met (
    ([0, 1] : List Word).flatMap (fun x =>
      let f := cregs [(8, x), (16, 2), (24, x + x)]
      [onCox (.mlda (op 0 8 16 24 0 0)) f yes, onCox (.mma (op 0 8 16 0 0 0)) (cregs [(8, x), (16, 16 * x)]) yes, onCox (.mzero (op 0 8 0 0 0 0)) f yes,
       onCox (.mstat (op 8 0 0 0 0 0)) f yes]) ++
    ([(0xFFFF0000, 0), (0, 1), (0xFFFF0000, 9)] : List (Word × Word)).flatMap (fun x => [
      onCox (.mldb (op 0 8 16 24 0 4)) (cregs [(9, x.1), (8, x.2), (24, 0)]) fun c =>
        decide (lowestCode ((decide (8 ≤ (c.s32 2).toNat), 17) :: c.rowCodes (c.src 0 0).toNat (c.s32 1).toNat 256 512 2) ≠ 0) == (x.2 != 0),
      onCox (.mdrain (op 0 8 16 24 0 0)) (cregs [(17, x.1), (16, x.2)]) yes]) ++
    ([.mldb (op 0 8 16 24 0 0), .mdrain (op 0 8 16 24 0 0)] : List Instr).map fun i =>
      let x := onCox i id yes
      let s := { x.1 with caches := { x.1.caches with tlb := [⟨192, 0, 0, 0, 0, 0, false, true, false⟩] } }
      (s, i, fun c =>
        let a := if i = .mldb (op 0 8 16 24 0 0) then (c.src 0 0).toNat else (c.src 1 0).toNat
        let ps := rowPages a 0 256 512
        decide (aperture a = .global) && (c.rowCodes a 0 256 512 4).all (fun y => !y.1) &&
        ps.all fun p => (c.pageOf (s.issued c) (p.1 * 2 ^ 16)).isSome &&
          (c.pageStop (c.promote (s.issued c) (ps.map Prod.fst)) true p).isNone)) := meets (by decide +kernel)

/-- A vocabulary descriptor of one row and one token whose record lies at `record`. -/
def descriptor (record spill : Nat) : List Byte :=
  [1, 1, 0, 1] ++ leBytes 2 1 ++ leBytes 2 0 ++ leBytes 4 0 ++ leBytes 4 1 ++ leBytes 4 0 ++ leBytes 4 0 ++ leBytes 8 0 ++
  leBytes 4 0 ++ leBytes 4 0 ++ leBytes 4 0 ++ leBytes 4 0xFFFFFFFF ++ leBytes 4 record ++ leBytes 4 spill ++ leBytes 4 0 ++ leBytes 4 0 ++
  [2, 0] ++ List.replicate 62 0

/-- VocabularyInstructions: a descriptor out of place, one whose record does not fit and one that is good; a row record read by a crew and a cox core. -/
theorem test_meets_VocabularyInstructions : Met (
    [onCox (.vocabStream (op 0 8 0 0 0 0)) (cregs [(8, 262144 - 64)]) yes, onCox (.vocabStream (op 0 8 0 0 0 0)) (cregs [(8, 32)]) yes,
     placed 64 (descriptor 262144 0xFFFFFFFF) (onCox (.vocabStream (op 0 8 0 0 0 0)) (cregs [(8, 64)]) fun c =>
       let d := VDesc.of (descriptor 262144 0xFFFFFFFF)
       vocabReserved false (descriptor 262144 0xFFFFFFFF) == false && d.outOfRange false == false && d.accBad c.lr false == false &&
       decide (fitCount (recordPlaces d c.lr) < d.rows) && d.spill == 0xFFFFFFFF),
     placed 64 (descriptor 196608 0xFFFFFFFF) (onCox (.vocabStream (op 0 8 0 0 0 0)) (cregs [(8, 64)]) fun c =>
       let d := VDesc.of (descriptor 196608 0xFFFFFFFF)
       vocabReserved false (descriptor 196608 0xFFFFFFFF) == false && d.outOfRange false == false && d.accBad c.lr false == false &&
       d.spBad c.lr false == false && decide (fitCount (recordPlaces d c.lr) = d.rows)),
     onCox (.vocabRegen (op 0 8 0 0 0 0)) (cregs [(8, 64)]) yes, on (.vmeld (op 0 8 16 24 0 8)) id yes] ++
    ([onCox (.vheaprd (op 8 8 16 0 0 0)) id (fun c => c.act != 0), onCox (.vheaprd (op 8 8 16 0 0 1)) id (fun c => c.act != 0),
      on (.vheaprd (op 8 8 16 0 0 0)) (sregs [(16, 1)]) (fun c => c.act != 0), onSingle (.vheaprd (op 8 8 16 0 0 1)) id (fun c => c.act != 0)] :
      List (State × Instr × (Ctx → Bool))).map fun x =>
        let y := placed 52 [3] x
        (y.1, y.2.1, fun c => y.2.2 c && decide (((y.1.issued c).recRun c.iss.unit (wgOf c.iss.unit) (c.s32 0) 1).toOption = some (3, false, 0, 0)))) :=
  meets (by decide +kernel)

/-- Copies, PostedOperations and VocabularyInstructions: a record with a line that fails its check; CPY at a full channel; TRIG.POST
behind a store that is out. MatrixInstructions: rows on a page that no TLB knows, one that does not translate, one
that may not be written, and one of trigger counters. -/
theorem test_meets_engine_waits : Met (
    let bad (x : State × Instr × (Ctx → Bool)) : State × Instr × (Ctx → Bool) :=
      let s : State := { x.1 with wgs := x.1.wgs.map fun w => { w with spBad := [(1, 1)] } }
      (s, x.2.1, fun c => x.2.2 c && ((s.issued c).badLine (spLocs c.iss.unit 0 64 16)).isSome)
    let at64 : Crew → Crew := sregs [(8, 64)]
    let q : CopyReq := ⟨0, 0, 0, crew0, none, 1, [], [], 0, 0, 0, 0, 0, 0, none, [], false, [], [], .queued, none, false⟩
    let full (i : Instr) : State × Instr × (Ctx → Bool) :=
      let x := on i at64 yes
      let s : State := { x.1 with eng := { x.1.eng with copies := (List.range 16).map fun k => { q with id := k } } }
      (s, i, fun c => 16 ≤ (s.issued c).channelLoad ((s.issued c).clusterOf c.iss.unit) 0)
    let out (i : Instr) : State × Instr × (Ctx → Bool) :=
      let x := placed 64 (postRecord 0 0x20000) (on i at64 yes)
      let s : State := { x.1 with flight := { x.1.flight with stores := [⟨0, crew0, 0, [.mem 0x100], [(0x100, 7)], none, false, none, [], Rank.plain⟩] } }
      (s, i, fun c => !((s.issued c).released c.u))
    let rows (p : State → Ctx → Nat × Nat → Bool) (tlb : List TlbEntry) : State × Instr × (Ctx → Bool) :=
      let i := Instr.mdrain (op 0 8 16 24 0 0)
      let s : State := { (coxProbe i id) with caches := { (coxProbe i id).caches with tlb := tlb } }
      (s, i, fun c => (c.rowCodes 0 0 64 3072 4).all (fun y => !y.1) && (rowPages 0 0 64 3072).all fun x => p s c x)
    let stops (k : Option Nat) (s : State) (c : Ctx) (x : Nat × Nat) : Bool := c.pageStop (c.promote (s.issued c) [x.1]) true x == some (x, k)
    let page (frame mt : Nat) (w : Bool) : TlbEntry := ⟨192, 0, 0, 0, frame, mt, false, w, false⟩
    [bad (on (.cpy (op 0 8 0 0 0 0)) at64 yes), bad (on (.cpywp (op 8 8 0 0 0 0)) at64 yes), bad (on (.bwait (op 8 8 0 0 0 0)) at64 yes),
     bad (on (.trigPost (op 8 8 0 0 0 0)) at64 yes), bad (onCox (.vocabStream (op 0 8 0 0 0 0)) (cregs [(8, 64)]) yes),
     bad (on (.vheaprd (op 8 8 16 0 0 0)) at64 (fun c => c.act != 0)), full (.cpy (op 0 8 0 0 0 1)), full (.cpy (op 3 8 0 0 0 1)),
     out (.trigPost (op 8 8 0 0 0 0)),
     rows (fun s c x => (c.pageOf (s.issued c) (x.1 * 2 ^ 16)).isNone) [], rows (stops (some 2)) [page 0 0 false],
     rows (stops none) [page 0x030000000000 2 true]]) := meets (by decide +kernel)

/-- The issuer has issued `i`, waits for `w`, and its context meets `p`. -/
def isWaiting (s : State) (i : Instr) (w : Wait) (p : Ctx → Bool) : Bool :=
  s.issuer.any fun iss => (s.unit? iss.unit).any fun u => let c := s.ctxOf i iss u; c.slot.pendingOn == some w && p c

theorem waits_of {s : State} {i : Instr} {w : Wait} {p : Ctx → Bool} (h : isWaiting s i w p = true) : ∃ c, Waits s i c w ∧ p c = true := by
  obtain ⟨iss, hi, h⟩ := (Option.any_eq_true ..).1 h
  obtain ⟨u, hu, h⟩ := (Option.any_eq_true ..).1 h
  simp only [Bool.and_eq_true, beq_iff_eq] at h
  exact ⟨s.ctxOf i iss u, ⟨hi, hu, rfl, h.1⟩, h.2⟩

/-- The probe crew at `i`, which it has issued and which waits for `w`. -/
def waiting (i : Instr) (w : Wait) : State :=
  (on i (fun c => { c with slot0 := { c.slot0 with counted := true, st := .blocked w } }) yes).1

/-- Copies and PostedOperations: an issued CPY whose channel is full and has room again, an issued TRIG.POST behind a store that is out and
behind none. -/
theorem test_meets_waiting_again :
    let cpy := waiting (.cpy (op 3 8 0 0 0 1)) (.channel 0 0)
    let post := waiting (.trigPost (op 8 8 0 0 0 0)) (.posting 0 64)
    let q : CopyReq := ⟨0, 0, 0, crew0, none, 1, [], [], 0, 0, 0, 0, 0, 0, none, [], false, [], [], .queued, none, false⟩
    let out : StoreOp := ⟨0, crew0, 0, [.mem 0x100], [(0x100, 7)], none, false, none, [], Rank.plain⟩
    ∀ x ∈ ([(cpy, .cpy (op 3 8 0 0 0 1), .channel 0 0, true),
        ({ cpy with eng := { cpy.eng with copies := (List.range 16).map fun k => { q with id := k } } }, .cpy (op 3 8 0 0 0 1), .channel 0 0, false),
        (post, .trigPost (op 8 8 0 0 0 0), .posting 0 64, true),
        ({ post with flight := { post.flight with stores := [out] } }, .trigPost (op 8 8 0 0 0 0), .posting 0 64, false)] :
        List (State × Instr × Wait × Bool)), ∃ c, Waits x.1 x.2.1 c x.2.2.1 ∧ (x.1.waitOver c.u c.slot x.2.2.1 == x.2.2.2) = true := by
  intro cpy post q out x hx
  refine waits_of (p := fun c => x.1.waitOver c.u c.slot x.2.2.1 == x.2.2.2) ?_
  revert x
  decide +kernel

/-- RegisterFrame: an instruction of its kind that completes with the issuer there and in no handler. -/
theorem test_meets_RegisterFrame : ∀ i ∈ [Instr.sadd (op 8 8 16 0 0 0), .vadd (op 8 2 4 0 1 0), .vfdiv (op 8 2 4 0 8 0), .vshfl (op 8 2 4 0 1 0)],
    (registerOnly i && goes (on i id yes).1 i (fun c => c.slot.unfinished.isNone) && after (on i id yes).1 fun t => match t.unit? crew0 with
      | some (.crew y) => !y.scal.trap.inh
      | _ => false) = true := by decide +kernel

end Sys2Proof.Tests
end

