-- ==== Sys2Proof/Tests/Results.lean ====
section
/-! SUPPORT. Witnesses: concrete states that meet the hypotheses of the statements about what copies, matrix operations and vocabulary operations compute. -/

set_option Elab.async false

namespace Sys2Proof.Tests

open Sys2Proof Sys2Proof.Machine Sys2Proof.Safety

/-! ### Copies -/

/-- A job of four single bytes from one scratchpad offset to another. -/
def job4 : CopyJob := { copyJobOf (leBytes 8 0xFFFF000000001000 ++ leBytes 8 0xFFFF000000002000 ++ leBytes 48 0)
  (leBytes 8 1 ++ leBytes 4 4 ++ leBytes 4 1 ++ leBytes 4 1 ++ leBytes 4 1 ++ leBytes 40 0) [] with total := 4 }

/-- The bytes of its source and its destination. -/
def spBytes4 (off : Nat) : List Loc := (List.range 4).map fun k => .sp 0x1000 0 0 (off + k)

/-- A request that runs job `j`, with bytes of value 1 to 4 at its source. -/
def running (j : CopyJob) : State :=
  let s := withCopy (copy1 .running (some j))
  { s with wgs := s.wgs.map fun w => { w with sp := putBytes w.sp 0x1000 [1, 2, 3, 4] } }

/-- CopyMoves and CopyEvents, a step from scratchpad to scratchpad that nothing stops: its source is to be read, a pass of it is served, what
has been read is delivered, and the bytes arrive. -/
theorem test_meets_CopyMoves_step :
    let pass (bs : List Byte) (off : Nat) : CopyPass := ⟨1, 4, spBytes4 off, bs⟩
    let read : CopyJob := { job4 with got := (spBytes4 0x1000).zip [1, 2, 3, 4] }
    let free (s : State) (x : Except (Nat × Nat) (List (Nat × Nat × Nat)) × State) : Bool := match x.1 with
      | .ok ps => ps.isEmpty && decide (x.2 = s)
      | .error _ => false
    let moves (j : CopyJob) (m : CopyMove) (p : CopyJob → Bool) : Bool :=
      let s := running j
      s.headCopy 0 3 == some (copy1 .running (some j)) && s.copyMove (copy1 .running (some j)) == some m &&
        nextIs (exec (.copyStep 0 3) s) fun t => t.eng.copies.any fun q => q.job.any p
    (([job4, read].all fun j =>
      let q := copy1 .running (some j)
      let s := running j
      let dvas := (List.range 4).map fun k => q.dstAddr j k
      let svas := ((List.range 4).flatMap fun u => q.srcRuns j u).flatMap fun r => (List.range r.2).map fun k => r.1 + k
      svas == (List.range 4).map (fun k => 0xFFFF000000001000 + k) && dvas == (List.range 4).map (fun k => 0xFFFF000000002000 + k) &&
        (s.copyWatch q dvas).isNone && free s (s.copyPages q false svas) && free s (s.copyPages q true dvas) &&
        (svas ++ dvas).all (fun va => !(s.copyBad (s.copyLoc q [] va) 0) && (s.copyPort q (s.copyLoc q [] va)).isSome) &&
        !((s.lrec q.unit.ident).determ) && !q.isDw && !q.upset && !(s.panelWaits q) && !(s.gangStopping q.unit)) &&
     moves job4 .step (fun j => j.reads == [{ pass [] 0x1000 with id := 2 }] && j.stepBytes == 0) &&
     moves { job4 with reads := [pass [] 0x1000] } (.read (pass [] 0x1000)) (fun j => j == read) &&
     moves read .step (fun j => j.writes == [{ pass [1, 2, 3, 4] 0x2000 with id := 2 }] && j.stepBytes == 4) &&
     (let last : CopyJob := { job4 with stepBytes := 4, writes := [pass [1, 2, 3, 4] 0x2000] }
      moves last (.write (pass [1, 2, 3, 4] 0x2000)) (fun j => j.wp == 4 && j.stepBytes == 0) &&
      nextIs (exec (.copyStep 0 3) (running last)) fun t => (t.wg? 0x1000 0 0).any fun w => getBytes w.sp 0x2000 4 == [1, 2, 3, 4])) = true := by
  decide +kernel

/-- CopyMoves: words of one bank fall into passes of their own. -/
theorem test_meets_copyPasses :
    ((running job4).copyPasses (copy1 .running none) true ([0, 1, 128, 4].map fun k => (.sp 0x1000 0 0 k, BitVec.ofNat 8 k))).1 =
      [⟨2, 4, [.sp 0x1000 0 0 0, .sp 0x1000 0 0 1, .sp 0x1000 0 0 4], [0, 1, 4]⟩, ⟨3, 4, [.sp 0x1000 0 0 128], [128]⟩] := by decide +kernel

/-- CopyMoves, the writes of a pass: the bytes of a workgroup that is there, each once. -/
theorem test_meets_wrLocs : (spBytes4 8).Nodup ∧ ((running job4).wg? 0x1000 0 0).any (fun w => twf 0 w.sp) = true ∧
    (((running job4).wrLocs (spBytes4 8) [1, 2, 3, 4]).wg? 0x1000 0 0).any (fun w => getBytes w.sp 7 6 == [0, 1, 2, 3, 4, 0]) = true := by
  decide +kernel

/-- CopyMoves, deliveries: to memory, reduced at once, sent as ordered updates, to other packages and reduced there. -/
theorem test_meets_CopyMoves_deliveries :
    let q := copy1 .running (some job4)
    let s := withCopy q
    let det := relaunch (fun r => { r with shape := 0x20001 }) s
    let dst (base : Nat) : List (Nat × Loc) := (List.range 4).map fun k => (0, .mem (base + k))
    let red : CopyJob := { job4 with redop := 1 }
    let far : CopyJob := { job4 with rmask := 2, pstride := 1 }
    let sent (t : State) : List (Nat × Payload) := t.fab.out.map fun o => (o.dst, o.pkt.payload)
    let a : RemoteAtomic := ⟨0, 4, 0x04030201, 0, 0⟩
    (paPkg 0x100 == s.pkg && Memory.wf s.mem && (s.lrec q.unit.ident).ident == 0x1000 && !((s.lrec q.unit.ident).determ) &&
      (det.lrec q.unit.ident).determ && q.vocab.isNone && reduceBytes 1 == 4 && far.ranks == [1] && s.pkg == 0 &&
      ((dst 0x100).map Prod.snd).eraseDups.length == 4 &&
      (s.deliver q job4 (dst 0x100) [1, 2, 3, 4]).2.rdMem 0x100 4 == [1, 2, 3, 4] &&
      (s.deliver q red (dst 0x100) [1, 2, 3, 4]).2.rdMem 0x100 4 == [1, 2, 3, 4] &&
      ((det.deliver q red (dst 0x100) [1, 2, 3, 4]).2.flight.updates.map OUpdate.operand) == [0x04030201] &&
      sent (s.deliver q far (dst 0x100) [1, 2, 3, 4]).2 == [(1, .write 0x100 [1, 2, 3, 4])] &&
      sent (s.deliver q red (dst (2 ^ 44 + 0x100)) [1, 2, 3, 4]).2 == [(1, .atomic 0x100 a)] &&
      (let t := (det.deliver q red (dst (2 ^ 44 + 0x100)) [1, 2, 3, 4]).2
       sent t == [(1, .ordered 0x100 a 0 0 0 0 0)] && (t.flight.updates.map OUpdate.remote) == [true])) = true := by decide +kernel

/-- CopyMoves, elements: a format pair, a container of its own format. -/
theorem test_meets_CopyMoves_elements :
    let q := copy1 .running (some job4)
    let j : CopyJob := { job4 with sfmt := 1, dfmt := 3 }
    (j.sfmt != j.dfmt && !(isNfCode j.dfmt) && isNfCode 8 && j.ext 0 == 4 && q.srcRuns j 2 == [(0xFFFF000000001004, 2)] &&
      q.unitOf false j 0 [0x80, 0x3F] == [0, 0, 0x80, 0x3F]) = true := by decide +kernel

/-! ### Matrix operations -/

/-- The probe cox core's matrix queue holds one operation. -/
def queued (k : MatKind) : State :=
  idle fun s => { s with eng := { s.eng with mats := [⟨0, 0, [], [], [], 0, 0, [⟨1, cox0, 0, [], 0, false, k⟩], [], 0, [], []⟩] } }

/-- A state that holds no line with a bad check value. -/
def allGood (s : State) : Bool := s.checks.isEmpty && s.wgs.all fun w => w.spBad.isEmpty && w.accBad.isEmpty

/-- No location of such a state fails its check. -/
theorem badLine_of_allGood {s : State} (h : allGood s = true) (ls : List Loc) : s.badLine ls = none := by
  simp only [allGood, Bool.and_eq_true, List.isEmpty_iff, List.all_eq_true] at h
  have wg {i g w x} (hx : s.wg? i g w = some x) : x.spBad = [] ∧ x.accBad = [] := h.2 x (List.mem_of_find?_eq_some hx)
  simp only [State.badLine, List.findSome?_eq_none_iff]
  intro l _
  cases l with
  | mem pa => simp [State.lineBad, h.1, tget]
  | sp i g w off => match hx : s.wg? i g w with
    | none => simp [hx]
    | some x => simp [hx, (wg hx).1, tget]
  | acc i g w off => match hx : s.wg? i g w with
    | none => simp [hx]
    | some x => simp [hx, (wg hx).2, tget]
  | ctr _ => rfl

/-- MatrixResults: each kind of operation at the head of the queue, its sources good; and rows with a line that fails its check. -/
theorem test_meets_MatrixResults :
    let b := MatKind.mldb 3 0xFFFF000000000000 512 true []
    let ks : List MatKind := [b, .mlda 1 0 512, .mma 0 0 1 0 0xB, .mzero 0, .mdrain 0 0xFFFF000000000000 512 3 []]
    let fails : State := { queued b with wgs := (queued b).wgs.map fun w => { w with spBad := [(0, 1)] } }
    (∀ k ls, (queued k).badLine ls = none) ∧ fails.badLine [fails.opLoc ⟨1, cox0, 0, [], 0, false, b⟩ [] 0xFFFF000000000000] ≠ none ∧
    (ks.all fun k =>
      let s := queued k
      let m := s.matrix 0 0
      s.matReady m && twf 0 m.macros && twf 0 m.rows && (m.slotCheck 3).isNone && (m.rowsCheck 1).isNone &&
        (s.poolCheck cox0 0 true 0 (s.lrec 0x1000).tileBytes).isNone && s.fab.out.isEmpty &&
        (s.wg? 0x1000 0 0).any (fun w => twf 0 w.sp && twf 0 w.acc) &&
        (List.range 64).all fun i => (s.poolCheck cox0 0 false (i * 512) 512).isNone) = true := by
  refine ⟨fun k => badLine_of_allGood rfl, ?_, ?_⟩ <;> decide +kernel

/-- MatrixResults, MDRAIN: every byte of its rows lies in the scratchpad where the statement places it. -/
theorem test_meets_drain_rows (i k : Nat) (hi : i < 64) (hk : k < 512) :
    (queued (.mzero 0)).opLoc ⟨1, cox0, 0, [], 0, false, .mzero 0⟩ [] (0xFFFF000000000000 + i * 512 + k) = .sp 0x1000 0 0 (i * 512 + k) := by
  have ha : (0xFFFF000000000000 + i * 512 + k) / 2 ^ 48 = 0xFFFF := by omega
  have hb : (0xFFFF000000000000 + i * 512 + k) % 2 ^ 48 = i * 512 + k := by omega
  have hl : ((queued (.mzero 0)).lrec 0x1000).spSize = 262144 ∧ ((queued (.mzero 0)).lrec 0x1000).wgs = 1 := by decide +kernel
  have hc : (i * 512 + k) / 2 ^ 24 = 0 ∧ (i * 512 + k) % 2 ^ 24 = i * 512 + k := by omega
  simp only [State.opLoc, aperture, ha, hb, if_pos, cox0, UnitRef.ident, UnitRef.gang, spTarget, hl.1, hl.2, hc.1, hc.2]
  rw [if_pos (by simp; omega)]

/-- MatrixResults, MDRAIN to global memory: every byte of its rows lies in memory, here or in another package, each at its own place. -/
theorem test_meets_drain_memory (frame i k : Nat) (hi : i < 64) (hk : k < 512) :
    (queued (.mzero 0)).opLoc ⟨1, cox0, 0, [], 0, false, .mzero 0⟩ [(1, frame)] (0x10000 + i * 512 + k) = .mem (frame + (i * 512 + k)) := by
  have h1 : (0x10000 + i * 512 + k) / 2 ^ 16 = 1 := by omega
  have h2 : (0x10000 + i * 512 + k) % 2 ^ 16 = i * 512 + k := by omega
  have h3 : (0x10000 + i * 512 + k) / 2 ^ 48 = 0 := by omega
  have h4 : 0x10000 + i * 512 + k < 2 ^ 56 := by omega
  simp only [State.opLoc, aperture, h1, h2, h3]
  simp at h4
  simp [h4]

theorem test_meets_drain_places :
    let s := queued (.mzero 0)
    Memory.wf s.mem && paPkg (0x40000 + 32767) == s.pkg && paPkg (2 ^ 44 + 0x40000) == 1 && s.pkg == 0 &&
      !((tget 0 s.xlat.asctx (4 * (s.lrec 0x1000).asid + 2)).getLsbD 31) && !((tget 0 s.xlat.asctx (4 * (s.lrec 0x1000).asid + 2)).getLsbD 23) &&
      s.fab.out.isEmpty := by decide +kernel

/-! ### Vocabulary operations -/

/-- A streaming operation of one row and one token that has loaded its panel of one block, or waits for it. -/
def stream (block : Nat) : VocabJob := ⟨false, descriptor 196608 0xFFFFFFFF, 0, 0, block, false, true, false, [], none, 0, 0⟩

/-- The probe workgroup with the capacity of its row record set. -/
def withRecord (s : State) : State := { s with wgs := s.wgs.map fun w => { w with acc := [(196608 + 52, 1)] } }

/-- VocabularyResults: a panel that has come, a tile to commit, and a meld and a move of records that pass their checks. -/
theorem test_meets_VocabularyResults :
    let panel := queued (.vocab (stream 0))
    let tile := withRecord (queued (.vocab (stream 1)))
    let d := VDesc.of (stream 1).desc
    let lr := tile.lrec 0x1000
    (d.rows == 1 && d.tokCnt == 1 && fitCount (recordPlaces d lr) == d.rows && (tile.lrec 0x1000).planes != [] &&
      (panel.poolCheck cox0 0 false d.ring 131072).isNone &&
      (panel.tileSources (panel.matrix 0 0) ⟨1, cox0, 0, [], 0, false, .vocab (stream 0)⟩ (stream 0)).isNone &&
      (panel.wg? 0x1000 0 0).any (fun w => twf 0 w.acc) && tile.tileReady (tile.matrix 0 0) &&
      (tile.wg? 0x1000 0 0).any (fun w => twf 0 w.sp && twf 0 w.acc &&
        (RowRec.of (w.recGet (((recordPlaces d lr)[0]?).getD (true, 0)) (64 + 8 * d.k))).k == d.k) &&
      ([false, true] : List Bool).all fun move =>
        let s := queued (.meld 0x80000000 0x80000040 1 move)
        let op : MatOp := ⟨1, cox0, 0, [], 0, false, .meld 0x80000000 0x80000040 1 move⟩
        s.matReady (s.matrix 0 0) && ((s.recRun cox0 0 0x80000000 1).toOption == some (0, true, 0, 0)) &&
          ((s.recRun cox0 0 0x80000040 1).toOption == some (0, true, 0, 64)) && (s.meldSources op 0x80000000 0x80000040 1 move).isNone) =
    true := by decide +kernel

/-- A gradient operation of one row and one token whose final record lies in accumulator storage, and whose dW lies at `dw`. -/
def regen (block : Nat) (graded : Bool) (dw : Nat) : VocabJob :=
  { stream block with
    regen := true, graded := graded
    desc := (descriptor 0 0).take 80 ++ leBytes 4 0x80000000 ++ leBytes 4 0x3F800000 ++ leBytes 4 65536 ++ leBytes 2 0 ++ leBytes 2 1 ++
      leBytes 8 dw ++ leBytes 4 1024 ++ List.replicate 20 0 }

/-- VocabularyResults, VOCAB.REGEN: a tile whose panels have arrived, with its dW and without, the commit of one, and the sum a gradient
divides by; a header that has a nonzero reserved field, and two records that do not agree. -/
theorem test_meets_vocab_regen :
    (([0, 0x10000] : List Nat).all fun dw =>
      let j := regen 1 false dw
      let s := queued (.vocab j)
      let d := VDesc.of j.desc
      d.dwBase == dw && d.tiles == 1 && d.dblk == 1 && j.started && !j.waiting && s.panelRoom 0 d.chan &&
        (s.wg? 0x1000 0 0).any (fun w => twf 0 w.acc) && (s.recRun cox0 0 (BitVec.ofNat 32 d.finRec) d.rows).toOption == some (0, true, 0, 0)) &&
    (let s := queued (.vocab (regen 1 true 0))
     s.tileReady (s.matrix 0 0) && (s.wg? 0x1000 0 0).any fun w => twf 0 w.sp) &&
    f32.decode 0x3F800000 == .fin false (2 ^ 23 - 1 + 1) (-23) && recReserved (List.replicate 55 0 ++ [1]) == true &&
    (RowRec.of (List.replicate 54 0 ++ [2])).valid == true && (RowRec.of (List.replicate 54 0 ++ [2])).lo == 0 := by decide +kernel

end Sys2Proof.Tests
end

section
/-! SUPPORT. The host link, the platform and the register space: what the host reads and writes, what snoops, requests of other
packages, training, firmware and SPDM come to, and what a write of a register changes and leaves alone. -/

namespace Sys2Proof.PlatformFacts

open Sys2Proof Sys2Proof.Machine Sys2Proof.Safety Sys2Proof.Laws

/-! ### Reads of the host and of other packages -/

@[simp] theorem takeRun_mem (s : State) (l n : Nat) : (s.takeRun l n).mem = s.mem :=
  foldl_keep _ State.mem (fun _ _ => l2Take_mem _ _ _) _ _
@[simp] theorem takeRun_outputs (s : State) (l n : Nat) : (s.takeRun l n).outputs = s.outputs :=
  foldl_keep _ State.outputs (fun _ _ => l2Take_outputs _ _ _) _ _
@[simp] theorem takeRun_crews (s : State) (l n : Nat) : (s.takeRun l n).crews = s.crews :=
  foldl_keep _ State.crews (fun _ _ => l2Take_crews _ _ _) _ _

@[simp] theorem integrityRecord_some_crews (s : State) (i : Word) (src pa w : Nat) :
    (s.integrityRecord i src (some pa, w)).crews = s.crews := ringPost_crews _ _ _

@[simp] theorem reportBad_crews (s : State) (ls : List Nat) : (s.reportBad ls).crews = s.crews :=
  foldl_keep _ State.crews (fun _ _ => integrityRecord_some_crews _ _ _ _ _) _ _
theorem memoryInv_reportBad {s : State} (ls : List Nat) (h : memoryInv s) : memoryInv (s.reportBad ls) :=
  memoryInv_foldl _ (fun _ _ h => memoryInv_integrityRecord _ _ _ h) _ s h

theorem hostRead_crews (s : State) (l n : Nat) : (s.hostRead l n).crews = s.crews := by simp [State.hostRead]

/-- A read of lines that pass their checks: memory stays, and the data are the bytes at the addresses. -/
theorem hostRead_of_good {s : State} {l n : Nat} (h : s.badLines l n = []) :
    (s.hostRead l n).mem = s.mem ∧
      (s.hostRead l n).outputs = s.outputs ++ [.hostRead ((List.range n).map fun k => s.hostByte (l + k))] := by
  simp [State.hostRead, h, State.reportBad]

/-! ### Writes of the host -/

/-- What a write at the point of coherence keeps of the address map. -/
theorem l2Write_backed (s : State) (pa : Nat) (bs : List Byte) (r : Rank) (a : Nat) :
    (s.l2Write pa bs r).backed a = s.backed a := by
  have hp : (s.l2Write pa bs r).plat.pkgnum = s.plat.pkgnum ∧ (s.l2Write pa bs r).plat.unitcnt = s.plat.unitcnt := by
    simp only [State.l2Write, State.wrMem, l2Dirty_plat, l2Take_plat]
    unfold State.backInvalidate
    split <;> exact ⟨rfl, rfl⟩
  unfold State.backed State.inDomain State.pkg
  rw [l2Write_fab, hp.1, hp.2]

theorem l2Write_ownPa (s : State) (pa : Nat) (bs : List Byte) (r : Rank) (a : Nat) :
    (s.l2Write pa bs r).ownPa a = s.ownPa a := by
  have hp : (s.l2Write pa bs r).plat.pkgnum = s.plat.pkgnum := by
    simp only [State.l2Write, State.wrMem, l2Dirty_plat, l2Take_plat]
    unfold State.backInvalidate
    split <;> rfl
  simp only [State.ownPa, State.pkg, hp]

/-- The host may store a byte there: something stands there, and it is no trigger counter. -/
def Storable (s : State) (a : Nat) : Prop := s.backed a = true ∧ targetOf (paLocal a) ≠ .trigger

/-- One byte of a write of the host to memory, by its place in the data. -/
def hostPut (l : Nat) (s : State) (x : Byte × Nat) : State :=
  let a := s.ownPa (l + x.2)
  if s.backed a && targetOf (paLocal a) != .trigger then s.l2Write a [x.1] else s

theorem hostWrite_of_memory {s : State} {l : Nat} (data : List Byte) (h : targetOf (l % 2 ^ 44) ≠ .trigger) :
    s.hostWrite l data = data.zipIdx.foldl (hostPut l) s := by
  simp only [State.hostWrite, beq_iff_eq, if_neg h]
  rfl

theorem hostPut_of_storable {l : Nat} {s : State} {x : Byte × Nat} (h : Storable s (s.ownPa (l + x.2))) :
    hostPut l s x = s.l2Write (s.ownPa (l + x.2)) [x.1] := by
  simp [hostPut, h.1, h.2]

theorem hostPut_of_not_storable {l : Nat} {s : State} {x : Byte × Nat} (h : ¬ Storable s (s.ownPa (l + x.2))) :
    hostPut l s x = s :=
  if_neg (by simpa [Storable] using h)

/-- What one byte of the host keeps: crews, counters, the address map and the form of memory. -/
theorem hostPut_keeps (l : Nat) (s : State) (x : Byte × Nat) :
    (hostPut l s x).crews = s.crews ∧ (hostPut l s x).ctrs = s.ctrs ∧ (hostPut l s x).ownPa = s.ownPa ∧
      (hostPut l s x).backed = s.backed ∧ (memoryInv s → memoryInv (hostPut l s x)) := by
  by_cases h : Storable s (s.ownPa (l + x.2))
  · rw [hostPut_of_storable h]
    exact ⟨l2Write_crews _ _ _ _, l2Write_ctrs _ _ _ _, funext fun a => l2Write_ownPa _ _ _ _ a,
      funext fun a => l2Write_backed _ _ _ _ a, memoryInv_l2Write _ _ _⟩
  · rw [hostPut_of_not_storable h]
    exact ⟨rfl, rfl, rfl, rfl, id⟩

theorem hostPut_elsewhere {l : Nat} {s : State} {x : Byte × Nat} {a : Nat} (h : a ≠ s.ownPa (l + x.2)) :
    tget 0 (hostPut l s x).mem a = tget 0 s.mem a := by
  by_cases hs : Storable s (s.ownPa (l + x.2))
  · rw [hostPut_of_storable hs, l2Write_mem]
    exact tget_tset_ne _ _ (Ne.symm h)
  · rw [hostPut_of_not_storable hs]

theorem hostPut_there {l : Nat} {s : State} {x : Byte × Nat} (h : Storable s (s.ownPa (l + x.2))) (hm : memoryInv s) :
    tget 0 (hostPut l s x).mem (s.ownPa (l + x.2)) = x.1 := by
  rw [hostPut_of_storable h, l2Write_mem]
  exact tget_tset _ _ _ hm

theorem hostPuts_elsewhere (l : Nat) (data : List Byte) (a : Nat) : ∀ (s : State) (j : Nat),
    (∀ k, k < data.length → a ≠ s.ownPa (l + (j + k))) →
    tget 0 ((data.zipIdx j).foldl (hostPut l) s).mem a = tget 0 s.mem a := by
  induction data with
  | nil => exact fun _ _ _ => rfl
  | cons b r ih =>
    intro s j h
    obtain ⟨-, -, hpa, -, -⟩ := hostPut_keeps l s (b, j)
    rw [List.zipIdx_cons, List.foldl_cons, ih]
    · exact hostPut_elsewhere (h 0 (by simp))
    · intro k hk
      rw [hpa, show j + 1 + k = j + (k + 1) by omega]
      exact h (k + 1) (by simpa using hk)

/-- Addresses of a run that does not wrap around are different. -/
theorem ownPa_ne (s : State) {a b : Nat} (ha : a < 2 ^ 44) (hb : b < 2 ^ 44) (h : a ≠ b) : s.ownPa a ≠ s.ownPa b := by
  unfold State.ownPa
  omega

theorem hostPuts_there (l : Nat) (data : List Byte) : ∀ (s : State) (j : Nat), l + (j + data.length) ≤ 2 ^ 44 → memoryInv s →
    ∀ k, k < data.length → Storable s (s.ownPa (l + (j + k))) →
      tget 0 ((data.zipIdx j).foldl (hostPut l) s).mem (s.ownPa (l + (j + k))) = (data[k]?).getD 0 := by
  induction data with
  | nil => exact fun _ _ _ _ k hk => absurd hk (Nat.not_lt_zero k)
  | cons b r ih =>
    intro s j hl hm k hk hs
    obtain ⟨-, -, hpa, hbk, hinv⟩ := hostPut_keeps l s (b, j)
    simp only [List.length_cons] at hl hk
    rw [List.zipIdx_cons, List.foldl_cons]
    cases k with
    | zero =>
      rw [hostPuts_elsewhere]
      · exact hostPut_there hs hm
      · intro k hk
        rw [hpa]
        exact ownPa_ne s (by omega) (by omega) (by omega)
    | succ k =>
      have h := ih (hostPut l s (b, j)) (j + 1) (by omega) (hinv hm) k (by omega)
      rw [hpa, show j + 1 + k = j + (k + 1) by omega] at h
      exact h ⟨by rw [hbk]; exact hs.1, hs.2⟩

/-- What a write of the host at a LOCAL address leaves (R35, R397; log entry 91). -/
def HostWritten (s t : State) (l : Nat) (data : List Byte) : Prop :=
  (targetOf (l % 2 ^ 44) ≠ .trigger → t.ctrs = s.ctrs ∧
    ∀ k, k < data.length → s.backed (s.ownPa (l + k)) = true → targetOf (paLocal (s.ownPa (l + k))) ≠ .trigger → memoryInv s →
      tget 0 t.mem (s.ownPa (l + k)) = (data[k]?).getD 0) ∧
  (targetOf (l % 2 ^ 44) = .trigger → t.mem = s.mem ∧
    (l % 16 = 0 → l % 2 ^ 16 < 4096 → data.length = 4 ∨ data.length = 8 → twf 0 s.ctrs = true →
      tget 0 t.ctrs (ctrIndex (s.ownPa l)) = tget 0 s.ctrs (ctrIndex (s.ownPa l)) + BitVec.ofNat 32 (leNat (data.take 4)) ∧
      ∀ k, k ≠ ctrIndex (s.ownPa l) → tget 0 t.ctrs k = tget 0 s.ctrs k) ∧
    (¬ (l % 16 = 0 ∧ l % 2 ^ 16 < 4096 ∧ (data.length = 4 ∨ data.length = 8)) → t.ctrs = s.ctrs)) ∧
  ∀ a, (∀ k, k < data.length → a ≠ s.ownPa (l + k)) → tget 0 t.mem a = tget 0 s.mem a

/-- A write of the host at a trigger page: the raise of a counter, or nothing. -/
theorem hostWrite_of_trigger {s : State} {l : Nat} (data : List Byte) (h : targetOf (l % 2 ^ 44) = .trigger) :
    s.hostWrite l data = if l % 16 = 0 ∧ l % 2 ^ 16 < 4096 ∧ (data.length = 4 ∨ data.length = 8) then
      s.raiseCtr (ctrIndex (s.ownPa l)) (BitVec.ofNat 32 (leNat (data.take 4))) else s := by
  simp only [State.hostWrite, h, beq_self_eq_true, if_true, Bool.and_eq_true, Bool.or_eq_true, decide_eq_true_eq, and_assoc]

theorem hostWrite_written (s : State) (l : Nat) (data : List Byte) (hl : l + data.length ≤ 2 ^ 44) :
    (s.hostWrite l data).crews = s.crews ∧ HostWritten s (s.hostWrite l data) l data := by
  by_cases h : targetOf (l % 2 ^ 44) = .trigger
  · rw [hostWrite_of_trigger data h]
    split
    · rename_i hc
      refine ⟨rfl, fun hn => absurd h hn, fun _ => ⟨rfl, fun _ _ _ hw => ⟨tget_tset _ _ _ hw, fun k hk => ?_⟩,
        fun hn => absurd hc hn⟩, fun _ _ => rfl⟩
      exact tget_tset_ne _ _ (Ne.symm hk)
    · rename_i hc
      exact ⟨rfl, fun hn => absurd h hn, fun _ => ⟨rfl, fun h1 h2 h3 _ => absurd ⟨h1, h2, h3⟩ hc, fun _ => rfl⟩, fun _ _ => rfl⟩
  · rw [hostWrite_of_memory data h]
    refine ⟨foldl_keep _ State.crews (fun s x => (hostPut_keeps l s x).1) _ _,
      fun _ => ⟨foldl_keep _ State.ctrs (fun s x => (hostPut_keeps l s x).2.1) _ _, fun k hk hb ht hm => ?_⟩,
      fun hn => absurd hn h, fun a ha => hostPuts_elsewhere l data a s 0 fun k hk => by simpa using ha k hk⟩
    simpa using hostPuts_there l data s 0 (by omega) hm k hk (by simpa using ⟨hb, ht⟩)

/-! ### BAR2 and CXL.mem (R395, R397) -/

theorem execBar2Access_read {s : State} {off n : Nat} (hn : 0 < n) (hw : off + n ≤ 2 ^ 30) :
    execBar2Access off n none s = .next (s.hostRead (s.plat.apwin.toNat * 2 ^ 30 + off) n) :=
  if_neg (by simp only [Bool.or_eq_true, decide_eq_true_eq]; omega)

theorem execBar2Access_write {s : State} {off : Nat} {data : List Byte} (hn : 0 < data.length) (hw : off + data.length ≤ 2 ^ 30) :
    execBar2Access off data.length (some data) s = .next (s.hostWrite (s.plat.apwin.toNat * 2 ^ 30 + off) data) := by
  have hc : ¬ (decide (data.length = 0) || decide (2 ^ 30 < off + data.length)) = true := by
    simp only [Bool.or_eq_true, decide_eq_true_eq]; omega
  simp only [execBar2Access, if_neg hc, if_true]

@[simp] theorem hostHolds_mem (s : State) (l n : Nat) (b : Bool) : (s.hostHolds l n b).mem = s.mem := rfl
@[simp] theorem hostHolds_outputs (s : State) (l n : Nat) (b : Bool) : (s.hostHolds l n b).outputs = s.outputs := rfl
@[simp] theorem hostHolds_crews (s : State) (l n : Nat) (b : Bool) : (s.hostHolds l n b).crews = s.crews := rfl

@[simp] theorem hostHolds_ctrs (s : State) (l n : Nat) (b : Bool) : (s.hostHolds l n b).ctrs = s.ctrs := rfl
@[simp] theorem hostHolds_ownPa (s : State) (l n : Nat) (b : Bool) : (s.hostHolds l n b).ownPa = s.ownPa := rfl
@[simp] theorem hostHolds_backed (s : State) (l n : Nat) (b : Bool) : (s.hostHolds l n b).backed = s.backed := rfl

/-- What a write leaves, seen from a state with the same memory, counters and address map. -/
theorem HostWritten.congr {s u t : State} {l : Nat} {data : List Byte} (hm : u.mem = s.mem) (hc : u.ctrs = s.ctrs)
    (ho : u.ownPa = s.ownPa) (hb : u.backed = s.backed) (h : HostWritten u t l data) : HostWritten s t l data := by
  unfold HostWritten memoryInv at *
  rwa [hm, hc, ho, hb] at h

/-- The access lies in the installed tier-2 memory, and the link offers CXL.mem. -/
theorem execCxlMemAccess_read {s : State} {addr n : Nat} (hn : 0 < n) (hr : 3 ≤ s.plat.cxlRev)
    (hw : addr + n ≤ bits s.plat.unitcnt.toNat 20 12 * 2 ^ 30) :
    execCxlMemAccess addr n none s = .next ((s.hostRead (0x010000000000 + addr) n).hostHolds (0x010000000000 + addr) n true) :=
  if_neg (by simp only [Bool.or_eq_true, decide_eq_true_eq]; omega)

theorem execCxlMemAccess_write {s : State} {addr : Nat} {data : List Byte} (hn : 0 < data.length) (hr : 3 ≤ s.plat.cxlRev)
    (hw : addr + data.length ≤ bits s.plat.unitcnt.toNat 20 12 * 2 ^ 30) :
    execCxlMemAccess addr data.length (some data) s =
      .next ((s.hostHolds (0x010000000000 + addr) data.length false).hostWrite (0x010000000000 + addr) data) := by
  have hc : ¬ (decide (data.length = 0) || decide (s.plat.cxlRev < 3) ||
      decide (bits s.plat.unitcnt.toNat 20 12 * 2 ^ 30 < addr + data.length)) = true := by
    simp only [Bool.or_eq_true, decide_eq_true_eq]; omega
  simp only [execCxlMemAccess, if_neg hc, if_true]

theorem bar2Access_serves (s : State) (off n : Nat) (hn : 0 < n) (hw : off + n ≤ 2 ^ 30) :
    let l := s.plat.apwin.toNat * 2 ^ 30 + off
    (∃ t, exec (.bar2Access off n none) s = .next t ∧ t.crews = s.crews ∧
      (s.badLines l n = [] → t.mem = s.mem ∧
        t.outputs = s.outputs ++ [.hostRead ((List.range n).map fun k => s.hostByte (l + k))])) ∧
    (∀ data, data.length = n → ∃ t, exec (.bar2Access off n (some data)) s = .next t ∧ t.crews = s.crews ∧
      HostWritten s t l data) := by
  refine ⟨⟨_, execBar2Access_read hn hw, hostRead_crews _ _ _, hostRead_of_good⟩, ?_⟩
  rintro data rfl
  have hwin := s.plat.apwin.isLt
  exact ⟨_, execBar2Access_write hn hw, hostWrite_written s _ data (by omega)⟩

theorem cxlMemAccess_serves (s : State) (addr n : Nat) (hn : 0 < n) (hr : 3 ≤ s.plat.cxlRev)
    (hw : addr + n ≤ bits s.plat.unitcnt.toNat 20 12 * 2 ^ 30) :
    let l := 0x010000000000 + addr
    (∃ t, exec (.cxlMemAccess addr n none) s = .next t ∧ t.crews = s.crews ∧
      (s.badLines l n = [] → t.mem = s.mem ∧
        t.outputs = s.outputs ++ [.hostRead ((List.range n).map fun k => s.hostByte (l + k))])) ∧
    (∀ data, data.length = n → ∃ t, exec (.cxlMemAccess addr n (some data)) s = .next t ∧ t.crews = s.crews ∧
      HostWritten s t l data) := by
  refine ⟨⟨_, execCxlMemAccess_read hn hr hw,
      (hostHolds_crews _ _ _ _).trans (hostRead_crews _ _ _), fun hb => ?_⟩, ?_⟩
  · rw [hostHolds_mem, hostHolds_outputs]
    exact hostRead_of_good hb
  rintro data rfl
  have hgib : bits s.plat.unitcnt.toNat 20 12 < 2 ^ 12 := Nat.mod_lt _ (by decide)
  obtain ⟨hc, hd⟩ := hostWrite_written (s.hostHolds (0x010000000000 + addr) data.length false) (0x010000000000 + addr) data (by omega)
  exact ⟨_, execCxlMemAccess_write hn hr hw, hc.trans (hostHolds_crews _ _ _ _),
    hd.congr (hostHolds_mem ..) (hostHolds_ctrs ..) (hostHolds_ownPa ..) (hostHolds_backed ..)⟩

/-! ### Snoops of the host (R396, R413, R414; log entry 107) -/

theorem setL2_l2Find (s : State) (ls : List L2Line) (n : Nat) : (s.setL2 ls).l2Find n = ls.find? fun x => x.line == n := rfl

/-- A line given up is no longer held. -/
theorem l2Evict_l2Find (s : State) (x : L2Line) : (s.l2Evict x).l2Find x.line = none := by
  rw [State.l2Evict, setL2_l2Find]
  simp

theorem l2Drop_l2Find (s : State) (n : Nat) : (s.l2Drop n).l2Find n = none := by
  unfold State.l2Drop
  split
  · rw [setL2_l2Find]
    simp
  · assumption

theorem l2Find_line {s : State} {n : Nat} {x : L2Line} (h : s.l2Find n = some x) : x.line = n := by
  simpa using List.find?_some h

/-- The line as its slice holds it once it has been written back. -/
def cleaned (n : Nat) (y : L2Line) : L2Line := if y.line == n then { y with dirty := false, under := none } else y

theorem cleaned_line (n : Nat) (y : L2Line) : (cleaned n y).line = y.line := by
  unfold cleaned
  split <;> rfl

theorem l2Find_cleaned (s : State) (n : Nat) :
    ((s.setL2 (s.caches.l2.map (cleaned n))).l2Find n).map L2Line.dirty = (s.l2Find n).map fun _ => false := by
  rw [setL2_l2Find, List.find?_map, State.l2Find]
  simp only [Function.comp_def, cleaned_line, Option.map_map]
  refine Option.map_congr fun y hy => ?_
  have hl := List.find?_some hy
  simp only [cleaned, if_pos hl]

/-- The state in which a slice has answered a snoop: with the record of a line that fails its check and is not sent. -/
def snooped (s : State) (line : Nat) : State :=
  let pa := s.hostPa (64 * line)
  let held := (s.l2Find (pa / 64)).isSome
  let t : State := if held && s.lineBad pa then s.reportBad [pa / 64] else s
  { t with outputs := t.outputs ++ [.snoopAnswer line (if held && !(s.lineBad pa) then s.rdMem pa 64 else [])] }

/-- The state after a snoop of a line that the slice keeps, written back if it was dirty and passes its check. -/
def snoopKept (t : State) (n : Nat) (bad : Bool) : State :=
  match t.l2Find n with
  | some x => if x.dirty && !bad then t.setL2 (t.caches.l2.map (cleaned x.line)) else t
  | none => t

/-- The state in which the slice has given a snooped line up. -/
def snoopGiven (t : State) (n : Nat) (bad : Bool) : State :=
  match t.l2Find n with
  | some x => if bad then t.l2Drop n else t.l2Evict x
  | none => t

/-- What a slice that has answered does with the line. -/
def snoopEnd (t : State) (pa : Nat) (bad : Bool) (write : Option (List Byte)) : State :=
  match write, t.l2Find (pa / 64) with
  | some bs, some x => (if bad then t.l2Drop (pa / 64) else t.l2Evict x).wrMem pa (bs.take 64)
  | some bs, none => t.wrMem pa (bs.take 64)
  | none, some x => if x.dirty && !bad then t.setL2 (t.caches.l2.map (cleaned x.line)) else t
  | none, none => t

theorem snoopEnd_none (t : State) (pa : Nat) (bad : Bool) : snoopEnd t pa bad none = snoopKept t (pa / 64) bad := by
  unfold snoopEnd snoopKept
  cases t.l2Find (pa / 64) <;> rfl

theorem snoopEnd_some (t : State) (pa : Nat) (bad : Bool) (bs : List Byte) :
    snoopEnd t pa bad (some bs) = (snoopGiven t (pa / 64) bad).wrMem pa (bs.take 64) := by
  unfold snoopEnd snoopGiven
  cases t.l2Find (pa / 64) <;> rfl

theorem exec_hostSnoop_beyond {line : Nat} (s : State) (write : Option (List Byte)) (h : 2 ^ 37 ≤ line) :
    exec (.hostSnoop ⟨line, write⟩) s = .next s := if_pos h

theorem exec_hostSnoop_within {line : Nat} (s : State) (write : Option (List Byte)) (h : line < 2 ^ 37) :
    exec (.hostSnoop ⟨line, write⟩) s =
      .next (snoopEnd (snooped s line) (s.hostPa (64 * line)) (s.lineBad (s.hostPa (64 * line))) write) :=
  if_neg (Nat.not_le.2 h)

theorem exec_hostSnoop_kept {line : Nat} (s : State) (h : line < 2 ^ 37) :
    exec (.hostSnoop ⟨line, none⟩) s =
      .next (snoopKept (snooped s line) (s.hostPa (64 * line) / 64) (s.lineBad (s.hostPa (64 * line)))) := by
  rw [exec_hostSnoop_within s none h, snoopEnd_none]

theorem exec_hostSnoop_given {line : Nat} (s : State) (bs : List Byte) (h : line < 2 ^ 37) :
    exec (.hostSnoop ⟨line, some bs⟩) s =
      .next ((snoopGiven (snooped s line) (s.hostPa (64 * line) / 64) (s.lineBad (s.hostPa (64 * line)))).wrMem
        (s.hostPa (64 * line)) (bs.take 64)) := by
  rw [exec_hostSnoop_within s (some bs) h, snoopEnd_some]

theorem snoopKept_keeps (t : State) (n : Nat) (bad : Bool) :
    (snoopKept t n bad).mem = t.mem ∧ (snoopKept t n bad).outputs = t.outputs ∧ (snoopKept t n bad).crews = t.crews := by
  unfold snoopKept
  split
  · split <;> exact ⟨rfl, rfl, rfl⟩
  · exact ⟨rfl, rfl, rfl⟩

theorem snoopKept_clean (t : State) (n : Nat) :
    ((snoopKept t n false).l2Find n).map L2Line.dirty = (t.l2Find n).map fun _ => false := by
  unfold snoopKept
  split
  · rename_i x hx
    split
    · rw [l2Find_line hx]
      exact l2Find_cleaned t n
    · rename_i hd
      simpa [hx] using hd
  · rename_i hx
    simp [hx]

theorem snoopGiven_keeps (t : State) (n : Nat) (bad : Bool) :
    (snoopGiven t n bad).outputs = t.outputs ∧ (snoopGiven t n bad).crews = t.crews ∧ (snoopGiven t n bad).l2Find n = none ∧
      (memoryInv t → memoryInv (snoopGiven t n bad)) := by
  unfold snoopGiven
  split
  · rename_i x hx
    split
    · exact ⟨l2Drop_outputs _ _, l2Drop_crews _ _, l2Drop_l2Find _ _, memoryInv_l2Drop _⟩
    · refine ⟨l2Evict_outputs _ _, l2Evict_crews _ _, ?_, memoryInv_of_eq (l2Evict_mem _ _)⟩
      rw [← l2Find_line hx]
      exact l2Evict_l2Find t x
  · rename_i hx
    exact ⟨rfl, rfl, hx, id⟩

theorem snooped_crews (s : State) (line : Nat) : (snooped s line).crews = s.crews := by
  unfold snooped
  dsimp only
  split
  · exact reportBad_crews _ _
  · rfl

theorem memoryInv_snooped {s : State} (line : Nat) (h : memoryInv s) : memoryInv (snooped s line) := by
  unfold snooped
  dsimp only
  split
  · exact memoryInv_of_eq rfl (memoryInv_reportBad [s.hostPa (64 * line) / 64] h)
  · exact h

/-- A line that passes its check, or that no slice holds, makes no record. -/
theorem snooped_of_good {s : State} {line : Nat}
    (h : (s.l2Find (s.hostPa (64 * line) / 64)).isSome = true → s.lineBad (s.hostPa (64 * line)) = false) :
    snooped s line = { s with outputs := s.outputs ++ [.snoopAnswer line
      (if (s.l2Find (s.hostPa (64 * line) / 64)).isSome then s.rdMem (s.hostPa (64 * line)) 64 else [])] } := by
  cases hh : (s.l2Find (s.hostPa (64 * line) / 64)).isSome
  · simp only [snooped, hh, Bool.false_and, Bool.false_eq_true, if_false]
  · simp only [snooped, hh, h hh, Bool.and_false, Bool.not_false, Bool.and_self, Bool.false_eq_true, if_false]

theorem snooped_of_bad {s : State} {line : Nat} (hb : s.lineBad (s.hostPa (64 * line)) = true) :
    (snooped s line).outputs.getLast? = some (.snoopAnswer line []) := by
  simp [snooped, hb]

/-- The line of the host's own write, once the slice has given it up. -/
theorem snoopGiven_write {s : State} (line : Nat) (bad : Bool) {bs : List Byte} (hl : bs.length = 64) :
    let pa := s.hostPa (64 * line)
    let t := (snoopGiven (snooped s line) (pa / 64) bad).wrMem pa (bs.take 64)
    t.l2Find (pa / 64) = none ∧ (memoryInv s → t.rdMem pa 64 = bs) := by
  obtain ⟨-, -, hf, hm⟩ := snoopGiven_keeps (snooped s line) (s.hostPa (64 * line) / 64) bad
  refine ⟨hf, fun h => ?_⟩
  have hr := rdMem_wrMem _ (s.hostPa (64 * line)) bs (hm (memoryInv_snooped line h))
  rw [List.take_of_length_le (Nat.le_of_eq hl)]
  rwa [hl] at hr

theorem hostSnoop_good (s : State) {line : Nat} (write : Option (List Byte)) (hl : line < 2 ^ 37)
    (hg : (s.l2Find (s.hostPa (64 * line) / 64)).isSome = true → s.lineBad (s.hostPa (64 * line)) = false) :
    let pa := s.hostPa (64 * line)
    let held := s.l2Find (pa / 64)
    ∃ t, exec (.hostSnoop ⟨line, write⟩) s = .next t ∧
      t.outputs = s.outputs ++ [.snoopAnswer line (if held.isSome then s.rdMem pa 64 else [])] ∧ t.crews = s.crews ∧
      (write = none → t.mem = s.mem ∧ (t.l2Find (pa / 64)).map L2Line.dirty = held.map fun _ => false) ∧
      (∀ bs, write = some bs → bs.length = 64 → t.l2Find (pa / 64) = none ∧ (memoryInv s → t.rdMem pa 64 = bs)) := by
  have ho := congrArg State.outputs (snooped_of_good hg)
  cases write with
  | none =>
    obtain ⟨hkm, hko, hkc⟩ := snoopKept_keeps (snooped s line) (s.hostPa (64 * line) / 64) (s.lineBad (s.hostPa (64 * line)))
    refine ⟨_, exec_hostSnoop_kept s hl, hko.trans ho, hkc.trans (snooped_crews s line), fun _ => ⟨?_, ?_⟩, nofun⟩
    · rw [hkm, snooped_of_good hg]
    · have hf : (snooped s line).l2Find (s.hostPa (64 * line) / 64) = s.l2Find (s.hostPa (64 * line) / 64) := by
        rw [snooped_of_good hg]
        rfl
      cases hh : s.l2Find (s.hostPa (64 * line) / 64) with
      | none =>
        simp [snoopKept, hf, hh]
      | some x =>
        rw [hg (by rw [hh]; rfl), snoopKept_clean, hf, hh]
  | some bs =>
    obtain ⟨hgo, hgc, -, -⟩ := snoopGiven_keeps (snooped s line) (s.hostPa (64 * line) / 64) (s.lineBad (s.hostPa (64 * line)))
    refine ⟨_, exec_hostSnoop_given s bs hl, hgo.trans ho, hgc.trans (snooped_crews s line), nofun, ?_⟩
    rintro _ ⟨⟩ hlen
    exact snoopGiven_write line _ hlen

theorem hostSnoop_bad (s : State) {line : Nat} (write : Option (List Byte)) (hl : line < 2 ^ 37)
    (hb : s.lineBad (s.hostPa (64 * line)) = true) :
    let pa := s.hostPa (64 * line)
    ∃ t, exec (.hostSnoop ⟨line, write⟩) s = .next t ∧ t.crews = s.crews ∧ t.outputs.getLast? = some (.snoopAnswer line []) ∧
      (∀ bs, write = some bs → bs.length = 64 → t.l2Find (pa / 64) = none ∧ (memoryInv s → t.rdMem pa 64 = bs)) := by
  cases write with
  | none =>
    obtain ⟨-, hko, hkc⟩ := snoopKept_keeps (snooped s line) (s.hostPa (64 * line) / 64) (s.lineBad (s.hostPa (64 * line)))
    exact ⟨_, exec_hostSnoop_kept s hl, hkc.trans (snooped_crews s line), by rw [hko]; exact snooped_of_bad hb, nofun⟩
  | some bs =>
    obtain ⟨hgo, hgc, -, -⟩ := snoopGiven_keeps (snooped s line) (s.hostPa (64 * line) / 64) (s.lineBad (s.hostPa (64 * line)))
    refine ⟨_, exec_hostSnoop_given s bs hl, hgc.trans (snooped_crews s line),
      (congrArg List.getLast? hgo).trans (snooped_of_bad hb), ?_⟩
    rintro _ ⟨⟩ hlen
    exact snoopGiven_write line _ hlen

/-! ### Requests of other packages (R37 to R39, R407) -/

theorem remoteReadRequest_own (s : State) (addr n : Nat) : exec (.remoteReadRequest s.pkg addr n none) s = .next s :=
  if_pos (by simp)

theorem remoteReadRequest_outside {s : State} {src : Nat} (addr n : Nat) (h : s.inDomain src = false) :
    exec (.remoteReadRequest src addr n none) s = .next s :=
  if_pos (by simp [h])

theorem remoteReadRequest_inside {s : State} {src : Nat} (addr n : Nat) (hs : src ≠ s.pkg) (hd : s.inDomain src = true) :
    exec (.remoteReadRequest src addr n none) s = .next (
      let answer (s : State) (d : List Byte) : State := { s with outputs := s.outputs ++ [.remoteRead src d] }
      let pas := (List.range n).map fun k => s.ownPa (addr + k)
      if !(pas.all s.servable) then answer s []
      else if (s.badLines addr n).isEmpty then answer (s.takeRun addr n) (pas.map fun pa => tget 0 s.mem pa)
      else answer (s.reportBad (s.badLines addr n)) []) := by
  rw [exec_remoteReadRequest, execRemoteReadRequest]
  simp only [hs, hd, decide_false, Bool.not_true, Bool.or_self, Bool.false_eq_true, if_false]
  split
  · rfl
  · split <;> rfl

theorem remoteReadRequest_serves (s : State) (src addr n : Nat) (hs : src ≠ s.pkg) (hd : s.inDomain src = true) :
    let pas := (List.range n).map fun k => s.ownPa (addr + k)
    ((∃ pa ∈ pas, s.servable pa = false) → exec (.remoteReadRequest src addr n none) s =
      .next { s with outputs := s.outputs ++ [.remoteRead src []] }) ∧
    ((∀ pa ∈ pas, s.servable pa = true) → s.badLines addr n = [] → ∃ t, exec (.remoteReadRequest src addr n none) s = .next t ∧
      t.mem = s.mem ∧ t.crews = s.crews ∧
      t.outputs = s.outputs ++ [.remoteRead src (pas.map fun pa => tget 0 s.mem pa)]) ∧
    ((∀ pa ∈ pas, s.servable pa = true) → s.badLines addr n ≠ [] → ∃ t, exec (.remoteReadRequest src addr n none) s = .next t ∧
      t.crews = s.crews ∧ t.outputs.getLast? = some (.remoteRead src [])) := by
  rw [remoteReadRequest_inside addr n hs hd]
  intro pas
  refine ⟨fun ⟨pa, hpa, hns⟩ => ?_, fun hall hgood => ?_, fun hall hbad => ?_⟩
  · have h : pas.all s.servable = false := List.all_eq_false.2 ⟨pa, hpa, by simp [hns]⟩
    simp only [pas] at h
    simp [h]
  · have h : pas.all s.servable = true := List.all_eq_true.2 hall
    refine ⟨_, rfl, ?_⟩
    simp only [pas] at h
    simp [h, hgood, pas]
  · have h : pas.all s.servable = true := List.all_eq_true.2 hall
    refine ⟨_, rfl, ?_⟩
    simp only [pas] at h
    simp [h, hbad]

/-! ### Atomic reads of other packages (R37, R117, R407) -/

/-- Two states that a write to memory cannot tell apart in what it stores and sends. -/
structure Alike (s t : State) : Prop where
  mem : s.mem = t.mem
  outputs : s.outputs = t.outputs
  hostLines : s.plat.hostLines = t.plat.hostLines

theorem Alike.l2Write {s t : State} (h : Alike s t) (pa : Nat) (bs : List Byte) (r : Rank) :
    Alike (s.l2Write pa bs r) (t.l2Write pa bs r) := by
  refine ⟨by rw [l2Write_mem, l2Write_mem, h.mem], ?_, ?_⟩
  all_goals
    simp only [State.l2Write, State.wrMem, l2Dirty_plat, l2Dirty_outputs, l2Take_plat, l2Take_outputs, State.backInvalidate,
      h.hostLines]
    split
  · exact congrArg (· ++ _) h.outputs
  · exact h.outputs
  · rfl
  · exact h.hostLines

theorem Alike.wrLoc {s t : State} (h : Alike s t) (l : Loc) (b : Byte) : Alike (s.wrLoc l b) (t.wrLoc l b) := by
  cases l with
  | mem pa => exact h.l2Write pa [b] Rank.plain
  | sp | acc | ctr => exact ⟨h.mem, h.outputs, h.hostLines⟩

theorem Alike.wrLocs {s t : State} (h : Alike s t) (ls : List Loc) (bs : List Byte) : Alike (s.wrLocs ls bs) (t.wrLocs ls bs) := by
  unfold State.wrLocs
  induction ls.zip bs generalizing s t with
  | nil => exact h
  | cons x r ih => exact ih (h.wrLoc x.1 x.2)

/-- An atomic at memory does the same whatever high-water entries there are. -/
theorem setHwm_atomAt_alike (s : State) (key : StreamKey) (slice : Nat) (n : Word) (pa : Nat) (x : RemoteAtomic) :
    Alike ((s.setHwm key slice n).atomAt (.mem pa) x).2 (s.atomAt (.mem pa) x).2 := by
  have h : Alike (s.setHwm key slice n) s := ⟨rfl, rfl, rfl⟩
  have hr : (s.setHwm key slice n).rdLocs (locRun (.mem pa) (szfSize x.szf)) = s.rdLocs (locRun (.mem pa) (szfSize x.szf)) := rfl
  simp only [State.atomAt, hr]
  split
  · exact h
  · exact h.wrLocs _ _

/-- The high-water mark of a packet's stream at its slice. -/
def markOf (s : State) (p : Packet) : Word :=
  ((s.fab.hwm.find? fun y => y.key == p.key && y.slice == p.slice).map HwmEntry.hwm).getD 0

/-- The next packet of a known stream, which the slice can take and whose line passes its check, is applied and acknowledged. -/
theorem receive_next {s t : State} {p : Packet} (answer : Bool) (hst : s.stale p.key.ident = false)
    (hroom : (s.fab.hwm.filter fun y => y.slice == p.slice).length < 8192) (hseq : p.seq = markOf s p + 1)
    (hbad : (s.setHwm p.key p.slice (markOf s p)).packetBad p = none)
    (happ : (s.setHwm p.key p.slice (markOf s p)).applyPacket p = some t) :
    s.receive p answer = { t.setHwm p.key p.slice p.seq with
      outputs := t.outputs ++ .ack p.key p.slice p.seq ::
        (if answer then [.remoteRead p.key.pkg ((s.setHwm p.key p.slice (markOf s p)).atomicAnswer p)] else []) } := by
  have hr : ¬ ((s.fab.hwm.find? fun y => y.key == p.key && y.slice == p.slice).isNone &&
      decide (8192 ≤ (s.fab.hwm.filter fun y => y.slice == p.slice).length)) = true := by
    simp only [Bool.and_eq_true, decide_eq_true_eq, not_and]
    omega
  unfold State.receive
  rw [if_neg (by simp [hst])]
  dsimp only
  rw [if_neg hr]
  unfold markOf at hseq hbad happ
  rw [if_pos hseq, hbad, happ]
  rfl

theorem packetBad_of_atomic {s : State} {p : Packet} {a : Nat} {x : RemoteAtomic} (hp : p.payload = .atomic a x) :
    s.packetBad p = if s.servable (s.ownPa a) then s.badLine (locRun (.mem (s.ownPa a)) (szfSize x.szf)) else none := by
  simp [State.packetBad, hp]

theorem applyPacket_of_atomic {s : State} {p : Packet} {a : Nat} {x : RemoteAtomic} (hp : p.payload = .atomic a x) :
    s.applyPacket p = some (if s.servable (s.ownPa a) then (s.atomAt (.mem (s.ownPa a)) x).2 else s) := by
  simp [State.applyPacket, hp]

theorem atomicAnswer_of_atomic {s : State} {p : Packet} {a : Nat} {x : RemoteAtomic} (hp : p.payload = .atomic a x) :
    s.atomicAnswer p = if s.servable (s.ownPa a) then s.rdMem (s.ownPa a) (szfSize x.szf) else [] := by
  simp [State.atomicAnswer, hp]

/-- High-water entries play no part in what an atomic's line is and whether it passes its check. -/
theorem setHwm_servable (s : State) (key : StreamKey) (slice : Nat) (n : Word) : (s.setHwm key slice n).servable = s.servable := rfl

theorem setHwm_ownPa (s : State) (key : StreamKey) (slice : Nat) (n : Word) : (s.setHwm key slice n).ownPa = s.ownPa := rfl

theorem setHwm_badLine (s : State) (key : StreamKey) (slice : Nat) (n : Word) : (s.setHwm key slice n).badLine = s.badLine := rfl

theorem remoteReadRequest_atomic (s : State) (p : Packet) (a : Nat) (x : RemoteAtomic) (hfar : s.fromFar p = true)
    (hp : p.payload = .atomic a x) (hplace : rightPlace p = true) (hst : s.stale p.key.ident = false)
    (hroom : (s.fab.hwm.filter fun y => y.slice == p.slice).length < 8192) (hseq : p.seq = markOf s p + 1) :
    let l := Loc.mem (s.ownPa a)
    ∃ t, exec (.remoteReadRequest p.key.pkg a (szfSize x.szf) (some p)) s = .next t ∧
      (s.servable (s.ownPa a) = false → t.mem = s.mem ∧
        t.outputs = s.outputs ++ [.ack p.key p.slice p.seq, .remoteRead p.key.pkg []]) ∧
      (s.servable (s.ownPa a) = true → s.badLine (locRun l (szfSize x.szf)) = none → t.mem = (s.atomAt l x).2.mem ∧
        t.outputs = (s.atomAt l x).2.outputs ++
          [.ack p.key p.slice p.seq, .remoteRead p.key.pkg (s.rdMem (s.ownPa a) (szfSize x.szf))]) := by
  have hexec : exec (.remoteReadRequest p.key.pkg a (szfSize x.szf) (some p)) s = .next (s.receive p true) := by
    simp only [exec_remoteReadRequest, execRemoteReadRequest, State.takePacket, hfar, hplace, Bool.and_self, if_true]
  refine ⟨_, hexec, fun hsv => ?_, fun hsv hgood => ?_⟩
  · have hbad : (s.setHwm p.key p.slice (markOf s p)).packetBad p = none := by
      rw [packetBad_of_atomic hp, setHwm_servable, setHwm_ownPa, hsv]
      rfl
    rw [receive_next true hst hroom hseq hbad (applyPacket_of_atomic hp), atomicAnswer_of_atomic hp, setHwm_servable, setHwm_ownPa, hsv]
    exact ⟨rfl, rfl⟩
  · have hbad : (s.setHwm p.key p.slice (markOf s p)).packetBad p = none := by
      rw [packetBad_of_atomic hp, setHwm_servable, setHwm_ownPa, setHwm_badLine, hsv]
      exact hgood
    have hal := setHwm_atomAt_alike s p.key p.slice (markOf s p) (s.ownPa a) x
    rw [receive_next true hst hroom hseq hbad (applyPacket_of_atomic hp), atomicAnswer_of_atomic hp, setHwm_servable, setHwm_ownPa, hsv]
    exact ⟨hal.mem, congrArg (· ++ _) hal.outputs⟩

/-! ### The links' training and the supply (R395, R416) -/

theorem linkWidth_of_lt {w : Nat} (h : w < 4) : linkWidth w = 0 := by
  rw [linkWidth, if_neg (by omega), if_neg (by omega), if_neg (by omega)]

theorem linkWidth_of_ge {w : Nat} (h : 4 ≤ w) : linkWidth w ≤ w ∧ linkWidth w ∈ [4, 8, 16] := by
  by_cases h16 : 16 ≤ w
  · rw [linkWidth, if_pos h16]
    exact ⟨h16, by decide⟩
  · by_cases h8 : 8 ≤ w
    · rw [linkWidth, if_neg h16, if_pos h8]
      exact ⟨h8, by decide⟩
    · rw [linkWidth, if_neg h16, if_neg h8, if_pos h]
      exact ⟨h, by decide⟩

theorem cxlLinkTraining_untrained (s : State) {rev width : Nat} (rate : Nat) (h : rev < 2 ∨ width < 4) :
    exec (.cxlLinkTraining rev rate width) s =
      .next { s with plat := { s.plat with cxlRev := 0, cxlRate := 0, cxlWidth := 0 } } := by
  refine if_pos ?_
  simp only [Bool.or_eq_true, decide_eq_true_eq]
  exact h.imp (fun h => by omega) linkWidth_of_lt

theorem cxlLinkTraining_trained (s : State) {rev width : Nat} (rate : Nat) (hr : 2 ≤ rev) (hw : 4 ≤ width) :
    ∃ t, exec (.cxlLinkTraining rev rate width) s = .next t ∧ t.mem = s.mem ∧ t.plat.cxlRev = min 4 rev ∧
      t.plat.cxlRate ≤ rate ∧ t.plat.cxlWidth ≤ width ∧ t.plat.cxlWidth ∈ [4, 8, 16] := by
  obtain ⟨hle, hmem⟩ := linkWidth_of_ge hw
  have hne : linkWidth width ≠ 0 := fun h => by simp [h] at hmem
  refine ⟨_, if_neg ?_, rfl, rfl, Nat.min_le_right _ _, hle, hmem⟩
  simp only [Bool.or_eq_true, decide_eq_true_eq]
  omega

theorem getLsbD_setBit {w : Nat} (v : BitVec w) {n : Nat} (b : Bool) (h : n < w) : (setBit v n b).getLsbD n = b := by
  cases b <;> simp [setBit, h]

theorem supplyDroop_sets (s : State) {die : Nat} (h : die < 4) :
    ∃ t, exec (.supplyDroop die) s = .next t ∧ t.mem = s.mem ∧ t.plat.droop.getLsbD die = true := by
  refine ⟨_, congrArg Host.Outcome.next (if_neg (Nat.not_le.2 h)), rfl, getLsbD_setBit _ true h⟩

theorem supplyRecovery_clears (s : State) {die : Nat} (h : die < 4) :
    ∃ t, exec (.supplyRecovery die) s = .next t ∧ t.mem = s.mem ∧ t.plat.droop.getLsbD die = false := by
  refine ⟨_, congrArg Host.Outcome.next (if_neg (Nat.not_le.2 h)), rfl, getLsbD_setBit _ false h⟩

/-! ### Firmware and attestation (R417, R418; log entries 22 and 92) -/

/-- The fuse value after a boot: that of the newest image which asks for it to be raised, and never less than it was. -/
def fusedBy (images : List FwImage) (fuse : Nat) : Nat := images.foldl (fun n i => if i.raises then max n i.version else n) fuse

theorem le_fusedBy (images : List FwImage) (fuse : Nat) : fuse ≤ fusedBy images fuse := by
  unfold fusedBy
  induction images generalizing fuse with
  | nil => exact Nat.le_refl _
  | cons i r ih =>
    refine Nat.le_trans ?_ (ih _)
    dsimp only
    split
    · exact Nat.le_max_left _ _
    · exact Nat.le_refl _

theorem version_le_fusedBy {images : List FwImage} (fuse : Nat) {i : FwImage} (hi : i ∈ images) (hr : i.raises = true) :
    i.version ≤ fusedBy images fuse := by
  induction images generalizing fuse with
  | nil => exact absurd hi List.not_mem_nil
  | cons j r ih =>
    rcases List.mem_cons.1 hi with rfl | hi
    · refine Nat.le_trans ?_ (le_fusedBy r _)
      dsimp only
      rw [if_pos hr]
      exact Nat.le_max_right _ _
    · exact ih _ hi

theorem firmwareBoot_refused {s : State} {images : List FwImage} (cfg : FwConfig) (hb : s.plat.booted = false)
    (hr : s.plat.recovery = false) (h : images = [] ∨ ∃ i ∈ images, i.signed = false ∨ i.version < s.plat.fuse) :
    exec (.firmwareBoot images cfg) s = .next { s with plat := { s.plat with recovery := true } } := by
  have hc : (images.isEmpty || images.any fun i => !i.signed || decide (i.version < s.plat.fuse)) = true := by simpa using h
  rw [exec_firmwareBoot, execFirmwareBoot, if_neg (by simp [hb, hr]), if_pos hc]

theorem firmwareBoot_boots {s : State} {images : List FwImage} (cfg : FwConfig) (hb : s.plat.booted = false)
    (hr : s.plat.recovery = false) (hne : images ≠ []) (h : ∀ i ∈ images, i.signed = true ∧ s.plat.fuse ≤ i.version) :
    ∃ t, exec (.firmwareBoot images cfg) s = .next t ∧
      t.plat.booted = true ∧ t.plat.recovery = false ∧ t.mem = s.mem ∧ s.plat.fuse ≤ t.plat.fuse ∧ t.plat.pkgnum = cfg.pkgnum ∧
      (∀ i ∈ images, i.raises = true → i.version ≤ t.plat.fuse) := by
  have hc : ¬ (images.isEmpty || images.any fun i => !i.signed || decide (i.version < s.plat.fuse)) = true := by
    simpa [hne] using h
  rw [exec_firmwareBoot, execFirmwareBoot, if_neg (by simp [hb, hr]), if_neg hc]
  exact ⟨_, rfl, rfl, hr, rfl, le_fusedBy images _, rfl, fun i hi hraise => version_le_fusedBy _ hi hraise⟩

/-- A state that has answered an SPDM request: memory stays, and one answer has gone out; unless the request may come before the device's
algorithm has been negotiated, or it has been, the answer is an error and the platform is as before. -/
def SpdmAnswered (s t : State) (free : Bool) : Prop :=
  ∃ code data, t.mem = s.mem ∧ t.outputs = s.outputs ++ [.spdm code data] ∧
    (free = false → s.plat.spdmPhase ≠ 3 → code = 0x7F ∧ t.plat = s.plat)

theorem spdmError_answered (s : State) (free : Bool) : SpdmAnswered s s.spdmError free :=
  ⟨0x7F, [], rfl, rfl, fun _ _ => ⟨rfl, rfl⟩⟩

theorem spdmAnswer_answered (s : State) (phase code : Nat) (data : List Nat) : SpdmAnswered s (s.spdmAnswer phase code data) true :=
  ⟨code, data, rfl, rfl, nofun⟩

/-- An authenticated request is answered only in phase 3. -/
theorem spdm_authenticated (s go : State) (ok : Bool) (h : SpdmAnswered s go true) :
    SpdmAnswered s (if s.plat.spdmPhase = 3 && ok then go else s.spdmError) false := by
  split
  · rename_i hc
    obtain ⟨code, data, hm, ho, -⟩ := h
    refine ⟨code, data, hm, ho, fun _ hp => absurd ?_ hp⟩
    simp only [Bool.and_eq_true, decide_eq_true_eq] at hc
    exact hc.1
  · exact spdmError_answered s false

theorem spdm_inTurn (s go : State) (c : Prop) [Decidable c] (h : SpdmAnswered s go true) :
    SpdmAnswered s (if c then go else s.spdmError) true := by
  split
  · exact h
  · exact spdmError_answered s true

/-- The requests that lead up to the negotiation of an algorithm, with its own. -/
def beforeAlgorithms : SpdmRequest → Bool
  | .getVersion | .getCapabilities | .negotiateAlgorithms _ => true
  | _ => false

theorem spdmRequest_answered (s : State) (req : SpdmRequest) :
    ∃ t, exec (.spdmRequest req) s = .next t ∧ SpdmAnswered s t (beforeAlgorithms req) := by
  cases req with
  | getVersion => exact ⟨_, rfl, spdmAnswer_answered _ _ _ _⟩
  | getCapabilities => exact ⟨_, rfl, spdm_inTurn s _ _ (spdmAnswer_answered _ _ _ _)⟩
  | negotiateAlgorithms ext => exact ⟨_, rfl, spdm_inTurn s _ _ (spdmAnswer_answered _ _ _ _)⟩
  | getDigests => exact ⟨_, rfl, spdm_authenticated s _ true (spdmAnswer_answered _ _ _ _)⟩
  | getCertificate slot => exact ⟨_, rfl, spdm_authenticated s _ _ (spdmAnswer_answered _ _ _ _)⟩
  | setCertificate slot chain => exact ⟨_, rfl, spdm_authenticated s _ _ ⟨_, _, rfl, rfl, nofun⟩⟩
  | challenge slot => exact ⟨_, rfl, spdm_authenticated s _ _ (spdmAnswer_answered _ _ _ _)⟩
  | getMeasurements block =>
    rw [exec_spdmRequest, execSpdmRequest]
    dsimp only
    split
    · exact ⟨_, rfl, spdm_authenticated s _ true (spdmAnswer_answered _ _ _ _)⟩
    · split
      · exact ⟨_, rfl, spdm_authenticated s _ true (spdmAnswer_answered _ _ _ _)⟩
      · exact ⟨_, rfl, spdm_authenticated s _ _ (spdmAnswer_answered _ _ _ _)⟩

theorem spdmRequest_serves (s : State) (req : SpdmRequest) :
    ∃ t code data, exec (.spdmRequest req) s = .next t ∧ t.mem = s.mem ∧ t.outputs = s.outputs ++ [.spdm code data] ∧
      (req ≠ .getVersion → req ≠ .getCapabilities → (∀ e, req ≠ .negotiateAlgorithms e) → s.plat.spdmPhase ≠ 3 →
        code = 0x7F ∧ t.plat = s.plat) := by
  obtain ⟨t, ht, code, data, hm, ho, hauth⟩ := spdmRequest_answered s req
  refine ⟨t, code, data, ht, hm, ho, fun hv hc hn => hauth ?_⟩
  cases req with
  | getVersion => exact absurd rfl hv
  | getCapabilities => exact absurd rfl hc
  | negotiateAlgorithms e => exact absurd rfl (hn e)
  | _ => rfl

/-! ### Fields of a register's word -/

/-- The bits of a field of `w` bits at bit `lo`. -/
def fieldMask (lo w : Nat) : DWord := BitVec.ofNat 64 (fieldAt (2 ^ w - 1) lo)

/-- A flag at bit `k` of a word. -/
def flagWord (k : Nat) (f : Bool) : DWord := BitVec.ofNat 64 (fieldAt (b2n f) k)

theorem fieldAt_zero (x : Nat) : fieldAt x 0 = x := Nat.mul_one x

theorem getLsbD_ofNat_fieldAt (x lo i : Nat) :
    (BitVec.ofNat 64 (fieldAt x lo)).getLsbD i = (decide (i < 64) && (decide (lo ≤ i) && x.testBit (i - lo))) := by
  rw [BitVec.getLsbD_ofNat, fieldAt, Nat.testBit_mul_two_pow]

theorem b2n_testBit (f : Bool) (i : Nat) : (b2n f).testBit i = (f && decide (i = 0)) := by
  cases f <;> cases i <;> simp [b2n, Nat.testBit_succ]

theorem getLsbD_flagWord (k : Nat) (f : Bool) (i : Nat) : (flagWord k f).getLsbD i = (decide (i < 64) && (f && decide (i = k))) := by
  rw [flagWord, getLsbD_ofNat_fieldAt, b2n_testBit]
  by_cases h : i = k
  · simp [h]
  · by_cases hk : k ≤ i
    · have : i - k ≠ 0 := by omega
      simp [h, this]
    · simp [h, hk]

/-- A field taken out of a word and put back in its place. -/
theorem ofNat_field (v : DWord) (lo w : Nat) : BitVec.ofNat 64 (fieldAt (v.extractLsb' lo w).toNat lo) = v &&& fieldMask lo w := by
  apply BitVec.eq_of_getLsbD_eq
  intro i hi
  rw [BitVec.getLsbD_and, fieldMask, getLsbD_ofNat_fieldAt, getLsbD_ofNat_fieldAt, BitVec.testBit_toNat, BitVec.getLsbD_extractLsb',
    Nat.testBit_two_pow_sub_one]
  by_cases h : lo ≤ i
  · rw [Nat.add_sub_cancel' h]
    simp only [hi, h, decide_true, Bool.true_and]
    exact Bool.and_comm _ _
  · simp [h]

theorem ofNat_low (v : DWord) (w : Nat) : BitVec.ofNat 64 (v.extractLsb' 0 w).toNat = v &&& fieldMask 0 w := by
  rw [← ofNat_field, fieldAt_zero]

theorem flagWord_getLsbD (v : DWord) (k : Nat) : flagWord k (v.getLsbD k) = v &&& fieldMask k 1 := by
  apply BitVec.eq_of_getLsbD_eq
  intro i hi
  rw [BitVec.getLsbD_and, fieldMask, getLsbD_ofNat_fieldAt, getLsbD_flagWord, Nat.testBit_two_pow_sub_one]
  by_cases h : i = k
  · subst h
    simp [hi]
  · simp [h]
    omega

/-- Fields that do not overlap add up to the bits of both. -/
theorem and_add_and (v : DWord) {m n : DWord} (h : m &&& n = 0#64) : (v &&& m) + (v &&& n) = v &&& (m ||| n) := by
  rw [BitVec.add_eq_or_of_and_eq_zero, BitVec.and_or_distrib_left]
  rw [show (v &&& m) &&& (v &&& n) = v &&& (m &&& n) by ac_nf, h, BitVec.and_zero]

/-- A flag that a write of 1 clears. -/
theorem flagWord_clear (k : Nat) (f : Bool) (v : DWord) : flagWord k (f && !v.getLsbD k) = flagWord k f &&& ~~~v := by
  apply BitVec.eq_of_getLsbD_eq
  intro i hi
  rw [BitVec.getLsbD_and, getLsbD_flagWord, getLsbD_flagWord, BitVec.getLsbD_not]
  by_cases h : i = k
  · subst h
    simp [hi]
  · simp [h]

theorem and_flagWord_of_not {m : DWord} {k : Nat} (f : Bool) (h : m.getLsbD k = false) : m &&& flagWord k f = 0#64 := by
  apply BitVec.eq_of_getLsbD_eq
  intro i hi
  rw [BitVec.getLsbD_and, getLsbD_flagWord]
  by_cases hk : i = k
  · simp [hk, h]
  · simp [hk]

/-- A field keeps the bits of a mask that covers it. -/
theorem fieldAt_and_of_covers (x lo : Nat) (m : DWord) (h : ∀ i, i < 64 → lo ≤ i → m.getLsbD i = true) :
    BitVec.ofNat 64 (fieldAt x lo) &&& m = BitVec.ofNat 64 (fieldAt x lo) := by
  apply BitVec.eq_of_getLsbD_eq
  intro i hi
  rw [BitVec.getLsbD_and, getLsbD_ofNat_fieldAt]
  by_cases hlo : lo ≤ i
  · simp [h i hi hlo]
  · simp [hlo]

/-! ### What a write of a register comes to (R8) -/

/-- A register's word after a write of `v`: the bits that are set, those that a 1 clears, and those that stay. -/
def accessed (v r rw w1c ro : DWord) : DWord := (v &&& rw) ||| (r &&& w1c &&& ~~~v) ||| (r &&& ro)

theorem accessed_readOnly (v r : DWord) : accessed v r 0 0 (BitVec.allOnes 64) = r := by
  rw [accessed, BitVec.and_allOnes]
  simp

theorem accessed_readWrite (v r m : DWord) : accessed v r m 0 0 = v &&& m := by
  simp [accessed]

/-- A word of bits that stay and a flag that a 1 clears. -/
theorem accessed_clear {hi ro : DWord} {k : Nat} (f : Bool) (v : DWord) (hro : hi &&& ro = hi) (hk : ro.getLsbD k = false) :
    hi + flagWord k (f && !v.getLsbD k) = accessed v (hi + flagWord k f) 0 (flagWord k true) ro := by
  have hstay (i : Nat) : (hi.getLsbD i && ro.getLsbD i) = hi.getLsbD i := by rw [← BitVec.getLsbD_and, hro]
  have hik : hi.getLsbD k = false := by rw [← hstay k, hk, Bool.and_false]
  rw [BitVec.add_eq_or_of_and_eq_zero _ _ (and_flagWord_of_not _ hik), BitVec.add_eq_or_of_and_eq_zero _ _ (and_flagWord_of_not _ hik),
    flagWord_clear]
  apply BitVec.eq_of_getLsbD_eq
  intro i hi'
  simp only [accessed, BitVec.getLsbD_or, BitVec.getLsbD_and, BitVec.getLsbD_not, getLsbD_flagWord]
  by_cases h : i = k
  · subst h
    simp [-BitVec.getLsbD_eq_getElem, hi', hik, hk]
  · simpa [h] using (hstay i).symm

/-- The ring control word: EN and LOG2SIZE. -/
theorem ringControl_word (v : DWord) :
    BitVec.ofNat 64 (fieldAt (b2n (v.getLsbD 63)) 63 + (v.extractLsb' 0 5).toNat) = v &&& 0x800000000000001F#64 := by
  rw [BitVec.ofNat_add, ofNat_low]
  change flagWord 63 _ + _ = _
  rw [flagWord_getLsbD, and_add_and v (by decide)]
  congr 1

/-- ETOCTL: the retries and the timeout. -/
theorem etoCtl_word (v : DWord) :
    BitVec.ofNat 64 (fieldAt (v.extractLsb' 32 8).toNat 32 + (v.extractLsb' 0 32).toNat) = v &&& 0xFFFFFFFFFF#64 := by
  rw [BitVec.ofNat_add, ofNat_low, ofNat_field, and_add_and v (by decide)]
  congr 1

/-- DBGCTL: PLACE, CLAIM, SAMPLE and SPER. -/
theorem dbgCtl_word (v : DWord) :
    BitVec.ofNat 64 (fieldAt (v.extractLsb' 58 3).toNat 58 + fieldAt (b2n (v.getLsbD 57)) 57 + fieldAt (b2n (v.getLsbD 56)) 56 +
      fieldAt (v.extractLsb' 51 5).toNat 51) = v &&& 0x1FF8000000000000#64 := by
  rw [BitVec.ofNat_add, BitVec.ofNat_add, BitVec.ofNat_add, ofNat_field, ofNat_field]
  change _ + flagWord 57 _ + flagWord 56 _ + _ = _
  rw [flagWord_getLsbD, flagWord_getLsbD, and_add_and v (by decide), and_add_and v (by decide), and_add_and v (by decide)]
  congr 1

/-- A submission queue's control word: OVR is cleared by a 1, and EN, ASID and LOG2SIZE are set. -/
theorem queueControl_word (v : DWord) (en ovr : Bool) (asid : BitVec 6) (size : BitVec 5) :
    BitVec.ofNat 64 (fieldAt (b2n (v.getLsbD 63)) 63 + fieldAt (b2n (ovr && !v.getLsbD 15)) 15 +
        fieldAt (v.extractLsb' 8 6).toNat 8 + (v.extractLsb' 0 5).toNat) =
      accessed v (BitVec.ofNat 64 (fieldAt (b2n en) 63 + fieldAt (b2n ovr) 15 + fieldAt asid.toNat 8 + size.toNat))
        0x8000000000003F1F#64 0x8000#64 0 := by
  have hbit : (BitVec.ofNat 64 (fieldAt (b2n en) 63 + fieldAt (b2n ovr) 15 + fieldAt asid.toNat 8 + size.toNat)).getLsbD 15 = ovr := by
    have ha := asid.isLt
    have hs := size.isLt
    rw [BitVec.getLsbD_ofNat, Nat.testBit_eq_decide_div_mod_eq]
    simp only [fieldAt]
    cases en <;> cases ovr <;> simp only [b2n, if_true, if_false, Bool.false_eq_true] <;> simp <;> omega
  generalize BitVec.ofNat 64 (fieldAt (b2n en) 63 + fieldAt (b2n ovr) 15 + fieldAt asid.toNat 8 + size.toNat) = r at hbit ⊢
  have hr : r &&& 0x8000#64 = flagWord 15 ovr := by
    rw [← hbit, flagWord_getLsbD]
    congr 1
  rw [BitVec.ofNat_add, BitVec.ofNat_add, BitVec.ofNat_add, ofNat_field, ofNat_low]
  change flagWord 63 _ + flagWord 15 _ + _ + _ = _
  rw [flagWord_getLsbD, flagWord_clear, BitVec.add_assoc, BitVec.add_comm _ (flagWord 15 ovr &&& ~~~v), BitVec.add_assoc,
    ← BitVec.add_assoc (v &&& fieldMask 63 1), and_add_and v (by decide), and_add_and v (by decide)]
  rw [accessed, hr, show r &&& 0 = 0#64 from BitVec.and_zero, BitVec.or_zero, ← flagWord_clear, BitVec.add_comm,
    BitVec.add_eq_or_of_and_eq_zero]
  · congr 1
  · exact and_flagWord_of_not _ (by simp [fieldMask, fieldAt])

/-! ### Where the registers lie -/

/-- The words of a ring and of a context and the entries of the identity table are as many as the register space holds. -/
def RegInRange : Reg → Prop
  | .ring _ k => k < 5
  | .asctx _ k => k < 4
  | .idtab n => n < 1024
  | _ => True

theorem inRange_some {r : Reg} (h : RegInRange r) : ∀ g ∈ some r, RegInRange g := by
  rintro _ ⟨⟩
  exact h

theorem inRange_none : ∀ g ∈ (none : Option Reg), RegInRange g := nofun

theorem inRange_ite {c : Prop} [Decidable c] {x y : Option Reg} (hx : c → ∀ g ∈ x, RegInRange g) (hy : ∀ g ∈ y, RegInRange g) :
    ∀ g ∈ (if c then x else y), RegInRange g := by
  split
  · exact hx ‹_›
  · exact hy

/-- The words of a ring lie in a block of 40 bytes. -/
theorem inRange_ring {i : RingId} {lo o : Nat} (h : o ≤ lo + 0x20) : ∀ g ∈ some (Reg.ring i ((o - lo) / 8)), RegInRange g :=
  inRange_some (show (o - lo) / 8 < 5 by omega)

theorem platformReg_inRange (o : Nat) : ∀ g ∈ platformReg o, RegInRange g := by
  unfold platformReg
  iterate 5 refine inRange_ite (fun _ => inRange_some trivial) ?_
  iterate 2 refine inRange_ite (fun h => inRange_ring (by simp at h; omega)) ?_
  exact inRange_none

theorem xlatReg_inRange (o : Nat) : ∀ g ∈ xlatReg o, RegInRange g := by
  unfold xlatReg
  refine inRange_ite (fun _ => inRange_some (show o % 32 / 8 < 4 by omega)) ?_
  refine inRange_ite (fun h => inRange_ring h) ?_
  refine inRange_ite (fun h => inRange_ring (by simp at h; omega)) ?_
  repeat' refine inRange_ite (fun _ => inRange_some trivial) ?_
  exact inRange_none

theorem dealerReg_inRange (o : Nat) : ∀ g ∈ dealerReg o, RegInRange g := by
  unfold dealerReg
  repeat' refine inRange_ite (fun _ => inRange_some trivial) ?_
  exact inRange_none

theorem fabricReg_inRange (o : Nat) : ∀ g ∈ fabricReg o, RegInRange g := by
  unfold fabricReg
  iterate 7 refine inRange_ite (fun _ => inRange_some trivial) ?_
  refine inRange_ite (fun h => inRange_some ?_) inRange_none
  simp only [Bool.and_eq_true, decide_eq_true_eq] at h
  change (o - 0x2000) / 8 < 1024
  omega

theorem partReg_inRange (p o : Nat) : ∀ g ∈ partReg p o, RegInRange g := by
  unfold partReg
  repeat' refine inRange_ite (fun _ => inRange_some trivial) ?_
  exact inRange_none

theorem debugReg_inRange (o : Nat) : ∀ g ∈ debugReg o, RegInRange g := by
  unfold debugReg
  refine inRange_ite (fun h => inRange_some (show o / 8 < 5 by omega)) ?_
  iterate 4 refine inRange_ite (fun _ => inRange_some trivial) ?_
  refine inRange_ite (fun _ => partReg_inRange _ _) ?_
  exact inRange_ite (fun _ => inRange_some trivial) inRange_none

theorem regAt_inRange {o : Nat} {g : Reg} (h : regAt o = some g) : RegInRange g := by
  suffices ∀ g ∈ regAt o, RegInRange g from this g h
  unfold regAt
  refine inRange_ite (fun _ => inRange_none) ?_
  refine inRange_ite (fun _ => platformReg_inRange _) ?_
  refine inRange_ite (fun _ => xlatReg_inRange _) ?_
  refine inRange_ite (fun _ => dealerReg_inRange _) ?_
  refine inRange_ite (fun _ => fabricReg_inRange _) ?_
  exact inRange_ite (fun _ => debugReg_inRange _) inRange_none

/-! ### What a write of a register keeps -/

/-- A write of `v` that takes `s` to `t` acts on register `g` by its access code, and on nothing else that can be read. -/
structure RegWritten (s t : State) (g : Reg) (v rw w1c ro : DWord) : Prop where
  mem : t.mem = s.mem
  crews : t.crews = s.crews
  read : t.regRead g = accessed v (s.regRead g) rw w1c ro
  others : ∀ h, RegInRange h → h ≠ g → t.regRead h = s.regRead h

/-- A register that cannot be written. -/
theorem RegWritten.readOnly {s : State} {g : Reg} (v : DWord) (h : s.regWrite g v = s) :
    RegWritten s (s.regWrite g v) g v 0 0 (BitVec.allOnes 64) := by
  rw [h]
  exact ⟨rfl, rfl, (accessed_readOnly _ _).symm, fun _ _ _ => rfl⟩

/-- A register all of whose fields take what is written. -/
theorem RegWritten.readWrite {s t : State} {g : Reg} {v m : DWord} (hm : t.mem = s.mem) (hc : t.crews = s.crews)
    (hr : t.regRead g = v &&& m) (ho : ∀ h, RegInRange h → h ≠ g → t.regRead h = s.regRead h) : RegWritten s t g v m 0 0 :=
  ⟨hm, hc, hr.trans (accessed_readWrite _ _ _).symm, ho⟩

theorem ofNat_toNat_dword (v : DWord) : BitVec.ofNat 64 v.toNat = v := by simp

/-! ### Registers that stand alone -/

theorem apwin_written (s : State) (v : DWord) : RegWritten s (s.regWrite .apwin v) .apwin v 0x00000FFFC0000000 0 0 := by
  refine .readWrite rfl rfl ((ofNat_field v 30 14).trans (congrArg (v &&& ·) (by decide))) fun h _ hne => ?_
  cases h with
  | apwin => exact absurd rfl hne
  | _ => rfl

theorem replayAddr_written (s : State) (v : DWord) : RegWritten s (s.regWrite .replayAddr v) .replayAddr v 0x3FFFFFFFFFFF0000 0 0 := by
  refine .readWrite rfl rfl (ofNat_toNat_dword _) fun h _ hne => ?_
  cases h with
  | replayAddr => exact absurd rfl hne
  | _ => rfl

theorem invAddr_written (s : State) (v : DWord) : RegWritten s (s.regWrite .invAddr v) .invAddr v 0x3FFFFFFFFFFF0000 0 0 := by
  refine .readWrite rfl rfl (ofNat_toNat_dword _) fun h _ hne => ?_
  cases h with
  | invAddr => exact absurd rfl hne
  | _ => rfl

theorem preemptGang_written (s : State) (v : DWord) : RegWritten s (s.regWrite .preemptGang v) .preemptGang v 0xFFFFFFFF 0 0 := by
  refine .readWrite rfl rfl ((ofNat_low v 32).trans (congrArg (v &&& ·) (by decide))) fun h _ hne => ?_
  cases h with
  | preemptGang => exact absurd rfl hne
  | _ => rfl

theorem etoCtl_written (s : State) (v : DWord) : RegWritten s (s.regWrite .etoCtl v) .etoCtl v 0xFFFFFFFFFF 0 0 := by
  refine .readWrite rfl rfl (etoCtl_word v) fun h _ hne => ?_
  cases h with
  | etoCtl => exact absurd rfl hne
  | _ => rfl

theorem dumpBase_written (s : State) (v : DWord) : RegWritten s (s.regWrite .dumpBase v) .dumpBase v 0xFFFFFFFFFFFFF001 0 0 := by
  refine .readWrite rfl rfl (ofNat_toNat_dword _) fun h _ hne => ?_
  cases h with
  | dumpBase => exact absurd rfl hne
  | _ => rfl

/-- A flag after a write: a 1 clears it. -/
def cleared (f : Bool) (v : DWord) (k : Nat) : Bool := f && !v.getLsbD k

theorem replayStat_write (s : State) (v : DWord) :
    s.regWrite .replayStat v = { s with xlat := { s.xlat with badCmd := cleared s.xlat.badCmd v 1 } } := by
  simp only [State.regWrite, cleared]
  cases v.getLsbD 1 <;> simp

theorem replayStat_written (s : State) (v : DWord) : RegWritten s (s.regWrite .replayStat v) .replayStat v 0 2 0xFFFFFFFF00000000 := by
  rw [replayStat_write]
  refine ⟨rfl, rfl, ?_, fun h _ hne => ?_⟩
  · simp only [State.regRead, BitVec.ofNat_add]
    exact accessed_clear s.xlat.badCmd v (fieldAt_and_of_covers _ _ _ (by decide)) (by decide)
  · cases h with
    | replayStat => exact absurd rfl hne
    | _ => rfl

theorem b2n_word (f : Bool) : BitVec.ofNat 64 (b2n f) = flagWord 0 f := by rw [flagWord, fieldAt_zero]

theorem flagWord_zero_and_one (f : Bool) : flagWord 0 f &&& 1#64 = flagWord 0 f := by cases f <;> rfl

theorem invStat_write (s : State) (v : DWord) :
    s.regWrite .invStat v = { s with xlat := { s.xlat with invDropped := cleared s.xlat.invDropped v 1 } } := by
  simp only [State.regWrite, cleared]
  cases v.getLsbD 1 <;> simp

theorem invStat_written (s : State) (v : DWord) : RegWritten s (s.regWrite .invStat v) .invStat v 0 2 1 := by
  rw [invStat_write]
  refine ⟨rfl, rfl, ?_, fun h _ hne => ?_⟩
  · simp only [State.regRead, BitVec.ofNat_add, BitVec.add_comm (BitVec.ofNat 64 (fieldAt _ 1)), b2n_word]
    exact accessed_clear s.xlat.invDropped v (flagWord_zero_and_one _) (by decide)
  · cases h with
    | invStat => exact absurd rfl hne
    | _ => rfl

theorem preemptStat_write (s : State) (v : DWord) :
    s.regWrite .preemptStat v = { s with dealer := { s.dealer with preemptNotFound := cleared s.dealer.preemptNotFound v 1 } } := by
  simp only [State.regWrite, cleared]
  cases v.getLsbD 1 <;> simp

theorem preemptStat_written (s : State) (v : DWord) : RegWritten s (s.regWrite .preemptStat v) .preemptStat v 0 2 1 := by
  rw [preemptStat_write]
  refine ⟨rfl, rfl, ?_, fun h _ hne => ?_⟩
  · simp only [State.regRead, BitVec.ofNat_add, BitVec.add_comm (BitVec.ofNat 64 (fieldAt _ 1)), b2n_word]
    exact accessed_clear s.dealer.preemptNotFound v (flagWord_zero_and_one _) (by decide)
  · cases h with
    | preemptStat => exact absurd rfl hne
    | _ => rfl

/-! ### Rings (R61, R78, R420) -/

theorem ring_setRing (s : State) (i j : RingId) (r : Ring) : (s.setRing i r).ring j = if j = i then r else s.ring j := by
  cases i <;> cases j <;> rfl

theorem ring_setRing_same (s : State) (i : RingId) (r : Ring) : (s.setRing i r).ring i = r := by rw [ring_setRing, if_pos rfl]

theorem ring_setRing_ne (s : State) {i j : RingId} (r : Ring) (h : j ≠ i) : (s.setRing i r).ring j = s.ring j := by
  rw [ring_setRing, if_neg h]

/-- A ring replaced by one that reads alike in the words that are asked of it. -/
theorem regRead_setRing {s : State} {i : RingId} {r : Ring} {h : Reg}
    (hr : ∀ k, h = .ring i k → ringRead i r k = ringRead i (s.ring i) k) : (s.setRing i r).regRead h = s.regRead h := by
  cases h with
  | ring j k =>
    by_cases hj : j = i
    · subst hj
      simp only [State.regRead, ring_setRing_same, hr k rfl]
    · simp only [State.regRead, ring_setRing_ne s r hj]
  | _ => cases i <;> rfl

theorem setRing_written {s : State} {i : RingId} {k : Nat} {r : Ring} {v rw w1c ro : DWord}
    (hk : BitVec.ofNat 64 (ringRead i r k) = accessed v (BitVec.ofNat 64 (ringRead i (s.ring i) k)) rw w1c ro)
    (hr : ∀ j, j < 5 → j ≠ k → ringRead i r j = ringRead i (s.ring i) j) : RegWritten s (s.setRing i r) (.ring i k) v rw w1c ro := by
  refine ⟨setRing_mem _ _ _, by cases i <;> rfl, ?_, fun h hin hne => regRead_setRing ?_⟩
  · simp only [State.regRead, ring_setRing_same]
    exact hk
  · rintro j rfl
    exact hr j hin fun hj => hne (by rw [hj])

theorem ringBase_written (s : State) (i : RingId) (v : DWord) :
    RegWritten s (s.regWrite (.ring i 0) v) (.ring i 0) v 0xFFFFFFFFFFFFF000 0 0 := by
  refine setRing_written ((ofNat_toNat_dword _).trans (accessed_readWrite _ _ _).symm) fun j _ hj => ?_
  match j with
  | 0 => exact absurd rfl hj
  | 1 | 2 | 3 | _ + 4 => cases i <;> rfl

theorem ringControl_written (s : State) (i : RingId) (v : DWord) :
    RegWritten s (s.regWrite (.ring i 1) v) (.ring i 1) v 0x800000000000001F 0 0 := by
  refine setRing_written ((ringControl_word v).trans (accessed_readWrite _ _ _).symm) fun j _ hj => ?_
  match j with
  | 1 => exact absurd rfl hj
  | 0 | 2 | 3 | _ + 4 => cases i <;> rfl

theorem ringGet_written (s : State) (i : RingId) (v : DWord) :
    RegWritten s (s.regWrite (.ring i 3) v) (.ring i 3) v 0xFFFFFFFF 0 0 := by
  refine setRing_written (((ofNat_low v 32).trans (congrArg (v &&& ·) (by decide))).trans (accessed_readWrite _ _ _).symm)
    fun j _ hj => ?_
  match j with
  | 3 => exact absurd rfl hj
  | 0 | 1 | 2 | _ + 4 => cases i <;> rfl

/-- The count that a ring's status word shows beside FULL, where writing a 1 clears FULL. -/
def ringCount (i : RingId) (r : Ring) : Nat :=
  match i with
  | .debug => min r.drop 65535
  | _ => min (heldUnits i r.held) 65535

theorem ringStatus_word {i : RingId} (hi : i ≠ .access) (r : Ring) :
    BitVec.ofNat 64 (ringRead i r 4) = BitVec.ofNat 64 (fieldAt (ringCount i r) 32) + flagWord 0 r.full := by
  rw [← b2n_word, ← BitVec.ofNat_add]
  cases i with
  | access => exact absurd rfl hi
  | _ => rfl

theorem ringStatus_write (s : State) {i : RingId} (hi : i ≠ .access) (v : DWord) :
    s.regWrite (.ring i 4) v = s.setRing i { s.ring i with full := cleared (s.ring i).full v 0 } := by
  simp only [State.regWrite, State.ringRegWrite, cleared, bne_iff_ne.2 hi, Bool.true_and]
  cases v.getLsbD 0
  · cases i <;> simp [State.setRing, State.ring]
  · simp

theorem ringStatus_written (s : State) {i : RingId} (hi : i ≠ .access) (v : DWord) :
    RegWritten s (s.regWrite (.ring i 4) v) (.ring i 4) v 0 1 0xFFFFFFFFFFFFFFFE := by
  rw [ringStatus_write s hi]
  refine setRing_written ?_ fun j hlt hj => ?_
  · rw [ringStatus_word hi, ringStatus_word hi]
    exact accessed_clear (s.ring i).full v (fieldAt_and_of_covers _ _ _ (by decide)) (by decide)
  · match j with
    | 4 => exact absurd rfl hj
    | 0 | 1 | 2 | 3 => rfl
    | j + 5 => omega

/-! ### Contexts, the identity table and the mailbox (R50, R404, R426) -/

theorem takeRoot_regRead (s : State) (n : Nat) (h : Reg) : (s.takeRoot n).regRead h = s.regRead h := by
  unfold State.takeRoot
  dsimp only
  split
  · cases h <;> rfl
  · rfl

theorem takeRoot_mem (s : State) (n : Nat) : (s.takeRoot n).mem = s.mem := by
  unfold State.takeRoot
  dsimp only
  split <;> rfl

theorem takeRoot_crews (s : State) (n : Nat) : (s.takeRoot n).crews = s.crews := by
  unfold State.takeRoot
  dsimp only
  split <;> rfl

/-- A word of the contexts replaced. -/
def setAsctx (s : State) (n : Nat) (v : DWord) : State := { s with xlat := { s.xlat with asctx := tset 0 s.xlat.asctx n v } }

theorem setAsctx_written (s : State) {n k : Nat} {v m : DWord} (hk : k < 4) (hw : twf 0 s.xlat.asctx = true) :
    RegWritten s (setAsctx s (4 * n + k) (v &&& m)) (.asctx n k) v m 0 0 := by
  refine .readWrite rfl rfl ?_ fun h hin hne => ?_
  · simp only [State.regRead, setAsctx, tget_tset _ _ _ hw]
    exact ofNat_toNat_dword _
  · cases h with
    | asctx p q =>
      have hin : q < 4 := hin
      have hpq : 4 * n + k ≠ 4 * p + q := fun he => hne (by rw [show p = n by omega, show q = k by omega])
      simp only [State.regRead, setAsctx, tget_tset_ne _ _ hpq]
    | _ => rfl

/-- The bits of a context's word that a write sets. -/
def asctxMask : Nat → DWord
  | 0 => 0x000FFFFFFFFFF001
  | 1 => 0x800FFFFF0FFF00FF
  | 2 => 0x000000009F9F0000
  | _ => 0

theorem asctx_write (s : State) (n k : Nat) (v : DWord) :
    s.regWrite (.asctx n k) v = setAsctx s (4 * n + k) (v &&& asctxMask k) ∨
      s.regWrite (.asctx n k) v = (setAsctx s (4 * n + k) (v &&& asctxMask k)).takeRoot n := by
  have h : s.regWrite (.asctx n k) v =
      if k = 0 && !((setAsctx s (4 * n + k) (v &&& asctxMask k)).xlat.roots.any fun x => x.1 == n) then
        (setAsctx s (4 * n + k) (v &&& asctxMask k)).takeRoot n else setAsctx s (4 * n + k) (v &&& asctxMask k) := by
    match k with
    | 0 | 1 | 2 | _ + 3 => rfl
  rw [h]
  split
  · exact .inr rfl
  · exact .inl rfl

theorem asctx_written (s : State) {n k : Nat} (v : DWord) (hk : k < 4) (hw : twf 0 s.xlat.asctx = true) :
    RegWritten s (s.regWrite (.asctx n k) v) (.asctx n k) v (asctxMask k) 0 0 := by
  have h := setAsctx_written s (n := n) (v := v) (m := asctxMask k) hk hw
  rcases asctx_write s n k v with he | he <;> rw [he]
  · exact h
  · exact ⟨(takeRoot_mem _ _).trans h.mem, (takeRoot_crews _ _).trans h.crews, (takeRoot_regRead _ _ _).trans h.read,
      fun g hin hne => (takeRoot_regRead _ _ _).trans (h.others g hin hne)⟩

/-- An entry of the identity table replaced. -/
def setIdtab (s : State) (n : Nat) (v : DWord) : State := { s with fab := { s.fab with idtab := tset 0 s.fab.idtab n v } }

/-- The entries and early reports of a launch that no entry names any more are dropped, which no register shows. -/
def forgetLaunch (s : State) (ident : Word) : State :=
  { (s.freeEntries fun x => x.key.ident == ident) with
    dealer := { s.dealer with early := s.dealer.early.filter fun x => x.1 != ident } }

theorem forgetLaunch_regRead (s : State) (ident : Word) (h : Reg) : (forgetLaunch s ident).regRead h = s.regRead h := by
  cases h <;> rfl

theorem setIdtab_written (s : State) {n : Nat} {v m : DWord} (hw : twf 0 s.fab.idtab = true) :
    RegWritten s (setIdtab s n (v &&& m)) (.idtab n) v m 0 0 := by
  refine .readWrite rfl rfl ?_ fun h _ hne => ?_
  · simp only [State.regRead, setIdtab, tget_tset _ _ _ hw]
    exact ofNat_toNat_dword _
  · cases h with
    | idtab p =>
      have hp : n ≠ p := fun he => hne (by rw [he])
      simp only [State.regRead, setIdtab, tget_tset_ne _ _ hp]
    | _ => rfl

theorem idtab_write (s : State) {n : Nat} (v : DWord) (hn : n < 1024) :
    s.regWrite (.idtab n) v = setIdtab s n (v &&& 0x80000000FFFFFFFF#64) ∨
      ∃ ident, s.regWrite (.idtab n) v = forgetLaunch (setIdtab s n (v &&& 0x80000000FFFFFFFF#64)) ident := by
  simp only [State.regWrite, execIdtabWrite, if_neg (Nat.not_le.2 hn)]
  split
  · exact .inr ⟨_, rfl⟩
  · exact .inl rfl

theorem idtab_written (s : State) {n : Nat} (v : DWord) (hn : n < 1024) (hw : twf 0 s.fab.idtab = true) :
    RegWritten s (s.regWrite (.idtab n) v) (.idtab n) v 0x80000000FFFFFFFF 0 0 := by
  have h := setIdtab_written s (n := n) (v := v) (m := 0x80000000FFFFFFFF#64) hw
  rcases idtab_write s v hn with he | ⟨ident, he⟩ <;> rw [he]
  · exact h
  · exact ⟨h.mem, h.crews, (forgetLaunch_regRead _ _ _).trans h.read,
      fun g hin hne => (forgetLaunch_regRead _ _ _).trans (h.others g hin hne)⟩

theorem mbCmd_written (s : State) {k : Nat} (v : DWord) (hk : k < s.dbg.mbCmd.length) :
    RegWritten s (s.regWrite (.mbCmd k) v) (.mbCmd k) v (BitVec.allOnes 64) 0 0 := by
  refine .readWrite rfl rfl ?_ fun h _ hne => ?_
  · simp only [State.regRead, State.regWrite, List.getElem?_set_self hk, Option.getD_some, BitVec.and_allOnes]
    exact ofNat_toNat_dword _
  · cases h with
    | mbCmd j =>
      have hj : k ≠ j := fun he => hne (by rw [he])
      simp only [State.regRead, State.regWrite, List.getElem?_set_ne hj]
    | _ => rfl

/-! ### Migration slots, queues and watchpoints (R72, R366, R425) -/

/-- An entry replaced by one of which a view shows the same, but at its own place. -/
theorem map_getElem?_set {α β : Type} {l : List α} {n : Nat} {x y : α} (f : α → β) (hx : l[n]? = some x) (j : Nat)
    (hf : j = n → f y = f x) : (l.set n y)[j]?.map f = l[j]?.map f := by
  by_cases hj : n = j
  · subst hj
    have hn : n < l.length := (List.getElem?_eq_some_iff.1 hx).1
    rw [List.getElem?_set_self hn, hx, Option.map_some, Option.map_some, hf rfl]
  · rw [List.getElem?_set_ne hj]

/-- What the words of a migration slot read as. -/
def migWord (m : MigSlot) : Nat → Nat
  | 0 => m.src.toNat
  | 1 => m.dst.toNat
  | 3 => fieldAt m.state.toNat 60 + m.line.toNat
  | _ => 0

theorem regRead_mig (s : State) (n k : Nat) :
    s.regRead (.mig n k) = BitVec.ofNat 64 ((s.xlat.migs[n]?.map (migWord · k)).getD 0) := by
  simp only [State.regRead]
  cases s.xlat.migs[n]? with
  | none => rfl
  | some m =>
    match k with
    | 0 | 1 | 2 | 3 | _ + 4 => rfl

theorem setMig_written {s : State} {n k : Nat} {m x : MigSlot} {v rw : DWord} (hm : s.xlat.migs[n]? = some m)
    (hk : BitVec.ofNat 64 (migWord x k) = v &&& rw) (ho : ∀ j, j ≠ k → migWord x j = migWord m j) :
    RegWritten s (s.setMig n x) (.mig n k) v rw 0 0 := by
  have hn : n < s.xlat.migs.length := (List.getElem?_eq_some_iff.1 hm).1
  refine .readWrite rfl rfl ?_ fun h _ hne => ?_
  · rw [regRead_mig, ← hk]
    simp only [State.setMig, List.getElem?_set_self hn, Option.map_some, Option.getD_some]
  · cases h with
    | mig p j =>
      rw [regRead_mig, regRead_mig]
      refine congrArg (fun x => BitVec.ofNat 64 (Option.getD x 0)) (map_getElem?_set _ hm p ?_)
      rintro rfl
      exact ho j fun hj => hne (by rw [hj])
    | _ => rfl

theorem migSource_written (s : State) {n : Nat} (v : DWord) (hn : n < s.xlat.migs.length) :
    RegWritten s (s.regWrite (.mig n 0) v) (.mig n 0) v 0x3FFFFFFFFFFF0000 0 0 := by
  have hm : s.xlat.migs[n]? = some s.xlat.migs[n] := List.getElem?_eq_getElem hn
  simp only [State.regWrite, State.migWrite, hm]
  refine setMig_written hm (ofNat_toNat_dword _) fun j hj => ?_
  match j with
  | 0 => exact absurd rfl hj
  | 1 | 2 | 3 | _ + 4 => rfl

theorem migDestination_written (s : State) {n : Nat} (v : DWord) (hn : n < s.xlat.migs.length) :
    RegWritten s (s.regWrite (.mig n 1) v) (.mig n 1) v 0x000FFFFFFFFF0000 0 0 := by
  have hm : s.xlat.migs[n]? = some s.xlat.migs[n] := List.getElem?_eq_getElem hn
  simp only [State.regWrite, State.migWrite, hm]
  refine setMig_written hm (ofNat_toNat_dword _) fun j hj => ?_
  match j with
  | 1 => exact absurd rfl hj
  | 0 | 2 | 3 | _ + 4 => rfl

theorem migStatus_write (s : State) (n : Nat) (v : DWord) : s.regWrite (.mig n 3) v = s := by
  simp only [State.regWrite, State.migWrite]
  split <;> rfl

/-- What the words of a submission queue read as. -/
def queueWord (q : SubQueue) : Nat → Nat
  | 0 => fieldAt q.base 12
  | 1 => fieldAt (b2n q.en) 63 + fieldAt (b2n q.ovr) 15 + fieldAt q.asid.toNat 8 + q.log2size.toNat
  | 2 => q.tail.toNat
  | _ => q.head.toNat

theorem regRead_queue (s : State) (n k : Nat) :
    s.regRead (.queue n k) = BitVec.ofNat 64 ((s.dealer.queues[n]?.map (queueWord · k)).getD 0) := by
  simp only [State.regRead]
  cases s.dealer.queues[n]? with
  | none => rfl
  | some q =>
    match k with
    | 0 | 1 | 2 | _ + 3 => rfl

/-- The state with a submission queue replaced. -/
def setQueue (s : State) (n : Nat) (q : SubQueue) : State :=
  { s with dealer := { s.dealer with queues := s.dealer.queues.set n q } }

theorem setQueue_written {s : State} {n k : Nat} {q x : SubQueue} {v rw w1c ro : DWord} (hq : s.dealer.queues[n]? = some q)
    (hk : BitVec.ofNat 64 (queueWord x k) = accessed v (BitVec.ofNat 64 (queueWord q k)) rw w1c ro)
    (ho : ∀ j, j ≠ k → queueWord x j = queueWord q j) : RegWritten s (setQueue s n x) (.queue n k) v rw w1c ro := by
  have hn : n < s.dealer.queues.length := (List.getElem?_eq_some_iff.1 hq).1
  refine ⟨rfl, rfl, ?_, fun h _ hne => ?_⟩
  · rw [regRead_queue, regRead_queue, hq]
    simp only [setQueue, List.getElem?_set_self hn, Option.map_some, Option.getD_some]
    exact hk
  · cases h with
    | queue p j =>
      rw [regRead_queue, regRead_queue]
      refine congrArg (fun x => BitVec.ofNat 64 (Option.getD x 0)) (map_getElem?_set _ hq p ?_)
      rintro rfl
      exact ho j fun hj => hne (by rw [hj])
    | _ => rfl

theorem queueBase_word (v : DWord) : BitVec.ofNat 64 (fieldAt (bits v.toNat 12 40) 12) = v &&& 0x000FFFFFFFFFF000#64 := by
  rw [show bits v.toNat 12 40 = (v.extractLsb' 12 40).toNat from rfl, ofNat_field]
  congr 1

theorem queueBase_written (s : State) {n : Nat} (v : DWord) (hn : n < s.dealer.queues.length) :
    RegWritten s (s.regWrite (.queue n 0) v) (.queue n 0) v 0x000FFFFFFFFFF000 0 0 := by
  have hq : s.dealer.queues[n]? = some s.dealer.queues[n] := List.getElem?_eq_getElem hn
  simp only [State.regWrite, State.queueWrite, hq]
  refine setQueue_written hq ((queueBase_word v).trans (accessed_readWrite _ _ _).symm) fun j hj => ?_
  match j with
  | 0 => exact absurd rfl hj
  | 1 | 2 | _ + 3 => rfl

theorem queueControl_written (s : State) {n : Nat} (v : DWord) (hn : n < s.dealer.queues.length) :
    RegWritten s (s.regWrite (.queue n 1) v) (.queue n 1) v 0x8000000000003F1F 0x8000 0 := by
  have hq : s.dealer.queues[n]? = some s.dealer.queues[n] := List.getElem?_eq_getElem hn
  simp only [State.regWrite, State.queueWrite, hq]
  refine setQueue_written hq (queueControl_word v _ _ _ _) fun j hj => ?_
  match j with
  | 1 => exact absurd rfl hj
  | 0 | 2 | _ + 3 => rfl

theorem queueHead_write (s : State) (n : Nat) (v : DWord) : s.regWrite (.queue n 3) v = s := by
  simp only [State.regWrite, State.queueWrite]
  split <;> rfl

/-- What the words of a watchpoint read as; `busy` says that it has paused a copy. -/
def watchWord (busy : Nat) (w : Watch) : Nat → Nat
  | 0 => w.w0.toNat
  | 1 => w.w1.toNat
  | 2 => w.w2.toNat
  | _ => busy

theorem regRead_watch (s : State) (n k : Nat) :
    s.regRead (.watch n k) = BitVec.ofNat 64 ((s.dbg.watches[n]?.map
      (watchWord (b2n (s.eng.copies.any fun q => q.phase == .watched n)) · k)).getD 0) := by
  simp only [State.regRead]
  cases s.dbg.watches[n]? with
  | none => rfl
  | some w =>
    match k with
    | 0 | 1 | 2 | _ + 3 => rfl

/-- The state with a watchpoint's words replaced. -/
def setWatch (s : State) (n : Nat) (w : Watch) : State := { s with dbg := { s.dbg with watches := s.dbg.watches.set n w } }

theorem setWatch_written {s : State} {n k : Nat} {w x : Watch} {v rw : DWord} (hw : s.dbg.watches[n]? = some w)
    (hk : ∀ b, BitVec.ofNat 64 (watchWord b x k) = v &&& rw) (ho : ∀ b j, j ≠ k → watchWord b x j = watchWord b w j) :
    RegWritten s (setWatch s n x) (.watch n k) v rw 0 0 := by
  have hn : n < s.dbg.watches.length := (List.getElem?_eq_some_iff.1 hw).1
  refine .readWrite rfl rfl ?_ fun h _ hne => ?_
  · rw [regRead_watch]
    simp only [setWatch, List.getElem?_set_self hn, Option.map_some, Option.getD_some]
    exact hk _
  · cases h with
    | watch p j =>
      rw [regRead_watch, regRead_watch]
      refine congrArg (fun x => BitVec.ofNat 64 (Option.getD x 0)) (map_getElem?_set _ hw p ?_)
      rintro rfl
      exact ho _ j fun hj => hne (by rw [hj])
    | _ => rfl

/-- The bits of a watchpoint's word that a write sets. -/
def watchMask : Nat → DWord
  | 1 => 0xC0FFFFFFFFFFFFFF
  | _ => BitVec.allOnes 64

theorem watch_written (s : State) {n k : Nat} (v : DWord) (hk : k < 3) (hn : n < s.dbg.watches.length) :
    RegWritten s (s.regWrite (.watch n k) v) (.watch n k) v (watchMask k) 0 0 := by
  have hw : s.dbg.watches[n]? = some s.dbg.watches[n] := List.getElem?_eq_getElem hn
  have hall : BitVec.ofNat 64 v.toNat = v &&& BitVec.allOnes 64 := by rw [BitVec.and_allOnes, ofNat_toNat_dword]
  match k with
  | 0 =>
    simp only [State.regWrite, State.watchWrite, hw]
    refine setWatch_written hw (fun _ => hall) fun b j hj => ?_
    match j with
    | 0 => exact absurd rfl hj
    | 1 | 2 | _ + 3 => rfl
  | 1 =>
    simp only [State.regWrite, State.watchWrite, hw]
    refine setWatch_written hw (fun _ => ofNat_toNat_dword _) fun b j hj => ?_
    match j with
    | 1 => exact absurd rfl hj
    | 0 | 2 | _ + 3 => rfl
  | 2 =>
    simp only [State.regWrite, State.watchWrite, hw]
    refine setWatch_written hw (fun _ => hall) fun b j hj => ?_
    match j with
    | 2 => exact absurd rfl hj
    | 0 | 1 | _ + 3 => rfl
  | k + 3 => omega

/-! ### Partition blocks (R421) -/

theorem part_setPart_same (s : State) (p : Nat) (d : PartDebug) : (s.setPart p d).part p = d := by
  simp [State.setPart, State.part]

theorem part_setPart_ne (s : State) {p q : Nat} (d : PartDebug) (h : q ≠ p) : (s.setPart p d).part q = s.part q := by
  have hf : (s.dbg.parts.filter fun x => x.1 != p).find? (fun x => x.1 == q) = s.dbg.parts.find? fun x => x.1 == q := by
    rw [List.find?_filter]
    congr 1
    funext x
    by_cases hx : x.1 = q
    · simp [hx, h]
    · simp [hx]
  simp only [State.setPart, State.part, List.find?_cons, beq_eq_false_iff_ne.2 (Ne.symm h), hf]

/-- The partition whose block a register belongs to. -/
def partOf : Reg → Option Nat
  | .dbgCtl p | .dbgStat p | .abp p _ | .counter p _ => some p
  | _ => none

/-- What the registers of a partition's block read as. -/
def partWord (d : PartDebug) : Reg → Nat
  | .dbgCtl _ =>
    fieldAt d.place.toNat 58 + fieldAt (b2n d.claim) 57 + fieldAt (b2n d.sample) 56 + fieldAt d.sper.toNat 51
  | .dbgStat _ =>
    fieldAt (b2n d.halted) 63 + fieldAt d.why.toNat 59 + fieldAt d.num.toNat 55 + fieldAt d.tag.toNat 48 + fieldAt d.cplace.toNat 45
  | .abp _ n => ((d.abp[n]?).getD 0).toNat
  | .counter _ k => ((d.counters[k]?).getD 0).toNat
  | _ => 0

theorem regRead_part (s : State) {g : Reg} {p : Nat} (h : partOf g = some p) : s.regRead g = BitVec.ofNat 64 (partWord (s.part p) g) := by
  cases g with
  | dbgCtl | dbgStat | abp | counter =>
    cases h
    rfl
  | _ => cases h

theorem regRead_setPart_of_no_part (s : State) {g : Reg} (p : Nat) (d : PartDebug) (h : partOf g = none) :
    (s.setPart p d).regRead g = s.regRead g := by
  cases g with
  | dbgCtl | dbgStat | abp | counter => cases h
  | _ => rfl

/-- A partition's block replaced by one that reads alike in a register. -/
theorem regRead_setPart {s : State} {p : Nat} {d : PartDebug} {g : Reg} (hd : partOf g = some p → partWord d g = partWord (s.part p) g) :
    (s.setPart p d).regRead g = s.regRead g := by
  cases hg : partOf g with
  | none => exact regRead_setPart_of_no_part s p d hg
  | some q =>
    rw [regRead_part _ hg, regRead_part _ hg]
    by_cases hq : q = p
    · subst hq
      rw [part_setPart_same, hd hg]
    · rw [part_setPart_ne s d hq]

theorem abp_written (s : State) {p n : Nat} (v : DWord) (hp : s.pidExists p = true) (hn : n < (s.part p).abp.length) :
    RegWritten s (s.regWrite (.abp p n) v) (.abp p n) v 0xBFFFFFFFFFFFFFFC 0 0 := by
  simp only [State.regWrite, hp, if_true]
  refine .readWrite rfl rfl ?_ fun h _ hne => regRead_setPart fun hh => ?_
  · rw [regRead_part _ rfl, part_setPart_same]
    simp only [partWord, List.getElem?_set_self hn, Option.getD_some]
    exact ofNat_toNat_dword _
  · cases h with
    | abp q j =>
      cases hh
      have hj : n ≠ j := fun he => hne (by rw [he])
      simp only [partWord, List.getElem?_set_ne hj]
    | _ => rfl

/-- The state with the fields of DBGCTL set. -/
def setDbgCtl (s : State) (p : Nat) (v : DWord) : State :=
  s.setPart p { s.part p with
    place := v.extractLsb' 58 3, claim := v.getLsbD 57, sample := v.getLsbD 56, sper := v.extractLsb' 51 5 }

theorem setDbgCtl_read (s : State) (p : Nat) (v : DWord) : (setDbgCtl s p v).regRead (.dbgCtl p) = v &&& 0x1FF8000000000000#64 := by
  rw [regRead_part _ rfl, setDbgCtl, part_setPart_same]
  exact dbgCtl_word v

theorem setDbgCtl_others (s : State) {p : Nat} (v : DWord) {h : Reg} (hne : h ≠ .dbgCtl p) :
    (setDbgCtl s p v).regRead h = s.regRead h := by
  refine regRead_setPart fun hh => ?_
  cases h with
  | dbgCtl q =>
    cases hh
    exact absurd rfl hne
  | _ => rfl

/-! ### Commands -/

/-- A command register passes on what its command comes to. -/
theorem next_orStay {s : State} {o : Out} (h : ∃ t, o = .next t) : Host.Outcome.next (s.orStay o) = o := by
  obtain ⟨t, rfl⟩ := h
  rfl

theorem exec_registerWrite_at {off : Nat} {g : Reg} (s : State) (v : DWord) (h : regAt off = some g) :
    exec (.registerWrite off v) s = .next (s.regWrite g v) := by
  rw [exec_registerWrite, execRegisterWrite, h]

theorem exec_registerWrite_nowhere {off : Nat} (s : State) (v : DWord) (h : regAt off = none) :
    exec (.registerWrite off v) s = .next s := by
  rw [exec_registerWrite, execRegisterWrite, h]

theorem exec_registerWrite_completes (off : Nat) (s : State) (v : DWord) : ∃ t, exec (.registerWrite off v) s = .next t := by
  cases h : regAt off with
  | none => exact ⟨s, exec_registerWrite_nowhere s v h⟩
  | some g => exact ⟨_, exec_registerWrite_at s v h⟩

theorem execDrain_completes (s : State) : ∃ t, execDrain s = .next t := by
  unfold execDrain
  split <;> exact ⟨_, rfl⟩

theorem execMigrate_completes (n : Nat) (v : DWord) (s : State) : ∃ t, execMigrate n v s = .next t := by
  unfold execMigrate
  split
  · exact ⟨_, rfl⟩
  · split <;> exact ⟨_, rfl⟩

theorem execSubmissionTailWrite_completes (n : Nat) (v : DWord) (s : State) : ∃ t, execSubmissionTailWrite n v s = .next t := by
  unfold execSubmissionTailWrite
  split <;> exact ⟨_, rfl⟩

theorem execDbgStop_completes (p : Nat) (s : State) : ∃ t, execDbgStop p s = .next t := by
  unfold execDbgStop
  split
  · exact ⟨_, rfl⟩
  · split <;> exact ⟨_, rfl⟩

theorem execDbgResume_completes (p : Nat) (s : State) : ∃ t, execDbgResume p s = .next t := by
  unfold execDbgResume
  split
  · exact ⟨_, rfl⟩
  · dsimp only
    split <;> exact ⟨_, rfl⟩

theorem execDbgStep_completes (p : Nat) (s : State) : ∃ t, execDbgStep p s = .next t := by
  unfold execDbgStep
  split
  · exact ⟨_, rfl⟩
  · dsimp only
    split <;> exact ⟨_, rfl⟩

theorem drainCmd_write (s : State) {v : DWord} (hv : v.getLsbD 63 = true) : .next (s.regWrite .drainCmd v) = exec .drain s := by
  simp only [State.regWrite, hv, if_true]
  exact next_orStay (execDrain_completes s)

theorem migControl_write {s : State} {n : Nat} (v : DWord) (hn : n < s.xlat.migs.length) :
    .next (s.regWrite (.mig n 2) v) = exec (.migrate n v) s := by
  simp only [State.regWrite, State.migWrite, List.getElem?_eq_getElem hn]
  exact next_orStay (execMigrate_completes n v s)

theorem queueTail_write {s : State} {n : Nat} (v : DWord) (hn : n < s.dealer.queues.length) :
    .next (s.regWrite (.queue n 2) v) = exec (.submissionTailWrite n v) s := by
  simp only [State.regWrite, State.queueWrite, List.getElem?_eq_getElem hn]
  exact next_orStay (execSubmissionTailWrite_completes n v s)

theorem watchResume_write {s : State} {n : Nat} {v : DWord} (hn : n < s.dbg.watches.length) (hv : v.getLsbD 63 = true) :
    .next (s.regWrite (.watch n 3) v) = exec (.watchResume n) s := by
  simp only [State.regWrite, State.watchWrite, List.getElem?_eq_getElem hn, hv, if_true]
  exact next_orStay ⟨_, rfl⟩

theorem invCmd_write (s : State) {v : DWord} (hv : v.getLsbD 63 = true) :
    (bits v.toNat 60 3 = 0 → .next (s.regWrite .invCmd v) = exec (.invalidateRange (v.extractLsb' 0 32)) s) ∧
    (bits v.toNat 60 3 = 1 → .next (s.regWrite .invCmd v) = exec .invalidateAsid s) ∧
    (bits v.toNat 60 3 = 2 → .next (s.regWrite .invCmd v) = exec .invalidateAll s) := by
  refine ⟨fun hm => ?_, fun hm => ?_, fun hm => ?_⟩ <;>
    simp only [State.regWrite, State.invWrite, hv, hm, Bool.not_true, Bool.false_eq_true, if_false] <;> rfl

/-- A write of DBGCTL: its fields, and the commands whose bits are set. -/
theorem dbgCtl_write {s : State} {p : Nat} (v : DWord) (hp : s.pidExists p = true) :
    s.regWrite (.dbgCtl p) v =
      (let s := setDbgCtl s p v
       let s := if v.getLsbD 50 then s.orStay (execCtrclr p s) else s
       let s := if v.getLsbD 63 then s.orStay (execDbgStop p s) else s
       let s := if v.getLsbD 62 then s.orStay (execDbgResume p s) else s
       if v.getLsbD 61 then s.orStay (execDbgStep p s) else s) := by
  simp only [State.regWrite, State.dbgWrite, hp, Bool.not_true, Bool.false_eq_true, if_false]
  rfl

/-- The command bits of a word written to DBGCTL. -/
theorem dbgCommands {v w : DWord} (h : v &&& 0xE004000000000000 = w) :
    v.getLsbD 50 = w.getLsbD 50 ∧ v.getLsbD 61 = w.getLsbD 61 ∧ v.getLsbD 62 = w.getLsbD 62 ∧ v.getLsbD 63 = w.getLsbD 63 := by
  subst h
  simp only [BitVec.getLsbD_and]
  refine ⟨?_, ?_, ?_, ?_⟩ <;> exact (Bool.and_true _).symm

theorem dbgCtl_write_plain {s : State} {p : Nat} {v : DWord} (hp : s.pidExists p = true) (hv : v &&& 0xE004000000000000 = 0) :
    s.regWrite (.dbgCtl p) v = setDbgCtl s p v := by
  obtain ⟨h50, h61, h62, h63⟩ := dbgCommands hv
  rw [dbgCtl_write v hp, h50, h61, h62, h63]
  rfl

theorem dbgCtl_write_command {s : State} {p : Nat} {v : DWord} (hp : s.pidExists p = true) :
    (v &&& 0xE004000000000000 = 0x8000000000000000 → .next (s.regWrite (.dbgCtl p) v) = exec (.dbgStop p) (setDbgCtl s p v)) ∧
    (v &&& 0xE004000000000000 = 0x4000000000000000 → .next (s.regWrite (.dbgCtl p) v) = exec (.dbgResume p) (setDbgCtl s p v)) ∧
    (v &&& 0xE004000000000000 = 0x2000000000000000 → .next (s.regWrite (.dbgCtl p) v) = exec (.dbgStep p) (setDbgCtl s p v)) ∧
    (v &&& 0xE004000000000000 = 0x0004000000000000 → .next (s.regWrite (.dbgCtl p) v) = exec (.ctrclr p) (setDbgCtl s p v)) := by
  refine ⟨fun hv => ?_, fun hv => ?_, fun hv => ?_, fun hv => ?_⟩ <;> obtain ⟨h50, h61, h62, h63⟩ := dbgCommands hv <;>
    rw [dbgCtl_write v hp, h50, h61, h62, h63]
  · exact next_orStay (execDbgStop_completes p _)
  · exact next_orStay (execDbgResume_completes p _)
  · exact next_orStay (execDbgStep_completes p _)
  · rfl

/-! ### A write by the access code of its register (R8) -/

/-- The bits of a register that a write sets, those that it clears by writing 1, and those that stay; none of a command register. -/
def accessOf : Reg → Option (DWord × DWord × DWord)
  | .ident | .unitcnt | .corecnt0 | .corecnt1 | .route _ | .clmap _ | .linkStat _ | .staleCnt | .drainStat | .mbStat | .dbgStat _
  | .counter .. | .ring _ 2 | .mig _ 3 | .queue _ 3 => some (0, 0, BitVec.allOnes 64)
  | .apwin => some (0x00000FFFC0000000, 0, 0)
  | .ring _ 0 => some (0xFFFFFFFFFFFFF000, 0, 0)
  | .ring _ 1 => some (0x800000000000001F, 0, 0)
  | .ring _ 3 | .preemptGang => some (0xFFFFFFFF, 0, 0)
  | .ring .access 4 => some (0, 0, BitVec.allOnes 64)
  | .ring _ 4 => some (0, 1, 0xFFFFFFFFFFFFFFFE)
  | .asctx _ 0 => some (0x000FFFFFFFFFF001, 0, 0)
  | .asctx _ 1 => some (0x800FFFFF0FFF00FF, 0, 0)
  | .asctx _ 2 => some (0x000000009F9F0000, 0, 0)
  | .replayAddr | .invAddr | .mig _ 0 => some (0x3FFFFFFFFFFF0000, 0, 0)
  | .replayStat => some (0, 2, 0xFFFFFFFF00000000)
  | .invStat | .preemptStat => some (0, 2, 1)
  | .mig _ 1 => some (0x000FFFFFFFFF0000, 0, 0)
  | .queue _ 0 => some (0x000FFFFFFFFFF000, 0, 0)
  | .queue _ 1 => some (0x8000000000003F1F, 0x8000, 0)
  | .etoCtl => some (0xFFFFFFFFFF, 0, 0)
  | .idtab _ => some (0x80000000FFFFFFFF, 0, 0)
  | .dumpBase => some (0xFFFFFFFFFFFFF001, 0, 0)
  | .mbCmd _ | .watch _ 0 | .watch _ 2 => some (BitVec.allOnes 64, 0, 0)
  | .watch _ 1 => some (0xC0FFFFFFFFFFFFFF, 0, 0)
  | .abp .. => some (0xBFFFFFFFFFFFFFFC, 0, 0)
  | _ => none

/-- The register is there, and the tables it lies in are in canonical form. -/
def Present (s : State) : Reg → Prop
  | .mig n _ => n < s.xlat.migs.length
  | .queue n _ => n < s.dealer.queues.length
  | .mbCmd k => k < s.dbg.mbCmd.length
  | .watch n _ => n < s.dbg.watches.length
  | .abp p n => s.pidExists p = true ∧ n < (s.part p).abp.length
  | .asctx .. => twf 0 s.xlat.asctx = true
  | .idtab _ => twf 0 s.fab.idtab = true
  | _ => True

theorem ring_written (s : State) (i : RingId) {k : Nat} {v rw w1c ro : DWord} (ha : accessOf (.ring i k) = some (rw, w1c, ro)) :
    RegWritten s (s.regWrite (.ring i k) v) (.ring i k) v rw w1c ro := by
  match k with
  | 0 => cases ha; exact ringBase_written s i v
  | 1 => cases ha; exact ringControl_written s i v
  | 2 => cases ha; exact .readOnly v rfl
  | 3 => cases ha; exact ringGet_written s i v
  | 4 =>
    by_cases hi : i = .access
    · subst hi
      cases ha
      exact .readOnly v rfl
    · have hs : accessOf (.ring i 4) = some (0, 1, 0xFFFFFFFFFFFFFFFE) := by
        cases i with
        | access => exact absurd rfl hi
        | _ => rfl
      cases hs.symm.trans ha
      exact ringStatus_written s hi v
  | _ + 5 => cases ha

theorem access_written {s : State} {g : Reg} {v rw w1c ro : DWord} (hin : RegInRange g) (ha : accessOf g = some (rw, w1c, ro))
    (hp : Present s g) : RegWritten s (s.regWrite g v) g v rw w1c ro := by
  cases g with
  | ident | unitcnt | corecnt0 | corecnt1 | route | clmap | linkStat | staleCnt | drainStat | mbStat | dbgStat | counter =>
    cases ha
    exact .readOnly v rfl
  | apwin => cases ha; exact apwin_written s v
  | ring i k => exact ring_written s i ha
  | asctx n k =>
    match k with
    | 0 | 1 | 2 => cases ha; exact asctx_written s v hin hp
    | _ + 3 => cases ha
  | replayAddr => cases ha; exact replayAddr_written s v
  | replayStat => cases ha; exact replayStat_written s v
  | invAddr => cases ha; exact invAddr_written s v
  | invStat => cases ha; exact invStat_written s v
  | mig n k =>
    match k with
    | 0 => cases ha; exact migSource_written s v hp
    | 1 => cases ha; exact migDestination_written s v hp
    | 3 => cases ha; exact .readOnly v (migStatus_write s n v)
    | 2 | _ + 4 => cases ha
  | preemptGang => cases ha; exact preemptGang_written s v
  | preemptStat => cases ha; exact preemptStat_written s v
  | queue n k =>
    match k with
    | 0 => cases ha; exact queueBase_written s v hp
    | 1 => cases ha; exact queueControl_written s v hp
    | 3 => cases ha; exact .readOnly v (queueHead_write s n v)
    | 2 | _ + 4 => cases ha
  | etoCtl => cases ha; exact etoCtl_written s v
  | idtab n => cases ha; exact idtab_written s v hin hp
  | dumpBase => cases ha; exact dumpBase_written s v
  | mbCmd k => cases ha; exact mbCmd_written s v hp
  | abp p n => cases ha; exact abp_written s v hp.1 hp.2
  | watch n k =>
    match k with
    | 0 => cases ha; exact watch_written s v (by decide) hp
    | 1 => cases ha; exact watch_written s v (by decide) hp
    | 2 => cases ha; exact watch_written s v (by decide) hp
    | _ + 3 => cases ha
  | replayCmd | invCmd | preemptCmd | drainCmd | mbDoor | dbgCtl => cases ha

/-- A write at the offset of a register of the access codes RW, W1C and RO. -/
theorem registerWrite_access {s : State} {off : Nat} {g : Reg} {v rw w1c ro : DWord} (hoff : regAt off = some g)
    (ha : accessOf g = some (rw, w1c, ro)) (hp : Present s g) :
    ∃ t, exec (.registerWrite off v) s = .next t ∧ t.mem = s.mem ∧ t.crews = s.crews ∧
      t.regRead g = (v &&& rw) ||| (s.regRead g &&& w1c &&& ~~~v) ||| (s.regRead g &&& ro) ∧
      ∀ o h, regAt o = some h → h ≠ g → t.regRead h = s.regRead h := by
  have h := access_written (v := v) (regAt_inRange hoff) ha hp
  exact ⟨_, exec_registerWrite_at s v hoff, h.mem, h.crews, h.read, fun _ k hk => h.others k (regAt_inRange hk)⟩

theorem registerWrite_apwin (s : State) {off : Nat} (v : DWord) (hoff : off = 0x08) :
    ∃ t, exec (.registerWrite off v) s = .next t ∧ t.regRead .apwin = v &&& 0x00000FFFC0000000#64 ∧ t.mem = s.mem := by
  subst hoff
  have h := apwin_written s v
  exact ⟨_, exec_registerWrite_at s v rfl, h.read.trans (accessed_readWrite _ _ _), h.mem⟩

theorem registerWrite_dbgCtl {s : State} {off p : Nat} {v : DWord} (hoff : regAt off = some (.dbgCtl p)) (hp : s.pidExists p = true)
    (hv : v &&& 0xE004000000000000 = 0) :
    ∃ t, exec (.registerWrite off v) s = .next t ∧ t.mem = s.mem ∧ t.crews = s.crews ∧
      t.regRead (.dbgCtl p) = v &&& 0x1FF8000000000000 ∧ ∀ o h, regAt o = some h → h ≠ .dbgCtl p → t.regRead h = s.regRead h := by
  refine ⟨_, exec_registerWrite_at s v hoff, ?_⟩
  rw [dbgCtl_write_plain hp hv]
  exact ⟨rfl, rfl, setDbgCtl_read s p v, fun _ _ _ hne => setDbgCtl_others s v hne⟩

theorem registerWrite_command {s : State} {off : Nat} {g : Reg} {v : DWord} {o : Out} (h : .next (s.regWrite g v) = o)
    (hoff : regAt off = some g) : exec (.registerWrite off v) s = o :=
  (exec_registerWrite_at s v hoff).trans h

/-- Settles O59, clause by clause: the host's accesses (log entry 91), its snoops (log entry 107), requests and atomics of other
packages, links and supply, firmware and SPDM (log entries 22 and 92 are the model's choice), and the register space (log entry 126). -/
theorem platformEvents : Obligations.PlatformEvents := by
  unfold Obligations.PlatformEvents
  refine ⟨bar2Access_serves, cxlMemAccess_serves, fun s line write => ⟨exec_hostSnoop_beyond s write, hostSnoop_good s write,
      fun hl _ hb => hostSnoop_bad s write hl hb⟩,
    fun s src addr n => ⟨remoteReadRequest_own s addr n, remoteReadRequest_outside addr n, remoteReadRequest_serves s src addr n⟩,
    remoteReadRequest_atomic,
    fun s rev rate width => ⟨cxlLinkTraining_untrained s rate, cxlLinkTraining_trained s rate⟩,
    fun s die hd => ⟨supplyDroop_sets s hd, supplyRecovery_clears s hd⟩,
    fun s images cfg hb hr => ⟨firmwareBoot_refused cfg hb hr, firmwareBoot_boots cfg hb hr⟩,
    spdmRequest_serves, fun s off v _ => ?_⟩
  refine ⟨exec_registerWrite_completes off s v, exec_registerWrite_nowhere s v, registerWrite_apwin s v,
    fun p hp => exec_registerWrite_at s v hp, fun g rw w1c ro hoff ha hp => registerWrite_access hoff ha hp,
    fun p hoff hp hv => registerWrite_dbgCtl hoff hp hv, ?_⟩
  refine ⟨registerWrite_command rfl, fun hv => registerWrite_command (drainCmd_write s hv), registerWrite_command rfl,
    fun n hn => registerWrite_command (migControl_write v hn), fun n hn => registerWrite_command (queueTail_write v hn),
    fun n hn hv => registerWrite_command (watchResume_write hn hv), fun hv => ?_, fun p hoff hp => ?_⟩
  · obtain ⟨hr, ha, hall⟩ := invCmd_write s hv
    exact ⟨fun hm => registerWrite_command (hr hm), fun hm => registerWrite_command (ha hm), fun hm => registerWrite_command (hall hm)⟩
  · obtain ⟨hstop, hresume, hstep, hclear⟩ := dbgCtl_write_command (v := v) hp
    exact ⟨fun hv => registerWrite_command (hstop hv) hoff, fun hv => registerWrite_command (hresume hv) hoff,
      fun hv => registerWrite_command (hstep hv) hoff, fun hv => registerWrite_command (hclear hv) hoff⟩

end Sys2Proof.PlatformFacts
end

section
/-! SUPPORT. The course of a memory instruction: the checks of its addresses before translation, the misuse trap, the walks it asks for,
the accesses it makes, and how its slot parks for those that fail. -/

namespace Sys2Proof.AddressSpaces

open Sys2Proof Sys2Proof.Machine Sys2Proof.Safety Sys2Proof.Laws

/-! ### The dispatch of the memory instructions -/

theorem exec_of_mem_loads {i : Instr} {o : MemOp} (h : i ∈ [Instr.ldVV o, .ldVS o, .ldSS o]) (s : State) :
    exec i s = memOp i loadAll s := by
  simp only [List.mem_cons, List.not_mem_nil, or_false] at h
  obtain rfl | rfl | rfl := h <;> rfl

theorem exec_of_mem_stores {i : Instr} {o : MemOp} (h : i ∈ [Instr.stVV o, .stVS o, .stSS o]) (s : State) :
    exec i s = memOp i storeAll s := by
  simp only [List.mem_cons, List.not_mem_nil, or_false] at h
  obtain rfl | rfl | rfl := h <;> rfl

theorem exec_of_mem_atomics {i : Instr} {o : MemOp}
    (h : i ∈ [Instr.atomVV o, .atomVS o, .atomSS o, .atomrVV o, .atomrVS o, .atomrSS o, .casVV o, .casVS o, .casSS o]) (s : State) :
    exec i s = memOp i atomAll s := by
  simp only [List.mem_cons, List.not_mem_nil, or_false] at h
  obtain rfl | rfl | rfl | rfl | rfl | rfl | rfl | rfl | rfl := h <;> rfl

theorem exec_of_mem_ordered {i : Instr} {o : MemOp} (h : i ∈ [Instr.oatomVV o, .oatomVS o]) (s : State) :
    exec i s = memOp i oatomAll s := by
  simp only [List.mem_cons, List.not_mem_nil, or_false] at h
  obtain rfl | rfl := h <;> rfl

/-- The memory instructions, by their operand fields. -/
theorem memory_instr {i : Instr} {o : MemOp} (ho : i.mem? = some o) :
    i ∈ [Instr.ldVV o, .ldVS o, .ldSS o] ∨ i ∈ [Instr.stVV o, .stVS o, .stSS o] ∨
      i ∈ [Instr.atomVV o, .atomVS o, .atomSS o, .atomrVV o, .atomrVS o, .atomrSS o, .casVV o, .casVS o, .casSS o] ∨
      i ∈ [Instr.oatomVV o, .oatomVS o] ∨ i.memRow.map MemRow.kind = some .prf := by
  unfold Instr.mem? at ho
  split at ho <;> cases ho <;> simp [Instr.memRow]

/-- Every memory instruction but a prefetch takes the one course. -/
theorem exec_of_memory {i : Instr} {o : MemOp} (ho : i.mem? = some o) (hk : i.memRow.map MemRow.kind ≠ some .prf) :
    ∃ perform, ∀ s, exec i s = memOp i perform s := by
  obtain h | h | h | h | h := memory_instr ho
  · exact ⟨_, exec_of_mem_loads h⟩
  · exact ⟨_, exec_of_mem_stores h⟩
  · exact ⟨_, exec_of_mem_atomics h⟩
  · exact ⟨_, exec_of_mem_ordered h⟩
  · exact absurd h hk

/-! ### The course, stage by stage -/

section
variable {s : State} {c : Ctx} {i : Instr} {perform : Ctx → State → List Found → State}

/-- What the accesses of a memory instruction ask for, one by one. -/
def requests (c : Ctx) : List (Req × Acc) := c.accs.map fun a => (c.memReq, a)

/-- A ready memory instruction whose siblings agree and one of whose accesses fails a check made before translation. -/
theorem memOp_of_precheck {f : Req × Acc × Fail × Mask} (h : Ready s i c) (hm : c.memMismatch c.memReq = none)
    (hf : c.prechecks (requests c) = some f) :
    memOp i perform s = .next (s.finish c (c.precheckEff (s.issued c) f)) := by
  rw [requests] at hf
  simp only [memOp, issue_of_ready h, hm, hf]

/-- One whose accesses pass those checks, and are ordered-atomic misuse (R143, R311). -/
theorem memOp_of_misuse (h : Ready s i c) (hm : c.memMismatch c.memReq = none) (hf : c.prechecks (requests c) = none)
    (hu : c.misuse c.memReq c.accs = true) :
    memOp i perform s = .next (trapAt s c (TrapInfo.of 9 c.memReq.misuseSub)) := by
  rw [requests] at hf
  simp only [memOp, issue_of_ready h, hm, hf, hu, if_true]
  rfl

/-- One that passes all that comes before translation: it asks for the walks of the pages it does not know, or makes its accesses. -/
theorem memOp_of_checks (h : Ready s i c) (hc : Checks s c) :
    memOp i perform s = .next (s.finish c (match unknown s c with
      | p :: ps => c.walkFor (memBase s c) c.memReq.code (p :: ps)
      | [] => c.perform (memBase s c) (requests c) (perform c) .done)) := by
  obtain ⟨agree, checks, allowed, unwatched⟩ := hc
  simp only [memOp, issue_of_ready h, agree, checks, allowed, unwatched, Bool.false_eq_true, if_false]
  rfl

end

theorem finish_parked (s t : State) (c : Ctx) (addressed : Bool) (acc : Nat) (pages : List Nat) (unf : Option Mask) :
    s.finish c (.stay t (.parked addressed acc pages) unf) = stayed t c (.parked addressed acc pages) unf acc [] := rfl

theorem finish_walk (s t : State) (c : Ctx) (acc asid : Nat) (pages : List Nat) (unf : Option Mask) :
    s.finish c (.stay t (.blocked (.walk acc asid pages)) unf) =
      stayed t c (.blocked (.walk acc asid pages)) unf acc c.slot.walked := rfl


/-! ### What the accesses reach -/

/-- Of accesses with what they reach after translation: those that fail (R18). -/
def failedOf (xs : List (Req × Acc × Reach)) : List (Req × Acc × Reach) := xs.filter fun x => match x.2.2 with
  | .ok .. => false
  | _ => true

/-- Those that fail by a page fault, with its address and cause. -/
def pageFaultsOf (xs : List (Req × Acc × Reach)) : List (Req × Acc × Nat × Nat) := xs.filterMap fun x => match x.2.2 with
  | .page va cause => some (x.1, x.2.1, va, cause)
  | _ => none

/-- Those that fail by an address fault, with its order and kind. -/
def addrFaultsOf (xs : List (Req × Acc × Reach)) : List (Req × Acc × Nat × Nat) := xs.filterMap fun x => match x.2.2 with
  | .fault order kind => some (x.1, x.2.1, order, kind)
  | _ => none

theorem pageFaultsOf_failedOf (xs : List (Req × Acc × Reach)) : pageFaultsOf (failedOf xs) = pageFaultsOf xs := by
  rw [pageFaultsOf, failedOf, List.filterMap_filter, pageFaultsOf]
  refine congrArg (List.filterMap · xs) (funext fun x => ?_)
  cases x.2.2 <;> rfl

theorem addrFaultsOf_failedOf (xs : List (Req × Acc × Reach)) : addrFaultsOf (failedOf xs) = addrFaultsOf xs := by
  rw [addrFaultsOf, failedOf, List.filterMap_filter, addrFaultsOf]
  refine congrArg (List.filterMap · xs) (funext fun x => ?_)
  cases x.2.2 <;> rfl

/-- An access that fails does so by a page fault or by an address fault. -/
theorem faults_of_failedOf {xs : List (Req × Acc × Reach)} (h : failedOf xs ≠ []) :
    ((pageFaultsOf xs).isEmpty && (addrFaultsOf xs).isEmpty) = false := by
  obtain ⟨⟨q, a, r⟩, hx⟩ := List.exists_mem_of_ne_nil _ h
  obtain ⟨hx, hr⟩ := List.mem_filter.1 hx
  cases r with
  | ok => cases hr
  | page va cause =>
    have : (q, a, va, cause) ∈ pageFaultsOf xs := List.mem_filterMap.2 ⟨_, hx, rfl⟩
    simp [List.ne_nil_of_mem this]
  | fault order kind =>
    have : (q, a, order, kind) ∈ addrFaultsOf xs := List.mem_filterMap.2 ⟨_, hx, rfl⟩
    simp [List.ne_nil_of_mem this]

/-- The lanes that an instruction has still to serve. -/
def lanesLeft (c : Ctx) (xs : List (Req × Acc × Reach)) : Mask :=
  xs.foldl (fun m x => m ||| if x.2.1.lanes.isEmpty then c.act else x.2.1.mask) 0

/-- Accesses of one request, some of which fail: the slot parks for them (R19, R57, R59). -/
theorem parkOn_of_failed (c : Ctx) (s : State) {q : Req} {xs : List (Req × Acc × Reach)} (done : State → Eff)
    (hq : ∀ x ∈ xs, x.1 = q) (hf : failedOf xs ≠ []) :
    c.parkOn s (failedOf xs) done = .stay (c.lateFault (c.pageFaults s (pageFaultsOf xs)) (addrFaultsOf xs))
      (.parked (!(addrFaultsOf xs).isEmpty) q.code ((pageFaultsOf xs).map fun x => x.2.2.1 / 2 ^ 16).eraseDups)
      (some (lanesLeft c (failedOf xs))) := by
  have hcode : (((failedOf xs).head?).map fun x => x.1.code).getD 0 = q.code := by
    obtain ⟨x, ys, hx⟩ := List.exists_cons_of_ne_nil hf
    have hm : x ∈ failedOf xs := hx ▸ List.mem_cons_self
    rw [hx, List.head?_cons, Option.map_some, Option.getD_some, hq x (List.mem_filter.1 hm).1]
  have h := faults_of_failedOf hf
  rw [← pageFaultsOf_failedOf, ← addrFaultsOf_failedOf] at h ⊢
  unfold Ctx.parkOn
  rw [hcode]
  exact if_neg (by rw [Bool.not_eq_true]; exact h)

theorem parkOn_nil (c : Ctx) (s : State) (done : State → Eff) : c.parkOn s [] done = done s := rfl

/-- The accesses of a memory instruction with what they reach, when every page is known. -/
def results (s : State) (c : Ctx) : List (Req × Acc × Reach) := c.accs.map fun a => (c.memReq, a, c.reach (memStart s c) c.memReq a)

theorem failedOf_results {s : State} {c : Ctx} (h : Passes s c) : failedOf (results s c) = [] := by
  simp only [failedOf, results, List.filter_eq_nil_iff, List.mem_map]
  rintro _ ⟨a, ha, rfl⟩
  obtain ⟨locs, mts, hr⟩ := h.reach a ha
  simp [hr]

section
variable {s : State} {c : Ctx} {i : Instr} {perform : Ctx → State → List Found → State}

theorem perform_requests (done : State → Eff) :
    c.perform (memBase s c) (requests c) (perform c) done = c.parkOn (accessed s c perform) (failedOf (results s c)) done := by
  simp only [Ctx.perform, accessed, founds, memStart, requests, results, failedOf, List.flatMap_map, List.map_map, List.filterMap_map]
  rfl

/-- Every access passes every check: all are made (R16, R18). -/
theorem memOp_of_passes (h : Ready s i c) (hp : Passes s c) : memOp i perform s = .next (accessed s c perform) := by
  rw [memOp_of_checks h hp.toChecks]
  simp only [hp.known, perform_requests, failedOf_results hp]
  rfl

/-- A page is known to no TLB: the slot waits for the walks (R52). -/
theorem memOp_of_unknown (h : Ready s i c) (hc : Checks s c) (hu : unknown s c ≠ []) :
    memOp i perform s = .next (stayed
      ((unknown s c).foldl (fun t p => t.askWalk c.iss.unit c.lr.asid p) (memBase s c)) c
      (.blocked (.walk c.memReq.code c.lr.asid (unknown s c))) (some c.act) c.memReq.code c.slot.walked) := by
  rw [memOp_of_checks h hc]
  obtain ⟨p, ps, hp⟩ := List.exists_cons_of_ne_nil hu
  simp only [hp]
  exact congrArg _ (finish_walk _ _ _ _ _ _ _)

/-- Some accesses fail after translation: the others are made, and the slot parks (R19, R57, R59). -/
theorem memOp_of_failed (h : Ready s i c) (hc : Checks s c) (hu : unknown s c = []) (hf : failedOf (results s c) ≠ []) :
    memOp i perform s = .next (stayed
      (c.lateFault (c.pageFaults (accessed s c perform) (pageFaultsOf (results s c))) (addrFaultsOf (results s c))) c
      (.parked (!(addrFaultsOf (results s c)).isEmpty) c.memReq.code
        ((pageFaultsOf (results s c)).map fun x => x.2.2.1 / 2 ^ 16).eraseDups)
      (some (lanesLeft c (failedOf (results s c)))) c.memReq.code []) := by
  have hq : ∀ x ∈ results s c, x.1 = c.memReq := by
    intro x hx
    obtain ⟨a, -, rfl⟩ := List.mem_map.1 hx
    rfl
  rw [memOp_of_checks h hc]
  simp only [hu, perform_requests, parkOn_of_failed c _ _ hq hf]
  exact congrArg _ (finish_parked _ _ _ _ _ _ _)

end

/-- Settles O36: the four kinds of memory instruction take one course, with the accesses that each makes. -/
theorem memoryInstructions : Obligations.MemoryInstructions := by
  unfold Obligations.MemoryInstructions
  intro s c o i h _
  have course {perform : Ctx → State → List Found → State} (he : exec i s = memOp i perform s) :=
    And.intro (fun hp => he.trans (memOp_of_passes h hp)) <| And.intro (fun hc hu => he.trans (memOp_of_unknown h hc hu))
      fun hc hu hf => he.trans (memOp_of_failed h hc hu hf)
  exact ⟨fun hi => course (exec_of_mem_loads hi s), fun hi => course (exec_of_mem_stores hi s),
    fun hi => course (exec_of_mem_atomics hi s), fun hi => course (exec_of_mem_ordered hi s)⟩

end Sys2Proof.AddressSpaces
end

section
/-! SUPPORT. The checks of an access before translation. -/

namespace Sys2Proof.AddressSpaces

open Sys2Proof Sys2Proof.Machine Sys2Proof.Safety Sys2Proof.Laws

/-! ### Apertures (R14) -/

theorem aperture_none {x : Nat} (h : 2 ^ 56 ≤ x) (hx : x < 0xFFFE000000000000) : aperture x = .none := by
  rw [aperture, if_neg (by omega), if_neg (by omega), if_neg (by omega)]

theorem aperture_priv {x : Nat} (h : 0xFFFE000000000000 ≤ x) (hx : x < 0xFFFF000000000000) : aperture x = .priv := by
  rw [aperture, if_neg (by omega), if_pos (by omega)]

theorem aperture_scratchpad {x : Nat} (h : 0xFFFF000000000000 ≤ x) (hx : x < 2 ^ 64) : aperture x = .scratchpad := by
  rw [aperture, if_pos (by omega)]

theorem aperture_global_iff {x : Nat} : aperture x = .global ↔ x < 2 ^ 56 := by
  constructor
  · intro h
    unfold aperture at h
    split at h
    · cases h
    split at h
    · cases h
    split at h
    · omega
    · cases h
  · intro h
    rw [aperture, if_neg (by omega), if_neg (by omega), if_pos (by omega)]

theorem aperture_ne_none {x : Nat} (hx : x < 2 ^ 64) (h : x < 2 ^ 56 ∨ 0xFFFE000000000000 ≤ x) : aperture x ≠ .none := by
  obtain h | h := h
  · rw [aperture_global_iff.2 h]; decide
  · obtain h' | h' := Nat.lt_or_ge x 0xFFFF000000000000
    · rw [aperture_priv h h']; decide
    · rw [aperture_scratchpad h' hx]; decide

/-! ### The checks of order 1 to 5 (R18) -/

/-- An aperture refuses a use (R21, R25, R310). -/
def refuses (c : Ctx) (q : Req) : Aperture → Bool
  | .scratchpad => q.kind == .oatom || (q.rmw && c.tripleFloat q && szfMD q.szf)
  | .priv => !q.vdata || q.qual || q.rmw || c.u.isCox
  | _ => false

theorem refuses_scratchpad {c : Ctx} {q : Req} : refuses c q .scratchpad = true ↔
    q.kind = .oatom ∨ (2 ≤ q.code ∧ c.tripleFloat q = true ∧ szfMD q.szf = true) := by
  simp [refuses, Req.rmw, and_assoc]

theorem refuses_priv {c : Ctx} {q : Req} : refuses c q .priv = true ↔
    (q.vdata = false ∨ q.qual = true ∨ 2 ≤ q.code ∨ c.u.isCox = true) := by
  simp [refuses, Req.rmw, or_assoc]

/-- The last of the checks: the end of an access against what its aperture holds (R18). -/
def rangeFail (c : Ctx) (q : Req) (x : Nat) : Aperture → Option (Nat × Fail)
  | .scratchpad => if (spTarget c.iss.unit c.lr (x % 2 ^ 48) ((c.spForm q).size q.szf)).isNone then some (5, .kind 4) else none
  | .priv => if c.lr.privSize < x % 2 ^ 48 + szfSize q.szf then some (5, .stack (x % 2 ^ 48)) else none
  | _ => if 2 ^ 56 < x + (if c.tripleFloat q then 3 * szfSize q.szf else szfSize q.szf) then some (5, .kind 5) else none

section
variable {c : Ctx} {q : Req} {a : Acc}

theorem precheck_of_wrap (h : a.sum < 0 ∨ 2 ^ 64 ≤ a.sum) : c.precheck q a = some (1, .kind 2) :=
  if_pos (by simpa using h)

/-- The checks of a sum that does not wrap, in their order. -/
theorem precheck_eq (h0 : 0 ≤ a.sum) (h1 : a.sum < 2 ^ 64) : c.precheck q a =
    if aperture a.addr = .none then some (2, .kind 1)
    else if a.addr % (if q.qual then 8 else szfSize q.szf) ≠ 0 then some (3, .kind 3)
    else if refuses c q (aperture a.addr) then some (4, .kind 6)
    else rangeFail c q a.addr (aperture a.addr) := by
  have hw : (decide (a.sum < 0) || decide (2 ^ 64 ≤ a.sum)) = false := by
    rw [decide_eq_false (Int.not_lt.2 h0), decide_eq_false (Int.not_le.2 h1)]; rfl
  unfold Ctx.precheck
  rw [hw]
  simp only [beq_iff_eq]
  cases aperture a.addr <;> rfl

/-- An aligned access in an aperture. -/
theorem precheck_of_aligned (h0 : 0 ≤ a.sum) (h1 : a.sum < 2 ^ 64) {ap : Aperture} (h : aperture a.addr = ap) (hn : ap ≠ .none)
    (hx : a.addr % (if q.qual then 8 else szfSize q.szf) = 0) :
    c.precheck q a = if refuses c q ap then some (4, .kind 6) else rangeFail c q a.addr ap := by
  rw [precheck_eq h0 h1, h, if_neg hn, if_neg (fun hn => hn hx)]

end

/-- The bytes that an access of the scratchpad touches lie within it: of the issuer's workgroup, or of the one that
the address names (R21). -/
theorem spTarget_isNone (r : UnitRef) (lr : LaunchRec) (off n : Nat) : (spTarget r lr off n).isNone = true ↔
    ¬ (match r with
      | .crew .. => off + n ≤ lr.spSize
      | .cox .. => off / 2 ^ 24 < lr.wgs ∧ off % 2 ^ 24 + n ≤ lr.spSize) := by
  cases r <;> simp [spTarget]


section
variable {c : Ctx} {q : Req} {a : Acc} (h0 : 0 ≤ a.sum) (h1 : a.sum < 2 ^ 64)
include h0 h1

theorem addr_lt : a.addr < 2 ^ 64 := by rw [Acc.addr]; omega

theorem precheck_of_outside (h : 2 ^ 56 ≤ a.addr ∧ a.addr < 0xFFFE000000000000) : c.precheck q a = some (2, .kind 1) := by
  rw [precheck_eq h0 h1, if_pos (aperture_none h.1 h.2)]

theorem precheck_of_misaligned (h : a.addr < 2 ^ 56 ∨ 0xFFFE000000000000 ≤ a.addr)
    (hx : a.addr % (if q.qual then 8 else szfSize q.szf) ≠ 0) : c.precheck q a = some (3, .kind 3) := by
  rw [precheck_eq h0 h1, if_neg (aperture_ne_none (addr_lt h0 h1) h), if_pos hx]

theorem precheck_of_priv (h : 0xFFFE000000000000 ≤ a.addr) (hl : a.addr < 0xFFFF000000000000)
    (hx : a.addr % (if q.qual then 8 else szfSize q.szf) = 0) :
    (q.vdata = false ∨ q.qual = true ∨ 2 ≤ q.code ∨ c.u.isCox = true → c.precheck q a = some (4, .kind 6)) ∧
    (q.vdata = true → q.qual = false → q.code < 2 → c.u.isCox = false → c.precheck q a =
      if c.lr.privSize < a.addr - 0xFFFE000000000000 + szfSize q.szf then some (5, .stack (a.addr - 0xFFFE000000000000)) else none) := by
  have hoff : a.addr % 2 ^ 48 = a.addr - 0xFFFE000000000000 := by omega
  rw [precheck_of_aligned h0 h1 (aperture_priv h hl) (by decide) hx]
  refine ⟨fun hr => if_pos (refuses_priv.2 hr), fun hv hq hk hu => ?_⟩
  rw [if_neg (by rw [refuses_priv, hv, hq, hu]; simpa using hk), rangeFail, hoff]

theorem precheck_of_scratchpad (h : 0xFFFF000000000000 ≤ a.addr) (hx : a.addr % (if q.qual then 8 else szfSize q.szf) = 0) :
    let refused : Prop := q.kind = .oatom ∨ (2 ≤ q.code ∧ c.tripleFloat q = true ∧ szfMD q.szf = true)
    let target := spTarget c.iss.unit c.lr (a.addr - 0xFFFF000000000000) ((c.spForm q).size q.szf)
    (refused → c.precheck q a = some (4, .kind 6)) ∧
    (¬ refused → ¬ target.isNone = true → c.precheck q a = none) ∧
    (¬ refused → target.isNone = true → c.precheck q a = some (5, .kind 4)) := by
  intro refused target
  have hl := addr_lt h0 h1
  have hoff : a.addr % 2 ^ 48 = a.addr - 0xFFFF000000000000 := by omega
  rw [precheck_of_aligned h0 h1 (aperture_scratchpad h hl) (by decide) hx, rangeFail, hoff]
  refine ⟨fun hr => if_pos (refuses_scratchpad.2 hr), fun hr ht => ?_, fun hr ht => ?_⟩
  · rw [if_neg (mt refuses_scratchpad.1 hr), if_neg ht]
  · rw [if_neg (mt refuses_scratchpad.1 hr), if_pos ht]

theorem precheck_of_global (h : a.addr < 2 ^ 56) (hx : a.addr % (if q.qual then 8 else szfSize q.szf) = 0) :
    c.precheck q a =
      if 2 ^ 56 < a.addr + (if c.tripleFloat q then 3 * szfSize q.szf else szfSize q.szf) then some (5, .kind 5) else none := by
  rw [precheck_of_aligned h0 h1 (aperture_global_iff.2 h) (by decide) hx]
  rfl

end

/-! ### What fails before translation -/

section
variable {s : State} {c : Ctx} {o : MemOp} {i : Instr}

/-- The stack limit takes its trap (R28). -/
theorem exec_of_stack {q : Req} {a : Acc} {off : Nat} {m : Mask} (h : Ready s i c) (ho : i.mem? = some o)
    (hk : i.memRow.map MemRow.kind ≠ some .prf) (hm : c.memMismatch c.memReq = none)
    (hf : c.prechecks (requests c) = some (q, a, .stack off, m)) :
    exec i s = .next (trapAt s c { kind := 7, sub := 0, code := 0, addr := BitVec.ofNat 64 off, lanes := some m }) := by
  obtain ⟨perform, he⟩ := exec_of_memory ho hk
  exact (he s).trans (memOp_of_precheck h hm hf)

/-- An address fault is recorded, and the slot parks at the instruction (R19, R20, R57, R59). -/
theorem exec_of_addressFault {q : Req} {a : Acc} {k : Nat} {m : Mask} (h : Ready s i c) (ho : i.mem? = some o)
    (hk : i.memRow.map MemRow.kind ≠ some .prf) (hm : c.memMismatch c.memReq = none)
    (hf : c.prechecks (requests c) = some (q, a, .kind k, m)) :
    let t := s.issued c
    exec i s = .next (stayed
      (t.postUnitFault c (t.unitFault c 2 k q.code (a.sum % 2 ^ 64).toNat a.mask false false true)) c
      (.parked true q.code []) (some c.act) q.code []) := by
  obtain ⟨perform, he⟩ := exec_of_memory ho hk
  exact ((he s).trans (memOp_of_precheck h hm hf)).trans (congrArg _ (finish_parked _ _ _ _ _ _ _))

/-! ### Ordered-atomic misuse (R143, R311) -/

/-- The kind of an atomic by its instruction. -/
theorem memReq_kind_of_atomic (h : c.i = i)
    (hi : i ∈ [Instr.atomVV o, .atomVS o, .atomSS o, .atomrVV o, .atomrVS o, .atomrSS o, .casVV o, .casVS o, .casSS o]) :
    c.memReq.kind = if i ∈ [Instr.atomVV o, .atomVS o, .atomSS o] then .atom
      else if i ∈ [Instr.atomrVV o, .atomrVS o, .atomrSS o] then .atomr else .cas := by
  subst h
  unfold Ctx.memReq Ctx.mrow
  simp only [List.mem_cons, List.not_mem_nil, or_false] at hi ⊢
  obtain h | h | h | h | h | h | h | h | h := hi <;> simp [h, Instr.memRow]

/-- The subcode of the trap, of an atomic of one of three kinds (R385). -/
theorem misuseSub_of_kind {q : Req} {a b : Prop} [Decidable a] [Decidable b]
    (h : q.kind = if a then .atom else if b then .atomr else .cas) : q.misuseSub = if a then 0 else if b then 1 else 2 := by
  by_cases ha : a
  · rw [if_pos ha] at h ⊢
    rw [Req.misuseSub, h]
  · rw [if_neg ha] at h ⊢
    by_cases hb : b
    · rw [if_pos hb] at h ⊢
      rw [Req.misuseSub, h]
    · rw [if_neg hb] at h ⊢
      rw [Req.misuseSub, h]

theorem misuse_of_reach {q : Req} {xs : List Acc} (hd : c.lr.determ = true) (hk : q.kind = .atom ∨ q.kind = .atomr ∨ q.kind = .cas)
    (h : (∃ a ∈ xs, a.addr < 2 ^ 56) ∨ (q.qual = true ∧ 2 ≤ c.mext.scope.toNat)) : c.misuse q xs = true := by
  have hk : (q.kind == .atom || q.kind == .atomr || q.kind == .cas) = true := by
    obtain hk | hk | hk := hk <;> rw [hk] <;> rfl
  have h : ((xs.any fun a => aperture a.addr == .global) || (q.qual && decide (2 ≤ c.mext.scope.toNat))) = true := by
    simpa [aperture_global_iff] using h
  rw [Ctx.misuse, hd, hk, h]
  rfl

end

/-- Settles O39: the checks aperture by aperture, then what a failed one comes to, and the misuse trap. -/
theorem addressChecks : Obligations.AddressChecks := by
  unfold Obligations.AddressChecks
  refine ⟨fun c q a => ⟨precheck_of_wrap, fun h0 h1 => ⟨precheck_of_outside h0 h1, precheck_of_misaligned h0 h1,
    fun h hl hx => precheck_of_priv h0 h1 h hl hx, fun h hx => ?_, precheck_of_global h0 h1⟩⟩, ?_, ?_⟩
  · obtain ⟨hrefused, hwithin, hbeyond⟩ := precheck_of_scratchpad (c := c) (q := q) h0 h1 h hx
    rw [spTarget_isNone] at hwithin hbeyond
    exact ⟨hrefused, fun hr hw => hwithin hr fun hn => hn hw, hbeyond⟩
  · intro s c o i q a f m h ho hk hm hf
    refine ⟨?_, ?_⟩
    · rintro off rfl
      exact exec_of_stack h ho hk hm hf
    · rintro k rfl
      exact exec_of_addressFault h ho hk hm hf
  · intro s c o i h hi hm hf hd hg
    have hkind := memReq_kind_of_atomic (ready_instr h) hi
    have hu : c.misuse c.memReq c.accs = true := by
      refine misuse_of_reach hd ?_ (by simpa [Ctx.memReq] using hg)
      rw [hkind]
      split
      · exact Or.inl rfl
      · split
        · exact Or.inr (Or.inl rfl)
        · exact Or.inr (Or.inr rfl)
    rw [exec_of_mem_atomics hi, memOp_of_misuse h hm hf hu, misuseSub_of_kind hkind]

end Sys2Proof.AddressSpaces
end

section
/-! SUPPORT. How passes are formed, of loads and stores and of atomics alike: base passes of lanes, each split by the
turns of its members. -/

namespace Sys2Proof.AddressSpaces

open Sys2Proof Sys2Proof.Machine Sys2Proof.Safety Sys2Proof.Laws

/-! ### Lists -/

theorem nodup_eraseDups {α : Type} [BEq α] [LawfulBEq α] : ∀ l : List α, l.eraseDups.Nodup
  | [] => List.nodup_nil
  | a :: l => by
    rw [List.eraseDups_cons, List.nodup_cons]
    refine ⟨by simp [List.mem_eraseDups], nodup_eraseDups _⟩
  termination_by l => l.length
  decreasing_by exact Nat.lt_succ_of_le (List.length_filter_le _ _)

theorem length_eraseDups_le {α : Type} [BEq α] [LawfulBEq α] (l : List α) : l.eraseDups.length ≤ l.length :=
  (nodup_eraseDups l).length_le_of_subset fun _ h => List.mem_eraseDups.1 h

/-- A filter that passes more, and one member more, is longer. -/
theorem length_filter_lt {α : Type} {l : List α} {p q : α → Bool} (h : ∀ x, p x = true → q x = true) {x : α} (hx : x ∈ l)
    (hp : ¬ p x = true) (hq : q x = true) : (l.filter p).length < (l.filter q).length := by
  have hpq : l.filter p = (l.filter q).filter p := by
    rw [List.filter_filter]
    refine List.filter_congr fun y _ => ?_
    cases hy : p y with
    | true => rw [h y hy]; rfl
    | false => rfl
  rw [hpq]
  exact List.length_filter_lt_length_iff_exists.2 ⟨x, List.mem_filter.2 ⟨hx, hq⟩, hp⟩

/-- Members that a function tells apart. -/
theorem eq_of_nodup_map {α β : Type} {f : α → β} {l : List α} (h : (l.map f).Nodup) {x y : α} (hx : x ∈ l) (hy : y ∈ l)
    (he : f x = f y) : x = y := by
  induction l with
  | nil => cases hx
  | cons a l ih =>
    obtain ⟨ha, hl⟩ := List.nodup_cons.1 h
    obtain rfl | hx' := List.mem_cons.1 hx
    · obtain rfl | hy' := List.mem_cons.1 hy
      · rfl
      · exact absurd (he ▸ List.mem_map_of_mem hy') ha
    · obtain rfl | hy' := List.mem_cons.1 hy
      · exact absurd (he ▸ List.mem_map_of_mem hx') ha
      · exact ih hl hx' hy'

theorem flatMap_eq_of_mem {α β : Type} {f g : α → List β} {l : List α} (h : ∀ x ∈ l, f x = g x) : l.flatMap f = l.flatMap g := by
  rw [List.flatMap_def, List.flatMap_def, List.map_congr_left h]

/-- Two members of a list at one index. -/
theorem eq_of_findIdx_eq {α : Type} [BEq α] [LawfulBEq α] {l : List α} {a b : α} (ha : a ∈ l) (hb : b ∈ l)
    (h : l.findIdx (· == a) = l.findIdx (· == b)) : a = b := by
  have la : l.findIdx (· == a) < l.length := List.findIdx_lt_length.2 ⟨a, ha, beq_self_eq_true a⟩
  have lb : l.findIdx (· == b) < l.length := List.findIdx_lt_length.2 ⟨b, hb, beq_self_eq_true b⟩
  have ea := eq_of_beq (List.findIdx_getElem (w := la))
  have eb := eq_of_beq (List.findIdx_getElem (w := lb))
  simp only [h] at ea
  exact ea.symm.trans eb

/-! ### Passes (R87) -/

section
variable {α : Type}

/-- The lanes of a base pass: 32, or 16 with elements of 8 bytes. -/
def perPass (e : Nat) : Nat := if e = 8 then 16 else 32

theorem perPass_base {e l : Nat} (h : l < 96) : l / perPass e < 6 := by
  unfold perPass
  split <;> omega

/-- The members of a base pass. -/
def basePass (lane : α → Nat) (e : Nat) (ps : List α) (b : Nat) : List α := ps.filter fun p => lane p / perPass e == b

/-- The passes of a base pass, in the order of their turns. -/
def turnsOf (turn : List α → α → Nat) (mine : List α) : List (List α) :=
  (List.range mine.length).map fun k => mine.filter fun p => turn mine p == k

/-- The passes of an instruction: its base passes in the order of the lanes, each by the turns of its members. -/
def passesBy (lane : α → Nat) (turn : List α → α → Nat) (e : Nat) (ps : List α) : List (List α) :=
  ((List.range 6).flatMap fun b => turnsOf turn (basePass lane e ps b)).filter fun g => !g.isEmpty

theorem spPasses_eq (e : Nat) (ps : List Piece) : spPasses e ps = passesBy Piece.lane Piece.turn e ps := rfl

theorem atomPasses_eq (e : Nat) (ls : List AtomLane) : atomPasses e ls = passesBy AtomLane.lane AtomLane.turn e ls := rfl

variable {lane : α → Nat} {turn : List α → α → Nat} {e : Nat} {ps : List α}

theorem mem_basePass {b : Nat} {x : α} : x ∈ basePass lane e ps b ↔ x ∈ ps ∧ lane x / perPass e = b := by
  simp [basePass]

theorem mem_turnsOf {mine g : List α} : g ∈ turnsOf turn mine ↔ ∃ k < mine.length, mine.filter (fun p => turn mine p == k) = g := by
  simp [turnsOf]

theorem mem_of_mem_turnsOf {mine g : List α} {x : α} (hg : g ∈ turnsOf turn mine) (hx : x ∈ g) : x ∈ mine := by
  obtain ⟨k, -, rfl⟩ := mem_turnsOf.1 hg
  exact (List.mem_filter.1 hx).1

/-- What the members of a pass have in common: their base pass and their turn in it. -/
theorem mem_pass {g : List α} (hg : g ∈ passesBy lane turn e ps) :
    ∃ b k, g = (basePass lane e ps b).filter fun p => turn (basePass lane e ps b) p == k := by
  obtain ⟨hg, -⟩ := List.mem_filter.1 hg
  obtain ⟨b, -, hg⟩ := List.mem_flatMap.1 hg
  obtain ⟨k, -, rfl⟩ := mem_turnsOf.1 hg
  exact ⟨b, k, rfl⟩

theorem mem_of_mem_pass {g : List α} (hg : g ∈ passesBy lane turn e ps) {x : α} (hx : x ∈ g) : x ∈ ps := by
  obtain ⟨b, k, rfl⟩ := mem_pass hg
  exact (mem_basePass.1 (List.mem_filter.1 hx).1).1

/-- Two members of a pass: one base pass, in which they have the same turn. -/
theorem same_of_mem_pass {g : List α} (hg : g ∈ passesBy lane turn e ps) {x y : α} (hx : x ∈ g) (hy : y ∈ g) :
    lane x / perPass e = lane y / perPass e ∧ ∃ mine, x ∈ mine ∧ y ∈ mine ∧ turn mine x = turn mine y := by
  obtain ⟨b, k, rfl⟩ := mem_pass hg
  obtain ⟨hx, hkx⟩ := List.mem_filter.1 hx
  obtain ⟨hy, hky⟩ := List.mem_filter.1 hy
  exact ⟨(mem_basePass.1 hx).2.trans (mem_basePass.1 hy).2.symm, _, hx, hy, (eq_of_beq hkx).trans (eq_of_beq hky).symm⟩

/-- Every member is in a pass, where turns stay below the number of members. -/
theorem exists_pass (ht : ∀ mine, ∀ x ∈ mine, turn mine x < mine.length) {x : α} (hx : x ∈ ps) (hl : lane x < 96) :
    ∃ g ∈ passesBy lane turn e ps, x ∈ g := by
  have hb := mem_basePass.2 ⟨hx, (rfl : lane x / perPass e = _)⟩
  refine ⟨(basePass lane e ps (lane x / perPass e)).filter fun p => turn (basePass lane e ps (lane x / perPass e)) p ==
    turn (basePass lane e ps (lane x / perPass e)) x, ?_, List.mem_filter.2 ⟨hb, beq_self_eq_true _⟩⟩
  refine List.mem_filter.2 ⟨List.mem_flatMap.2 ⟨_, List.mem_range.2 (perPass_base hl), mem_turnsOf.2 ⟨_, ht _ _ hb, rfl⟩⟩, ?_⟩
  rw [Bool.not_eq_true', List.isEmpty_eq_false_iff]
  exact List.ne_nil_of_mem (List.mem_filter.2 ⟨hb, beq_self_eq_true _⟩)

/-- Of two passes the one that comes first has the lower base pass, or lower turns of the same one. -/
theorem pairwise_passes : (passesBy lane turn e ps).Pairwise fun g h => ∀ x ∈ g, ∀ y ∈ h,
    lane x / perPass e < lane y / perPass e ∨
      (lane x / perPass e = lane y / perPass e ∧ ∃ mine, x ∈ mine ∧ y ∈ mine ∧ turn mine x < turn mine y) := by
  refine List.Pairwise.filter _ (List.pairwise_flatMap.2 ⟨fun b _ => ?_, ?_⟩)
  · refine List.pairwise_map.2 (List.pairwise_lt_range.imp fun {j k} hjk x hx y hy => Or.inr ?_)
    obtain ⟨hx, hj⟩ := List.mem_filter.1 hx
    obtain ⟨hy, hk⟩ := List.mem_filter.1 hy
    exact ⟨(mem_basePass.1 hx).2.trans (mem_basePass.1 hy).2.symm, _, hx, hy, by rwa [eq_of_beq hj, eq_of_beq hk]⟩
  · refine List.pairwise_lt_range.imp fun {a b} hab g hg h hh x hx y hy => Or.inl ?_
    rwa [(mem_basePass.1 (mem_of_mem_turnsOf hg hx)).2, (mem_basePass.1 (mem_of_mem_turnsOf hh hy)).2]

end

/-! ### Passes put in flight -/

/-- Operations put in flight one after the other, under consecutive numbers. -/
theorem foldl_inFlight {β γ : Type} (app : Flight → List β → Flight) (mk : State → Nat → γ → β) (h0 : ∀ f, app f [] = f)
    (h1 : ∀ f xs ys, app (app f xs) ys = app f (xs ++ ys)) (hmk : ∀ (s : State) n f, mk { s with nextId := n, flight := f } = mk s)
    (gs : List γ) : ∀ s : State,
      gs.foldl (fun t g => { t with nextId := t.nextId + 1, flight := app t.flight [mk t t.nextId g] }) s =
        { s with nextId := s.nextId + gs.length, flight := app s.flight (gs.mapIdx fun k g => mk s (s.nextId + k) g) } := by
  induction gs with
  | nil => intro s; simp only [List.foldl_nil, List.mapIdx_nil, h0, List.length_nil, Nat.add_zero]
  | cons g gs ih =>
    intro s
    rw [List.foldl_cons, ih, List.mapIdx_cons, List.length_cons]
    simp only [h1, hmk, List.singleton_append, Nat.add_zero, Nat.add_assoc, Nat.add_comm 1]

/-- The operation under a number is that of its pass. -/
theorem mapIdx_some {β γ : Type} {f : Nat → γ → β} {gs : List γ} {k : Nat} {op : β} (h : (gs.mapIdx f)[k]? = some op) :
    ∃ g, gs[k]? = some g ∧ g ∈ gs ∧ f k g = op := by
  rw [List.getElem?_mapIdx, Option.map_eq_some_iff] at h
  obtain ⟨g, hg, rfl⟩ := h
  exact ⟨g, hg, List.mem_of_getElem? hg, rfl⟩

/-- Every pass has its operation. -/
theorem mapIdx_of_mem {β γ : Type} (f : Nat → γ → β) {gs : List γ} {g : γ} (hg : g ∈ gs) : ∃ k, f k g ∈ gs.mapIdx f := by
  obtain ⟨k, hk, rfl⟩ := List.mem_iff_getElem.1 hg
  exact ⟨k, List.mem_mapIdx.2 ⟨k, hk, rfl⟩⟩

end Sys2Proof.AddressSpaces
end

section
/-! SUPPORT. The turns of a scratchpad pass: of the pieces of loads and stores, and of the steps of atomics; and the pass that is served
next. -/

namespace Sys2Proof.AddressSpaces

open Sys2Proof Sys2Proof.Machine Sys2Proof.Safety Sys2Proof.Laws

/-! ### The pass served next (R88) -/

/-- A pass that is served next is in the queue, the oldest of its port, and no port of its core comes before it in the rotation. -/
theorem passNext_spec {s : State} {id port : Nat} (h : s.passNext id port = true) :
    (∃ x ∈ s.spQueue, x.id = id ∧ x.port = port) ∧ (∀ y ∈ s.spQueue, y.port = port → id ≤ y.id) ∧
    ∀ y ∈ s.spQueue, s.passFree s.spQueue y = true → y.port / 6 = port / 6 → y.id ≠ id →
      rotation (tget 0 s.caches.turns (port / 6)) (port % 6) < rotation (tget 0 s.caches.turns (port / 6)) (y.port % 6) := by
  obtain ⟨x, hx, h⟩ := List.any_eq_true.1 h
  simp only [Bool.and_eq_true, beq_iff_eq] at h
  obtain ⟨⟨⟨rfl, rfl⟩, hfree⟩, hall⟩ := h
  refine ⟨⟨x, hx, rfl, rfl⟩, fun y hy hp => ?_, fun y hy hf hp hid => ?_⟩
  · have hold := List.all_eq_true.1 (Bool.and_eq_true_iff.1 hfree).1 y hy
    simpa [hp] using hold
  · simpa [hf, hp, hid] using List.all_eq_true.1 hall y hy

/-! ### Turns of pieces (R87, log entry 102) -/

/-- The distinct words of a bank among pieces, in the order of the lanes. -/
def bankWords (ps : List Piece) (bank : Nat) : List Nat := ((ps.filter fun x => x.bank == bank).map Piece.word).eraseDups

theorem turn_eq_findIdx (ps : List Piece) (p : Piece) : p.turn ps = (bankWords ps p.bank).findIdx (· == p.word) := rfl

theorem word_mem_bankWords {ps : List Piece} {p : Piece} (hp : p ∈ ps) : p.word ∈ bankWords ps p.bank :=
  List.mem_eraseDups.2 (List.mem_map.2 ⟨p, List.mem_filter.2 ⟨hp, beq_self_eq_true _⟩, rfl⟩)

theorem length_bankWords_le (ps : List Piece) (bank : Nat) : (bankWords ps bank).length ≤ ps.length :=
  Nat.le_trans (length_eraseDups_le _) (by rw [List.length_map]; exact List.length_filter_le _ _)

theorem pieceTurn_lt (ps : List Piece) (p : Piece) (hp : p ∈ ps) : Piece.turn ps p < ps.length :=
  Nat.lt_of_lt_of_le (List.findIdx_lt_length.2 ⟨_, word_mem_bankWords hp, beq_self_eq_true _⟩) (length_bankWords_le ps p.bank)

/-- Pieces of one turn that share a bank share its word. -/
theorem word_eq_of_turn {ps : List Piece} {p p' : Piece} (hp : p ∈ ps) (hp' : p' ∈ ps) (ht : Piece.turn ps p = Piece.turn ps p')
    (hb : p.word % 32 = p'.word % 32) : p.word = p'.word := by
  have hb : p.bank = p'.bank := hb
  rw [turn_eq_findIdx, turn_eq_findIdx, ← hb] at ht
  exact eq_of_findIdx_eq (word_mem_bankWords hp) (hb ▸ word_mem_bankWords hp') ht

/-! ### Turns of atomic steps (R87, R116) -/

theorem foldl_max_le_iff {α : Type} (f : α → Nat) (l : List α) :
    ∀ m b, l.foldl (fun m x => max m (f x)) m ≤ b ↔ m ≤ b ∧ ∀ x ∈ l, f x ≤ b := by
  induction l with
  | nil => simp
  | cons x l ih => intro m b; rw [List.foldl_cons, ih, Nat.max_le, List.forall_mem_cons, and_assoc]

theorem foldl_add_eq_sum {α : Type} (f : α → Nat) (l : List α) : ∀ n, l.foldl (fun n x => n + f x) n = n + (l.map f).sum := by
  induction l with
  | nil => simp
  | cons x l ih => intro n; simp [ih, Nat.add_assoc]

/-- The sum over what stands before a member of a list. -/
def sumBefore (f : Nat → Nat) (l : List Nat) (w : Nat) : Nat := ((l.takeWhile fun v => v != w).map f).sum

/-- Of two members one comes first, and its own share is among what stands before the other. -/
theorem sumBefore_add_le (f : Nat → Nat) {l : List Nat} {v w : Nat} (hv : v ∈ l) (hw : w ∈ l) (hne : v ≠ w) :
    sumBefore f l v + f v ≤ sumBefore f l w ∨ sumBefore f l w + f w ≤ sumBefore f l v := by
  induction l with
  | nil => cases hv
  | cons a l ih =>
    by_cases hav : a = v
    · subst hav
      left
      simp [sumBefore, hne]
    by_cases haw : a = w
    · subst haw
      right
      simp [sumBefore, hav]
    have := ih ((List.mem_cons.1 hv).resolve_left (Ne.symm hav)) ((List.mem_cons.1 hw).resolve_left (Ne.symm haw))
    simp only [sumBefore] at this
    simp only [sumBefore, List.takeWhile_cons, bne_iff_ne, ne_eq, hav, haw, not_false_eq_true, if_true, List.map_cons, List.sum_cons]
    omega

/-- What stands before a member, with its own share, is within the whole. -/
theorem sumBefore_add_le_sum (f : Nat → Nat) {l : List Nat} {w : Nat} (hw : w ∈ l) : sumBefore f l w + f w ≤ (l.map f).sum := by
  induction l with
  | nil => cases hw
  | cons a l ih =>
    by_cases haw : a = w
    · subst haw; simp [sumBefore]
    have := ih ((List.mem_cons.1 hw).resolve_left (Ne.symm haw))
    simp only [sumBefore] at this
    simp only [sumBefore, List.takeWhile_cons, bne_iff_ne, ne_eq, haw, not_false_eq_true, if_true, List.map_cons, List.sum_cons]
    omega

theorem sum_map_le {f g : Nat → Nat} {l : List Nat} (h : ∀ w ∈ l, f w ≤ g w) : (l.map f).sum ≤ (l.map g).sum := by
  induction l with
  | nil => exact Nat.le_refl _
  | cons a l ih =>
    rw [List.map_cons, List.map_cons, List.sum_cons, List.sum_cons]
    exact Nat.add_le_add (h a List.mem_cons_self) (ih fun w hw => h w (List.mem_cons_of_mem a hw))

/-- How often distinct values occur in a list, together: taking one value out leaves the others' counts. -/
theorem sum_count_le {ws : List Nat} : ∀ {l : List Nat}, ws.Nodup → (ws.map fun w => l.count w).sum ≤ l.length := by
  induction ws with
  | nil => intro l _; exact Nat.zero_le _
  | cons a ws ih =>
    intro l h
    obtain ⟨ha, hws⟩ := List.nodup_cons.1 h
    have hrest : (ws.map fun w => l.count w) = ws.map fun w => (l.filter fun v => decide ¬(v == a) = true).count w := by
      refine List.map_congr_left fun w hw => (List.count_filter ?_).symm
      have hwa : w ≠ a := fun he => ha (he ▸ hw)
      simpa using hwa
    have hlen := List.length_eq_countP_add_countP (fun v => v == a) (l := l)
    have := ih (l := l.filter fun v => decide ¬(v == a) = true) hws
    rw [List.countP_eq_length_filter (p := fun v => decide ¬(v == a) = true), ← List.count_eq_countP] at hlen
    rw [List.map_cons, List.sum_cons, hrest]
    omega

section
variable {ps : List AtomLane} {x y : AtomLane}

theorem word_of_loc (h : x.loc = y.loc) : x.word = y.word := by rw [AtomLane.word, AtomLane.word, h]

/-- Of two steps at one location that of the higher lane has more before it. -/
theorem before_lt (hx : x ∈ ps) (hl : x.loc = y.loc) (h : x.lane < y.lane) : x.before ps < y.before ps := by
  refine length_filter_lt (fun z hz => ?_) hx (by simp) (by simp [hl, h])
  simp only [Bool.and_eq_true, beq_iff_eq, decide_eq_true_eq] at hz ⊢
  exact ⟨hz.1.trans hl, Nat.lt_trans hz.2 h⟩

/-- The steps before one at its location are among those of its word. -/
theorem before_lt_count (hx : x ∈ ps) : x.before ps < (ps.map AtomLane.word).count x.word := by
  rw [List.count_eq_countP, List.countP_map, List.countP_eq_length_filter]
  refine length_filter_lt (fun z hz => ?_) hx (by simp) (by simp)
  simp only [Bool.and_eq_true, beq_iff_eq] at hz
  exact beq_iff_eq.2 (word_of_loc hz.1)

theorem before_lt_wordPasses (hx : x ∈ ps) : x.before ps < wordPasses ps x.word :=
  ((foldl_max_le_iff _ _ _ _).1 (Nat.le_refl (wordPasses ps x.word))).2 x (List.mem_filter.2 ⟨hx, beq_self_eq_true _⟩)

theorem wordPasses_le_count (w : Nat) : wordPasses ps w ≤ (ps.map AtomLane.word).count w := by
  refine (foldl_max_le_iff _ _ _ _).2 ⟨Nat.zero_le _, fun x hx => ?_⟩
  obtain ⟨hx, hw⟩ := List.mem_filter.1 hx
  exact eq_of_beq hw ▸ before_lt_count hx

/-- The distinct words of a bank among the steps, in the order of the lanes. -/
def stepWords (ps : List AtomLane) (bank : Nat) : List Nat := ((ps.filter fun y => y.word % 32 == bank).map AtomLane.word).eraseDups

theorem word_mem_stepWords (hx : x ∈ ps) : x.word ∈ stepWords ps (x.word % 32) :=
  List.mem_eraseDups.2 (List.mem_map.2 ⟨x, List.mem_filter.2 ⟨hx, beq_self_eq_true _⟩, rfl⟩)

theorem turn_eq_sumBefore (ps : List AtomLane) (x : AtomLane) :
    x.turn ps = sumBefore (wordPasses ps) (stepWords ps (x.word % 32)) x.word + x.before ps := by
  rw [AtomLane.turn, foldl_add_eq_sum, Nat.zero_add]
  rfl

theorem stepTurn_lt (ps : List AtomLane) (x : AtomLane) (hx : x ∈ ps) : AtomLane.turn ps x < ps.length := by
  have hsum := sumBefore_add_le_sum (wordPasses ps) (word_mem_stepWords hx)
  have hle : ((stepWords ps (x.word % 32)).map (wordPasses ps)).sum ≤ ps.length := calc
    _ ≤ ((stepWords ps (x.word % 32)).map fun w => (ps.map AtomLane.word).count w).sum :=
      sum_map_le fun w _ => wordPasses_le_count w
    _ ≤ (ps.map AtomLane.word).length := sum_count_le (nodup_eraseDups _)
    _ = ps.length := List.length_map _
  have := before_lt_wordPasses hx
  rw [turn_eq_sumBefore]
  omega

/-- Steps of one turn that share a bank share its word. -/
theorem stepWord_eq_of_turn (hx : x ∈ ps) (hy : y ∈ ps) (ht : x.turn ps = y.turn ps) (hb : x.word % 32 = y.word % 32) :
    x.word = y.word := by
  refine Decidable.byContradiction fun hne => ?_
  have hor := sumBefore_add_le (wordPasses ps) (word_mem_stepWords hx) (hb ▸ word_mem_stepWords hy) hne
  have := before_lt_wordPasses hx
  have := before_lt_wordPasses hy
  rw [turn_eq_sumBefore, turn_eq_sumBefore, ← hb] at ht
  omega

/-- Of two steps at one location that of the higher lane has the later turn. -/
theorem stepTurn_lt_of_lane (hx : x ∈ ps) (hl : x.loc = y.loc) (h : x.lane < y.lane) : x.turn ps < y.turn ps := by
  rw [turn_eq_sumBefore, turn_eq_sumBefore, word_of_loc hl]
  exact Nat.add_lt_add_left (before_lt hx hl h) _

end

end Sys2Proof.AddressSpaces
end

section
/-! SUPPORT. The passes of an instruction's accesses of the scratchpad, as they go in flight: of atomics, of loads and of stores. -/

namespace Sys2Proof.AddressSpaces

open Sys2Proof Sys2Proof.Machine Sys2Proof.Safety Sys2Proof.Laws

/-! ### Atomics (R87, R116, R316) -/

/-- The steps of an instruction's atomics in the scratchpad. -/
def stepsOf (c : Ctx) (xs : List Found) : List AtomLane :=
  (xs.flatMap fun x => c.atomLanes x.q x.a x.locs).map fun y => atomLane y.2.1 (y.1, y.2.2)

/-- The atomic in flight of one pass, of the instruction whose first pass is `first`. -/
def atomPass (c : Ctx) (q : Req) (first : Nat) (s : State) (n : Nat) (g : List AtomLane) : AtomOp :=
  { id := n, unit := c.iss.unit, cache := s.cacheOf c.iss.unit, aop := if q.kind == .cas then 7 else q.aop, szf := q.szf
    ret := q.kind != .atom, vdata := q.vdata, reg := c.mo.data.toNat, acquire := c.acquires, wide := c.wideAcquire
    port := some (c.spPort s (g.map AtomLane.loc)), lanes := g, batch := first, held := [], rank := rankOf c.mo.cp.toNat true }

theorem atomSp_eq (c : Ctx) (s : State) (q : Req) (xs : List Found) :
    c.atomSp s q xs = { s with
      nextId := s.nextId + (atomPasses (szfSize q.szf) (stepsOf c xs)).length
      flight := { s.flight with atomics := s.flight.atomics ++
        (atomPasses (szfSize q.szf) (stepsOf c xs)).mapIdx fun k g => atomPass c q s.nextId s (s.nextId + k) g } } := by
  rw [stepsOf, List.map_flatMap]
  exact foldl_inFlight (fun f ops => { f with atomics := f.atomics ++ ops }) (atomPass c q s.nextId) (by simp) (by simp)
    (fun _ _ _ => rfl) _ s

section
variable {e : Nat} {steps : List AtomLane} (hn : (steps.map AtomLane.lane).Nodup)
include hn

/-- The steps of a pass name different locations. -/
theorem nodup_locs_of_pass {g : List AtomLane} (hg : g ∈ atomPasses e steps) : (g.map AtomLane.loc).Nodup := by
  rw [atomPasses_eq] at hg
  have hlanes : g.Pairwise fun x y => x.lane ≠ y.lane := by
    obtain ⟨b, k, rfl⟩ := mem_pass hg
    exact ((List.pairwise_map.1 hn).filter _).filter _
  refine List.pairwise_map.2 (hlanes.imp_of_mem fun {x y} hx hy hne hl => ?_)
  obtain ⟨-, mine, mx, my, ht⟩ := same_of_mem_pass hg hx hy
  obtain h | h := Nat.lt_or_gt_of_ne hne
  · exact Nat.ne_of_lt (stepTurn_lt_of_lane mx hl h) ht
  · exact Nat.ne_of_lt (stepTurn_lt_of_lane my hl.symm h) ht.symm

/-- The steps at one location are passed in ascending order of the lanes (R116). -/
theorem pass_lt_of_lane {j k : Nat} {g h : List AtomLane} (hj : (atomPasses e steps)[j]? = some g)
    (hk : (atomPasses e steps)[k]? = some h) {x y : AtomLane} (hx : x ∈ g) (hy : y ∈ h) (hl : x.loc = y.loc) (hlt : x.lane < y.lane) :
    j < k := by
  obtain hjk | rfl | hkj := Nat.lt_trichotomy j k
  · exact hjk
  · obtain rfl : g = h := Option.some.inj (hj.symm.trans hk)
    have := eq_of_nodup_map (nodup_locs_of_pass hn (List.mem_of_getElem? hj)) hx hy hl
    exact absurd (this ▸ hlt) (Nat.lt_irrefl _)
  · obtain ⟨lj, rfl⟩ := List.getElem?_eq_some_iff.1 hj
    obtain ⟨lk, rfl⟩ := List.getElem?_eq_some_iff.1 hk
    have hp := List.pairwise_iff_getElem.1 (pairwise_passes (lane := AtomLane.lane) (turn := AtomLane.turn) (e := e) (ps := steps))
      k j lk lj hkj y hy x hx
    obtain hlow | ⟨-, mine, my, mx, ht⟩ := hp
    · exact absurd hlow (Nat.not_lt.2 (Nat.div_le_div_right (Nat.le_of_lt hlt)))
    · exact absurd ht (Nat.lt_asymm (stepTurn_lt_of_lane mx hl hlt))

end

/-! ### The pieces of loads and stores (R86, R87) -/

theorem szfSize_cases (z : Nat) : szfSize z = 1 ∨ szfSize z = 2 ∨ szfSize z = 4 ∨ szfSize z = 8 := by
  unfold szfSize
  split <;> simp

/-- In every form but the triple one an access of the scratchpad has the bytes of one element. -/
theorem spForm_size {c : Ctx} {q : Req} (h : c.spForm q ≠ .each) : (c.spForm q).size q.szf = szfSize q.szf := by
  unfold Ctx.spForm at h ⊢
  unfold tripleForm at h ⊢
  by_cases ht : c.tripleFloat q = true
  · rw [if_pos ht] at h ⊢
    cases hm : szfMD q.szf with
    | false => rw [hm] at h; exact absurd rfl h
    | true =>
      change (if (szfSize q.szf == 4) = true then Form.meanDigits else .collapsed).size q.szf = _
      by_cases h4 : (szfSize q.szf == 4) = true
      · rw [if_pos h4]; exact (eq_of_beq h4).symm
      · rw [if_neg h4]; rfl
  · rw [if_neg ht]; rfl

/-- An access of the scratchpad: its lanes, and its bytes, of elements that lie aligned in the scratchpad. -/
structure SpAccess (c : Ctx) (q : Req) (x : Found) : Prop where
  req : x.q = q
  lanes : x.a.lanes ≠ []
  small : ∀ l ∈ x.a.lanes, l < 96
  triple : c.spForm q = .each → x.a.lanes.length = 3
  place : ∃ i g w off, off % szfSize q.szf = 0 ∧ x.locs = (List.range ((c.spForm q).size q.szf)).map fun j => .sp i g w (off + j)

theorem SpAccess.lanesOr_eq {c : Ctx} {q : Req} {x : Found} (h : SpAccess c q x) : x.a.lanesOr = x.a.lanes := by
  simp [Acc.lanesOr, h.lanes]

/-- The piece of the `k`-th lane `l` of an access. -/
def pieceAt (f : Form) (e : Nat) (locs : List Loc) (bs : List Byte) (l k : Nat) : Piece :=
  match f with
  | .each => ⟨l, (locs.drop (k * e)).take e, (bs.drop (k * e)).take e⟩
  | _ => ⟨l, locs, if k = 0 then bs else []⟩

theorem pieceAt_each (e : Nat) (locs : List Loc) (bs : List Byte) (l k : Nat) :
    pieceAt .each e locs bs l k = ⟨l, (locs.drop (k * e)).take e, (bs.drop (k * e)).take e⟩ := rfl

theorem pieceAt_shared {f : Form} (h : f ≠ .each) (e : Nat) (locs : List Loc) (bs : List Byte) (l k : Nat) :
    pieceAt f e locs bs l k = ⟨l, locs, if k = 0 then bs else []⟩ := by
  cases f with
  | each => exact absurd rfl h
  | _ => rfl

theorem pieceAt_lane (f : Form) (e : Nat) (locs : List Loc) (bs : List Byte) (l k : Nat) : (pieceAt f e locs bs l k).lane = l := by
  cases f <;> rfl

theorem mem_pieces {f : Form} {e : Nat} {a : Acc} {locs : List Loc} {bs : List Byte} {p : Piece} :
    p ∈ f.pieces e a locs bs ↔ ∃ k l, a.lanesOr[k]? = some l ∧ pieceAt f e locs bs l k = p := by
  constructor
  · intro h
    obtain ⟨⟨l, k⟩, hx, rfl⟩ := List.mem_map.1 h
    exact ⟨k, l, List.mem_zipIdx_iff_getElem?.1 hx, rfl⟩
  · rintro ⟨k, l, hk, rfl⟩
    exact List.mem_map.2 ⟨(l, k), List.mem_zipIdx_iff_getElem?.2 hk, rfl⟩

/-- The pieces of an instruction's accesses of the scratchpad, with the bytes that each stores. -/
def piecesOf (c : Ctx) (q : Req) (xs : List Found) (bs : Found → List Byte) : List Piece :=
  xs.flatMap fun x => (c.spForm q).pieces (szfSize q.szf) x.a x.locs (bs x)

/-- A piece is one element, aligned in the scratchpad. -/
def IsElement (e : Nat) (p : Piece) : Prop :=
  ∃ i g w off, off % e = 0 ∧ p.locs = (List.range e).map fun j => .sp i g w (off + j)

/-- The `k`-th of equal parts of a run of bytes. -/
theorem take_drop_map_range {β : Type} (f : Nat → β) {n e k : Nat} (h : k < n) :
    (((List.range (n * e)).map f).drop (k * e)).take e = (List.range e).map fun j => f (k * e + j) := by
  have hk : k * e + e ≤ n * e := by rw [← Nat.succ_mul]; exact Nat.mul_le_mul_right e h
  refine List.ext_getElem (by simp; omega) fun j h1 h2 => ?_
  simp

section
variable {c : Ctx} {q : Req} {x : Found} (h : SpAccess c q x)
include h

theorem SpAccess.isElement {bs : List Byte} {p : Piece} (hp : p ∈ (c.spForm q).pieces (szfSize q.szf) x.a x.locs bs) :
    IsElement (szfSize q.szf) p := by
  obtain ⟨k, l, hk, rfl⟩ := mem_pieces.1 hp
  obtain ⟨i, g, w, off, hoff, hlocs⟩ := h.place
  by_cases hf : c.spForm q = .each
  · have hk3 : k < 3 := by
      rw [h.lanesOr_eq] at hk
      exact h.triple hf ▸ (List.getElem?_eq_some_iff.1 hk).1
    rw [hf] at hlocs
    refine ⟨i, g, w, off + k * szfSize q.szf, by rw [Nat.add_mul_mod_self_right, hoff], ?_⟩
    rw [hf, pieceAt_each, hlocs, Form.size, take_drop_map_range _ hk3]
    simp only [Nat.add_assoc]
  · rw [spForm_size hf] at hlocs
    exact ⟨i, g, w, off, hoff, by rw [pieceAt_shared hf, hlocs]⟩

theorem SpAccess.lane_lt {bs : List Byte} {p : Piece} (hp : p ∈ (c.spForm q).pieces (szfSize q.szf) x.a x.locs bs) : p.lane < 96 := by
  obtain ⟨k, l, hk, rfl⟩ := mem_pieces.1 hp
  rw [h.lanesOr_eq] at hk
  rw [pieceAt_lane]
  exact h.small l (List.mem_of_getElem? hk)

end

/-- The word and the bank of an aligned piece's bytes: those of its first byte, or with 8 bytes of the word after it. -/
theorem word_eq_of_bank {z : Nat} {p p' : Piece} (hp : IsElement (szfSize z) p) (hp' : IsElement (szfSize z) p')
    (hw : p.word % 32 = p'.word % 32 → p.word = p'.word) {i i' : Word} {g w off g' w' off' : Nat} (hl : .sp i g w off ∈ p.locs)
    (hl' : .sp i' g' w' off' ∈ p'.locs) (hb : off / 4 % 32 = off' / 4 % 32) : off / 4 = off' / 4 := by
  obtain ⟨i0, g0, w0, n, hn, hlocs⟩ := hp
  obtain ⟨i1, g1, w1, n', hn', hlocs'⟩ := hp'
  have hword {p : Piece} {i : Word} {g w n : Nat} (h : p.locs = (List.range (szfSize z)).map fun j => .sp i g w (n + j)) :
      p.word = n / 4 := by
    rw [Piece.word, h]
    obtain he | he | he | he := szfSize_cases z <;> rw [he] <;> rfl
  rw [hword hlocs, hword hlocs'] at hw
  rw [hlocs, List.mem_map] at hl
  rw [hlocs', List.mem_map] at hl'
  obtain ⟨j, hj, hl⟩ := hl
  obtain ⟨j', hj', hl'⟩ := hl'
  simp only [Loc.sp.injEq] at hl hl'
  obtain ⟨-, -, -, rfl⟩ := hl
  obtain ⟨-, -, -, rfl⟩ := hl'
  rw [List.mem_range] at hj hj'
  obtain he | he | he | he := szfSize_cases z <;> rw [he] at hj hj' hn hn' <;> omega

end Sys2Proof.AddressSpaces
end

section
/-! SUPPORT. The passes of loads and stores in the scratchpad, and all passes as they go in flight. -/

namespace Sys2Proof.AddressSpaces

open Sys2Proof Sys2Proof.Machine Sys2Proof.Safety Sys2Proof.Laws

section
variable {c : Ctx} {q : Req} {xs : List Found} {bs : Found → List Byte}

theorem mem_piecesOf {p : Piece} : p ∈ piecesOf c q xs bs ↔ ∃ x ∈ xs, p ∈ (c.spForm q).pieces (szfSize q.szf) x.a x.locs (bs x) :=
  List.mem_flatMap

/-- Every piece is in a pass. -/
theorem exists_piecePass (h : ∀ x ∈ xs, SpAccess c q x) {p : Piece} (hp : p ∈ piecesOf c q xs bs) :
    ∃ g ∈ spPasses (szfSize q.szf) (piecesOf c q xs bs), p ∈ g := by
  obtain ⟨x, hx, hpx⟩ := mem_piecesOf.1 hp
  exact exists_pass pieceTurn_lt hp ((h x hx).lane_lt hpx)

/-- The bytes of a pass name one word of a bank at most (R86). -/
theorem one_word_of_pass (h : ∀ x ∈ xs, SpAccess c q x) {g : List Piece} (hg : g ∈ spPasses (szfSize q.szf) (piecesOf c q xs bs))
    {i i' : Word} {n w off n' w' off' : Nat} (hl : .sp i n w off ∈ g.flatMap Piece.locs)
    (hl' : .sp i' n' w' off' ∈ g.flatMap Piece.locs)
    (hb : off / 4 % 32 = off' / 4 % 32) : off / 4 = off' / 4 := by
  rw [spPasses_eq] at hg
  obtain ⟨p, hp, hl⟩ := List.mem_flatMap.1 hl
  obtain ⟨p', hp', hl'⟩ := List.mem_flatMap.1 hl'
  have element {p : Piece} (hp : p ∈ g) : IsElement (szfSize q.szf) p := by
    obtain ⟨x, hx, hpx⟩ := mem_piecesOf.1 (mem_of_mem_pass hg hp)
    exact (h x hx).isElement hpx
  obtain ⟨-, mine, hm, hm', ht⟩ := same_of_mem_pass hg hp hp'
  exact word_eq_of_bank (element hp) (element hp') (word_eq_of_turn hm hm' ht) hl hl' hb

/-- The lanes of a pass lie in one base pass. -/
theorem one_base_of_pass {g : List Piece} (hg : g ∈ spPasses (szfSize q.szf) (piecesOf c q xs bs)) {l l' : Nat}
    (hl : l ∈ g.map Piece.lane) (hl' : l' ∈ g.map Piece.lane) : l / perPass (szfSize q.szf) = l' / perPass (szfSize q.szf) := by
  obtain ⟨p, hp, rfl⟩ := List.mem_map.1 hl
  obtain ⟨p', hp', rfl⟩ := List.mem_map.1 hl'
  exact (same_of_mem_pass hg hp hp').1

end

/-! ### Loads -/

/-- The load in flight of one pass of the accesses of which `x` is the first. -/
def loadPass (c : Ctx) (x : Found) (s : State) (n : Nat) (g : List Piece) : LoadOp :=
  { c.loadOp s n x.q (if x.a.lanes.isEmpty then [] else g.map Piece.lane)
      (if c.spForm x.q == .meanDigits then .eachDigits else .each) (g.flatMap Piece.locs) with
    port := some (c.spPort s (g.flatMap Piece.locs)), tied := c.tiesLanes x.q }

theorem loadPasses_eq {c : Ctx} {q : Req} (s : State) {x : Found} {xs : List Found} (hq : ∀ y ∈ x :: xs, y.q = q) :
    c.loadPasses s (x :: xs) = { s with
      nextId := s.nextId + (spPasses (szfSize q.szf) (piecesOf c q (x :: xs) fun _ => [])).length
      flight := { s.flight with loads := s.flight.loads ++
        (spPasses (szfSize q.szf) (piecesOf c q (x :: xs) fun _ => [])).mapIdx fun k g => loadPass c x s (s.nextId + k) g } } := by
  have hp : ((x :: xs).flatMap fun y => (c.spForm y.q).pieces (szfSize y.q.szf) y.a y.locs []) = piecesOf c q (x :: xs) fun _ => [] :=
    flatMap_eq_of_mem fun y hy => by rw [hq y hy]
  unfold Ctx.loadPasses
  rw [hp, List.head?_cons, Option.map_some, hq x List.mem_cons_self]
  exact foldl_inFlight (fun f ops => { f with loads := f.loads ++ ops }) (loadPass c x) (by simp) (by simp) (fun _ _ _ => rfl) _ s

/-! ### Stores -/

/-- The store in flight of one pass. -/
def storePass (c : Ctx) (s : State) (n : Nat) (g : List Piece) : StoreOp :=
  ⟨n, c.iss.unit, s.cacheOf c.iss.unit, g.flatMap Piece.locs, [], none, false, some (c.spPort s (g.flatMap Piece.locs)),
    g.flatMap fun p => p.locs.zip p.bytes, Rank.plain⟩

theorem storePasses_eq {c : Ctx} {q : Req} (s : State) {xs : List Found} (hne : xs ≠ []) (hq : ∀ y ∈ xs, y.q = q)
    (bs : Found → List Byte) :
    c.storePasses s (xs.map fun x => (x, bs x)) = { s with
      nextId := s.nextId + (spPasses (szfSize q.szf) (piecesOf c q xs bs)).length
      flight := { s.flight with stores := s.flight.stores ++
        (spPasses (szfSize q.szf) (piecesOf c q xs bs)).mapIdx fun k g => storePass c s (s.nextId + k) g } } := by
  have hp : (xs.flatMap fun y => (c.spForm y.q).pieces (szfSize y.q.szf) y.a y.locs (bs y)) = piecesOf c q xs bs :=
    flatMap_eq_of_mem fun y hy => by rw [hq y hy]
  obtain ⟨x, ys, rfl⟩ := List.exists_cons_of_ne_nil hne
  unfold Ctx.storePasses
  rw [List.flatMap_map, hp, List.map_cons, List.head?_cons, Option.map_some, hq x List.mem_cons_self]
  exact foldl_inFlight (fun f ops => { f with stores := f.stores ++ ops }) (storePass c) (by simp) (by simp) (fun _ _ _ => rfl) _ s

/-- A list is made of its equal parts. -/
theorem mem_iff_mem_part {β : Type} {l : List β} {n e : Nat} (h : l.length ≤ n * e) {y : β} :
    y ∈ l ↔ ∃ k < n, y ∈ (l.drop (k * e)).take e := by
  constructor
  · intro hy
    obtain ⟨i, hi, rfl⟩ := List.mem_iff_getElem.1 hy
    have hin : i < n * e := Nat.lt_of_lt_of_le hi h
    have he : 0 < e := Nat.pos_of_ne_zero fun h0 => by simp [h0] at hin
    have hdm := Nat.div_add_mod' i e
    refine ⟨i / e, (Nat.div_lt_iff_lt_mul he).2 hin, List.mem_iff_getElem.2 ⟨i % e, ?_, ?_⟩⟩
    · rw [List.length_take, List.length_drop]
      exact Nat.lt_min.2 ⟨Nat.mod_lt _ he, by omega⟩
    · simp only [List.getElem_take, List.getElem_drop, hdm]
  · rintro ⟨k, -, hy⟩
    exact List.mem_of_mem_drop (List.mem_of_mem_take hy)

theorem SpAccess.exists_piece_iff {c : Ctx} {q : Req} {x : Found} (h : SpAccess c q x) {bs : List Byte} {P : Piece → Prop} :
    (∃ p ∈ (c.spForm q).pieces (szfSize q.szf) x.a x.locs bs, P p) ↔
      ∃ k, ∃ hk : k < x.a.lanes.length, P (pieceAt (c.spForm q) (szfSize q.szf) x.locs bs x.a.lanes[k] k) := by
  simp only [mem_pieces, h.lanesOr_eq, List.getElem?_eq_some_iff]
  constructor
  · rintro ⟨_, ⟨k, _, ⟨hk, rfl⟩, rfl⟩, hP⟩
    exact ⟨k, hk, hP⟩
  · rintro ⟨k, hk, hP⟩
    exact ⟨_, ⟨k, _, ⟨hk, rfl⟩, rfl⟩, hP⟩

/-- The pieces of an access store just its bytes: in the triple form each its part of them, else the first lane's all of them. -/
theorem SpAccess.stores {c : Ctx} {q : Req} {x : Found} (h : SpAccess c q x) {bs : List Byte} (hb : bs.length = x.locs.length)
    {y : Loc × Byte} :
    (∃ p ∈ (c.spForm q).pieces (szfSize q.szf) x.a x.locs bs, y ∈ p.locs.zip p.bytes) ↔ y ∈ x.locs.zip bs := by
  rw [h.exists_piece_iff]
  by_cases hf : c.spForm q = .each
  · obtain ⟨i, g, w, off, -, hlocs⟩ := h.place
    have hlen : (x.locs.zip bs).length = x.a.lanes.length * szfSize q.szf := by
      rw [h.triple hf, List.length_zip, hb, Nat.min_self, hlocs, List.length_map, List.length_range, hf, Form.size]
    rw [mem_iff_mem_part (Nat.le_of_eq hlen)]
    simp only [hf, pieceAt_each, exists_prop, List.zip, List.drop_zipWith, List.take_zipWith]
  · simp only [pieceAt_shared hf, exists_prop]
    constructor
    · rintro ⟨k, -, hy⟩
      by_cases hk : k = 0
      · rwa [if_pos hk] at hy
      · rw [if_neg hk, List.zip_nil_right] at hy
        cases hy
    · exact fun hy => ⟨0, List.length_pos_iff.2 h.lanes, by simpa using hy⟩

/-- The bytes of a lane among those of its access: its own element in the triple form, else the one element. -/
def ownBytes (c : Ctx) (q : Req) (x : Found) (l : Nat) : List Loc :=
  if c.spForm q = .each then (x.locs.drop (x.a.lanes.findIdx (· == l) * szfSize q.szf)).take (szfSize q.szf) else x.locs

/-- Every lane has a piece, of its own bytes. -/
theorem SpAccess.exists_piece {c : Ctx} {q : Req} {x : Found} (h : SpAccess c q x) (bs : List Byte) {l : Nat} (hl : l ∈ x.a.lanes) :
    ∃ p ∈ (c.spForm q).pieces (szfSize q.szf) x.a x.locs bs, p.lane = l ∧ p.locs = ownBytes c q x l := by
  have hk : x.a.lanes.findIdx (· == l) < x.a.lanes.length := List.findIdx_lt_length.2 ⟨l, hl, beq_self_eq_true l⟩
  have hkl : x.a.lanes[x.a.lanes.findIdx (· == l)]? = some l :=
    List.getElem?_eq_some_iff.2 ⟨hk, eq_of_beq (List.findIdx_getElem (w := hk))⟩
  refine ⟨_, mem_pieces.2 ⟨_, l, by rw [h.lanesOr_eq]; exact hkl, rfl⟩, pieceAt_lane .., ?_⟩
  unfold ownBytes
  by_cases hf : c.spForm q = .each
  · rw [if_pos hf, hf, pieceAt_each]
  · rw [if_neg hf, pieceAt_shared hf]

/-! ### The statement -/

section
variable {s : State} {c : Ctx} {q : Req} {xs : List Found}

/-- A pass of loads or stores goes through the issuer's port, and names one word of a bank at most. -/
def OnePass (s : State) (c : Ctx) (port : Option Nat) (locs : List Loc) : Prop := port = some (c.spPort s locs) ∧
  ∀ i g w off i' g' w' off', .sp i g w off ∈ locs → .sp i' g' w' off' ∈ locs → off / 4 % 32 = off' / 4 % 32 → off / 4 = off' / 4

theorem tiesLanes_iff : c.tiesLanes q = true ↔ c.single = false ∧ c.u.isCox = false ∧ q.vdata = true ∧ c.spForm q ≠ .each := by
  simp [Ctx.tiesLanes, and_assoc]

/-- The steps of an instruction's atomics go in flight a pass at a time. -/
theorem atomSp_passes (hs : ∀ x ∈ stepsOf c xs, x.lane < 96) (hn : ((stepsOf c xs).map AtomLane.lane).Nodup) :
    ∃ ops : List AtomOp, c.atomSp s q xs =
        { s with nextId := s.nextId + ops.length, flight := { s.flight with atomics := s.flight.atomics ++ ops } } ∧
      (∀ k op, ops[k]? = some op → op.id = s.nextId + k ∧ op.batch = s.nextId ∧ op.held = [] ∧
        op.unit = c.iss.unit ∧ op.szf = q.szf ∧ op.aop = (if q.kind = .cas then 7 else q.aop) ∧ (op.ret = true ↔ q.kind ≠ .atom) ∧
        op.reg = c.mo.data.toNat ∧ op.port = some (c.spPort s (op.lanes.map AtomLane.loc)) ∧ (op.lanes.map AtomLane.loc).Nodup ∧
        ∀ x ∈ op.lanes, x ∈ stepsOf c xs ∧ ∀ y ∈ op.lanes,
          x.lane / perPass (szfSize q.szf) = y.lane / perPass (szfSize q.szf) ∧ (x.word % 32 = y.word % 32 → x.word = y.word)) ∧
      (∀ x ∈ stepsOf c xs, ∃ op ∈ ops, x ∈ op.lanes) ∧
      ∀ (k j : Nat) (a b : AtomOp) (x y : AtomLane), ops[k]? = some a → ops[j]? = some b → x ∈ a.lanes → y ∈ b.lanes →
        x.loc = y.loc → x.lane < y.lane → k < j := by
  refine ⟨(atomPasses (szfSize q.szf) (stepsOf c xs)).mapIdx fun k g => atomPass c q s.nextId s (s.nextId + k) g, ?_, ?_, ?_, ?_⟩
  · rw [atomSp_eq, List.length_mapIdx]
  · intro k op hop
    obtain ⟨g, -, hg, rfl⟩ := mapIdx_some hop
    refine ⟨rfl, rfl, rfl, rfl, rfl, by simp [atomPass], by simp [atomPass], rfl, rfl, nodup_locs_of_pass hn hg, fun x hx => ?_⟩
    refine ⟨mem_of_mem_pass hg hx, fun y hy => ?_⟩
    obtain ⟨hbase, mine, hm, hm', ht⟩ := same_of_mem_pass hg hx hy
    exact ⟨hbase, stepWord_eq_of_turn hm hm' ht⟩
  · intro x hx
    obtain ⟨g, hg, hxg⟩ := exists_pass (lane := AtomLane.lane) (e := szfSize q.szf) stepTurn_lt hx (hs x hx)
    obtain ⟨k, hk⟩ := mapIdx_of_mem (fun k g => atomPass c q s.nextId s (s.nextId + k) g) hg
    exact ⟨_, hk, hxg⟩
  · intro k j a b x y ha hb hx hy hl hlt
    obtain ⟨g, hgk, -, rfl⟩ := mapIdx_some ha
    obtain ⟨g', hgj, -, rfl⟩ := mapIdx_some hb
    exact pass_lt_of_lane hn hgk hgj hx hy hl hlt

/-- The loads of an instruction's accesses go in flight a pass at a time. -/
theorem loadPasses_passes (hne : xs ≠ []) (h : ∀ x ∈ xs, SpAccess c q x) :
    ∃ ops : List LoadOp, c.loadPasses s xs =
        { s with nextId := s.nextId + ops.length, flight := { s.flight with loads := s.flight.loads ++ ops } } ∧
      (∀ k op, ops[k]? = some op → op.id = s.nextId + k ∧ op.unit = c.iss.unit ∧ op.reg = c.mo.data.toNat ∧ op.szf = q.szf ∧
        op.vdata = q.vdata ∧ (∀ b ∈ op.got, b = none) ∧ OnePass s c op.port op.locs ∧
        (op.tied = true ↔ c.single = false ∧ c.u.isCox = false ∧ q.vdata = true ∧ c.spForm q ≠ .each) ∧
        ∀ l ∈ op.lanes, ∀ l' ∈ op.lanes, l / perPass (szfSize q.szf) = l' / perPass (szfSize q.szf)) ∧
      ∀ x ∈ xs, ∀ l ∈ x.a.lanes, ∃ op ∈ ops, l ∈ op.lanes ∧ ∀ y ∈ ownBytes c q x l, y ∈ op.locs := by
  obtain ⟨x, xs, rfl⟩ := List.exists_cons_of_ne_nil hne
  have hx := h x List.mem_cons_self
  have hlanes (g : List Piece) (n : Nat) : (loadPass c x s n g).lanes = g.map Piece.lane := by
    simp [loadPass, Ctx.loadOp, hx.lanes]
  refine ⟨_, (loadPasses_eq s fun y hy => (h y hy).req).trans (by rw [List.length_mapIdx]), ?_, ?_⟩
  · intro k op hop
    obtain ⟨g, -, hg, rfl⟩ := mapIdx_some hop
    refine ⟨rfl, rfl, rfl, congrArg Req.szf hx.req, congrArg Req.vdata hx.req, fun b hb => ?_,
      ⟨rfl, fun _ _ _ _ _ _ _ _ => one_word_of_pass h hg⟩, ?_, ?_⟩
    · obtain ⟨l, -, rfl⟩ := List.mem_map.1 hb
      rfl
    · exact (congrArg (c.tiesLanes · = true) hx.req).to_iff.trans tiesLanes_iff
    · rw [hlanes]
      exact fun l hl l' hl' => one_base_of_pass hg hl hl'
  · intro y hy l hl
    obtain ⟨p, hp, hpl, hlocs⟩ := (h y hy).exists_piece [] hl
    obtain ⟨g, hg, hpg⟩ := exists_piecePass h (bs := fun _ => []) (mem_piecesOf.2 ⟨y, hy, hp⟩)
    obtain ⟨k, hk⟩ := mapIdx_of_mem (fun k g => loadPass c x s (s.nextId + k) g) hg
    refine ⟨_, hk, ?_, fun z hz => List.mem_flatMap.2 ⟨p, hpg, hlocs ▸ hz⟩⟩
    rw [hlanes]
    exact List.mem_map.2 ⟨p, hpg, hpl⟩

/-- The stores of an instruction's accesses go in flight a pass at a time. -/
theorem storePasses_passes (hne : xs ≠ []) (h : ∀ x ∈ xs, SpAccess c q x) {bs : Found → List Byte}
    (hb : ∀ x ∈ xs, (bs x).length = x.locs.length) :
    ∃ ops : List StoreOp, c.storePasses s (xs.map fun x => (x, bs x)) =
        { s with nextId := s.nextId + ops.length, flight := { s.flight with stores := s.flight.stores ++ ops } } ∧
      (∀ k op, ops[k]? = some op → op.id = s.nextId + k ∧ op.unit = c.iss.unit ∧ op.raise = none ∧ op.remote = false ∧
        op.bytes = [] ∧ OnePass s c op.port op.locs) ∧
      ∀ y, (∃ op ∈ ops, y ∈ op.spBytes) ↔ ∃ x ∈ xs, y ∈ x.locs.zip (bs x) := by
  refine ⟨_, (storePasses_eq s hne (fun y hy => (h y hy).req) bs).trans (by rw [List.length_mapIdx]), ?_, fun y => ⟨?_, ?_⟩⟩
  · intro k op hop
    obtain ⟨g, -, hg, rfl⟩ := mapIdx_some hop
    exact ⟨rfl, rfl, rfl, rfl, rfl, rfl, fun _ _ _ _ _ _ _ _ => one_word_of_pass h hg⟩
  · rintro ⟨op, hop, hy⟩
    obtain ⟨k, hk⟩ := List.getElem?_of_mem hop
    obtain ⟨g, -, hg, rfl⟩ := mapIdx_some hk
    obtain ⟨p, hp, hyp⟩ := List.mem_flatMap.1 hy
    obtain ⟨x, hx, hpx⟩ := mem_piecesOf.1 (mem_of_mem_pass hg hp)
    exact ⟨x, hx, ((h x hx).stores (hb x hx)).1 ⟨p, hpx, hyp⟩⟩
  · rintro ⟨x, hx, hy⟩
    obtain ⟨p, hp, hyp⟩ := ((h x hx).stores (hb x hx)).2 hy
    obtain ⟨g, hg, hpg⟩ := exists_piecePass h (mem_piecesOf.2 ⟨x, hx, hp⟩)
    obtain ⟨k, hk⟩ := mapIdx_of_mem (fun k g => storePass c s (s.nextId + k) g) hg
    exact ⟨_, hk, List.mem_flatMap.2 ⟨p, hpg, hyp⟩⟩

end

/-- Settles O37: the queue's order, then the passes of atomics, of loads and of stores, each put in flight under its own
number. That base passes go in the order of the lanes, and a bank's words in the order in which lanes name them, is log entry 102. -/
theorem scratchpad : Obligations.Scratchpad := by
  unfold Obligations.Scratchpad
  refine ⟨fun s id port => passNext_spec, fun s c q xs hs hn => atomSp_passes (fun x hx => (hs x hx).1) hn, ?_⟩
  intro s c q xs hne e per h onePass own
  have access : ∀ x ∈ xs, SpAccess c q x := by
    intro x hx
    obtain ⟨hq, hl, hsmall, h3, hplace⟩ := h x hx
    exact ⟨hq, hl, hsmall, h3, hplace⟩
  obtain ⟨ops, heq, hops, hall⟩ := loadPasses_passes (s := s) hne access
  exact ⟨⟨ops, heq, hops, fun x hx _ => hall x hx⟩, fun bs hb => storePasses_passes hne access hb⟩

end Sys2Proof.AddressSpaces
end

section
/-! SUPPORT. The order of issuer keys, in which the updates of a round are applied: one list in that order has the updates of a round,
whatever the order in which they came. -/

namespace Sys2Proof.Consistency

open Sys2Proof Sys2Proof.Machine

/-! ### Sorting by a key -/

section
variable {α : Type} (key : α → Nat)

theorem insertOn_perm (x : α) (l : List α) : (insertOn key x l).Perm (x :: l) := by
  induction l with
  | nil => rfl
  | cons y r ih =>
    unfold insertOn
    split
    · rfl
    · exact (ih.cons y).trans (.swap x y r)

theorem insertOn_sorted (x : α) {l : List α} (h : l.Pairwise (key · ≤ key ·)) : (insertOn key x l).Pairwise (key · ≤ key ·) := by
  induction l with
  | nil => exact List.pairwise_singleton _ x
  | cons y r ih =>
    obtain ⟨hy, hr⟩ := List.pairwise_cons.1 h
    unfold insertOn
    split
    case isTrue hlt =>
      refine List.pairwise_cons.2 ⟨fun z hz => ?_, h⟩
      obtain rfl | hz := List.mem_cons.1 hz
      · exact Nat.le_of_lt hlt
      · exact Nat.le_trans (Nat.le_of_lt hlt) (hy z hz)
    case isFalse hge =>
      refine List.pairwise_cons.2 ⟨fun z hz => ?_, ih hr⟩
      obtain rfl | hz := List.mem_cons.1 ((insertOn_perm key x r).mem_iff.1 hz)
      · exact Nat.le_of_not_lt hge
      · exact hy z hz

/-- Elements put in their places one after another stay in the order of their keys. -/
theorem foldl_insertOn (l : List α) {a : List α} (h : a.Pairwise (key · ≤ key ·)) :
    (l.foldl (fun a x => insertOn key x a) a).Perm (l ++ a) ∧
      (l.foldl (fun a x => insertOn key x a) a).Pairwise (key · ≤ key ·) := by
  induction l generalizing a with
  | nil => exact ⟨.refl a, h⟩
  | cons x l ih =>
    obtain ⟨hperm, hsorted⟩ := ih (insertOn_sorted key x h)
    exact ⟨(hperm.trans ((insertOn_perm key x a).append_left l)).trans List.perm_middle, hsorted⟩

/-- A list sorted is the list in another order, with rising keys. -/
theorem sortOn_spec (l : List α) : (sortOn key l).Perm l ∧ (sortOn key l).Pairwise (key · ≤ key ·) := by
  have h := foldl_insertOn key l .nil
  rwa [List.append_nil] at h

/-- Where keys rise strictly, no two elements share one. -/
theorem eq_of_key_eq {us : List α} (hus : us.Pairwise (key · < key ·)) {a b : α} (ha : a ∈ us) (hb : b ∈ us) (h : key a = key b) :
    a = b := by
  induction us with
  | nil => cases ha
  | cons x r ih =>
    obtain ⟨hx, hr⟩ := List.pairwise_cons.1 hus
    obtain rfl | har := List.mem_cons.1 ha <;> obtain rfl | hbr := List.mem_cons.1 hb
    · rfl
    · exact absurd h (Nat.ne_of_lt (hx b hbr))
    · exact absurd h.symm (Nat.ne_of_lt (hx a har))
    · exact ih hr har hbr

/-- Sorting finds the one order in which the keys rise strictly. -/
theorem sortOn_eq_of_perm {l us : List α} (hus : us.Pairwise (key · < key ·)) (h : us.Perm l) : sortOn key l = us := by
  obtain ⟨hperm, hsorted⟩ := sortOn_spec key l
  refine List.Perm.eq_of_pairwise (fun a b ha hb hab hba => ?_) hsorted (hus.imp Nat.le_of_lt) (hperm.trans h.symm)
  exact eq_of_key_eq key hus (h.symm.subset (hperm.subset ha)) hb (Nat.le_antisymm hab hba)

end

/-! ### Issuer keys (R137) -/

/-- The parts of an update's issuer key fit their fields. -/
def KeyFits (u : OUpdate) : Prop := u.issuer < 2 ^ 32 ∧ u.icount < 2 ^ 48 ∧ u.elempos < 2 ^ 64

/-- One issuer key comes before another, part by part. -/
def KeyBefore (u v : OUpdate) : Prop :=
  u.kclass < v.kclass ∨ u.kclass = v.kclass ∧ (u.issuer < v.issuer ∨ u.issuer = v.issuer ∧
    (u.icount < v.icount ∨ u.icount = v.icount ∧ u.elempos < v.elempos))

/-- The updates stand in ascending order of their keys. -/
def InKeyOrder (us : List OUpdate) : Prop := (∀ u ∈ us, KeyFits u) ∧ us.Pairwise KeyBefore

/-- A key that comes before another part by part is the lesser number. -/
theorem key_lt_of_before {u v : OUpdate} (hu : KeyFits u) (hv : KeyFits v) (h : KeyBefore u v) : u.key < v.key := by
  obtain ⟨hi, hc, he⟩ := hu
  obtain ⟨hi', hc', he'⟩ := hv
  unfold OUpdate.key
  obtain h | ⟨h0, h | ⟨h1, h | ⟨h2, h⟩⟩⟩ := h <;> omega

/-- The updates sorted are those in key order, in whatever order they came. -/
theorem sortOn_key_of_order {us l : List OUpdate} (h : InKeyOrder us) (hp : us.Perm l) : sortOn OUpdate.key l = us :=
  sortOn_eq_of_perm _ (h.2.imp_of_mem fun ha hb => key_lt_of_before (h.1 _ ha) (h.1 _ hb)) hp

end Sys2Proof.Consistency
end

section
/-! SUPPORT. An atomic of memory: the launches and the updates that it leaves alone, the memory that it comes to, and that it brings up
no line that fails its check. -/

namespace Sys2Proof.Consistency

open Sys2Proof Sys2Proof.Machine Sys2Proof.Laws Sys2Proof.PlatformFacts

/-! ### What a location's write leaves alone -/

@[simp] theorem wrLoc_dealer (s : State) (l : Loc) (b : Byte) : (s.wrLoc l b).dealer = s.dealer := by
  cases l <;> simp [State.wrLoc]

@[simp] theorem wrLoc_flight (s : State) (l : Loc) (b : Byte) : (s.wrLoc l b).flight = s.flight := by
  cases l <;> simp [State.wrLoc]

/-- An update takes effect at its place in memory (R140). -/
def perform (s : State) (u : OUpdate) : State := (s.atomAt (.mem u.pa) ⟨u.aop, u.szf, u.operand, 0, u.dir⟩).2

/-- What an update's writes keep, the update keeps. -/
theorem perform_keeps {P : State → Prop} (hw : ∀ t pa b, P t → P (t.wrLoc (.mem pa) b)) {s : State} (u : OUpdate) (h : P s) :
    P (perform s u) := by
  unfold perform State.atomAt
  dsimp only
  split
  · exact h
  · unfold State.wrLocs
    refine List.foldlRecOn _ _ h fun t ht x hx => ?_
    obtain ⟨j, -, hj⟩ := List.mem_map.1 (List.of_mem_zip hx).1
    exact hj ▸ hw t _ _ ht

@[simp] theorem perform_dealer (s : State) (u : OUpdate) : (perform s u).dealer = s.dealer :=
  perform_keeps (P := fun t => t.dealer = s.dealer) (fun _ _ _ h => (wrLoc_dealer _ _ _).trans h) u rfl

@[simp] theorem perform_flight (s : State) (u : OUpdate) : (perform s u).flight = s.flight :=
  perform_keeps (P := fun t => t.flight = s.flight) (fun _ _ _ h => (wrLoc_flight _ _ _).trans h) u rfl

@[simp] theorem performAll_dealer (us : List OUpdate) (s : State) : (us.foldl perform s).dealer = s.dealer :=
  foldl_keep _ State.dealer perform_dealer us s

@[simp] theorem performAll_flight (us : List OUpdate) (s : State) : (us.foldl perform s).flight = s.flight :=
  foldl_keep _ State.flight perform_flight us s

/-! ### What memory comes to -/

/-- Updates come to the same memory from states that a write to memory cannot tell apart. -/
theorem perform_alike {s t : State} (h : Alike s t) (u : OUpdate) : Alike (perform s u) (perform t u) := by
  have hr : s.rdLocs (locRun (.mem u.pa) (szfSize u.szf)) = t.rdLocs (locRun (.mem u.pa) (szfSize u.szf)) := by
    simp [State.rdLocs, locRun, State.rdLoc, List.zipIdx_map, h.mem]
  simp only [perform, State.atomAt, hr]
  split
  · exact h
  · exact h.wrLocs _ _

theorem performAll_alike {s t : State} (h : Alike s t) (us : List OUpdate) : Alike (us.foldl perform s) (us.foldl perform t) := by
  induction us generalizing s t with
  | nil => exact h
  | cons u us ih => exact ih (perform_alike h u)

/-! ### No line that fails its check -/

/-- No line of memory fails its check, and none would if its slice gave it up. -/
def Sound (s : State) : Prop := s.checks = [] ∧ ∀ x ∈ s.caches.l2, ∀ y, x.under = some y → y.2 = 0

theorem sound_setL2 {s : State} {ls : List L2Line} (h : Sound s) (hls : ∀ x ∈ ls, ∀ y, x.under = some y → y.2 = 0) :
    Sound (s.setL2 ls) := ⟨h.1, hls⟩

theorem sound_l2Evict {s : State} {x : L2Line} (h : Sound s) (hx : x ∈ s.caches.l2) : Sound (s.l2Evict x) := by
  have hleave : Sound (s.leaveSlice x) := by
    have hrest : (s.restoreCheck x).checks = [] := by
      unfold State.restoreCheck
      split
      case h_1 => exact h.1
      case h_2 bytes bad hu =>
        have hbad : bad = 0 := h.2 x hx _ hu
        simp [h.1, hbad, tset]
    unfold State.leaveSlice
    split
    · unfold State.dropBad
      split <;> exact h
    · split
      · exact h
      · exact ⟨hrest, by simpa using h.2⟩
  exact sound_setL2 hleave fun y hy => h.2 y (List.mem_filter.1 hy).1

theorem sound_l2Take {s : State} (h : Sound s) (pa : Nat) (r : Rank) : Sound (s.l2Take pa r) := by
  have hcons {t : State} (ht : Sound t) (x : L2Line) (hx : x.under = none) : Sound (t.setL2 (x :: t.caches.l2)) := by
    refine sound_setL2 ht fun y hy => ?_
    obtain rfl | hy := List.mem_cons.1 hy
    · simp [hx]
    · exact ht.2 y hy
  unfold State.l2Take
  dsimp only
  split
  · exact h
  · split
    · split
      · refine sound_setL2 h fun y hy => ?_
        obtain ⟨z, hz, rfl⟩ := List.mem_map.1 hy
        split <;> exact h.2 z hz
      · exact h
    · split
      · exact hcons h _ rfl
      · split
        case h_1 v hv =>
          have hset := (List.mem_filter.1 (List.mem_of_getElem? hv)).1
          have hmem : v ∈ s.caches.l2 := (List.mem_filter.1 hset).1
          exact hcons (sound_l2Evict (s := s.fresh.2) h hmem) _ rfl
        case h_2 => exact hcons (t := s.fresh.2) h _ rfl

theorem sound_l2Dirty {s : State} (h : Sound s) (n : Nat) : Sound (s.l2Dirty n) := by
  refine sound_setL2 h fun y hy => ?_
  obtain ⟨z, hz, rfl⟩ := List.mem_map.1 hy
  have hz := h.2 z hz
  split
  · intro w hw
    cases hu : z.under with
    | none => simp [hu, h.1, tget] at hw; simp [← hw]
    | some v => simp [hu] at hw; exact hz w (hw ▸ hu)
  · exact hz

/-- Every write at a line's point of coherence leaves all lines good. -/
theorem sound_l2Write {s : State} (h : Sound s) (pa : Nat) (bs : List Byte) (r : Rank) : Sound (s.l2Write pa bs r) := by
  have hback : Sound (s.backInvalidate (pa / 64)) := by
    unfold State.backInvalidate
    split <;> exact h
  have hd := sound_l2Dirty (sound_l2Take hback pa r) (pa / 64)
  exact ⟨congrArg (rewritten · pa bs.length) hd.1, hd.2⟩

theorem sound_perform {s : State} (h : Sound s) (u : OUpdate) : Sound (perform s u) :=
  perform_keeps (P := Sound) (fun _ _ _ ht => sound_l2Write ht _ _ _) u h

/-- Where all lines are good, no run of memory holds one that fails its check. -/
theorem Sound.badLine {s : State} (h : Sound s) (pa n : Nat) : s.badLine (locRun (.mem pa) n) = none := by
  simp [State.badLine, locRun, State.lineBad, h.1, tget]

theorem Sound.badLine_mem {s : State} (h : Sound s) (pa : Nat) : s.badLine [.mem pa] = none := h.badLine pa 1

/-- An update whose line is good takes effect. -/
theorem applyUpdate_of_good {s : State} {u : OUpdate} (h : s.badLine (locRun (.mem u.pa) (szfSize u.szf)) = none) :
    s.applyUpdate u = perform s u := by
  simp [State.applyUpdate, h, perform]

/-- Where all lines are good, every update takes effect. -/
theorem applyAll_of_sound {s : State} (h : Sound s) (us : List OUpdate) : us.foldl State.applyUpdate s = us.foldl perform s := by
  induction us generalizing s with
  | nil => rfl
  | cons u us ih =>
    rw [List.foldl_cons, List.foldl_cons, applyUpdate_of_good (h.badLine _ _)]
    exact ih (sound_perform h u)

end Sys2Proof.Consistency
end

section
/-! SUPPORT. The close of a round and the report of a share: what is told, the updates that are taken and the memory they come to. -/

namespace Sys2Proof.Consistency

open Sys2Proof Sys2Proof.Machine Sys2Proof.Laws Sys2Proof.PlatformFacts

/-! ### The launch of an identifier -/

theorem launch?_congr {s t : State} (h : t.dealer = s.dealer) (n : Word) : t.launch? n = s.launch? n := by
  simp only [State.launch?, h]

/-- A launch changed in what does not name it is found changed. -/
theorem launch?_modLaunch (s : State) (n : Word) {f : Launch → Launch} (hf : ∀ x, (f x).lr = x.lr ∧ (f x).reject = x.reject) :
    (s.modLaunch n f).launch? n = (s.launch? n).map f := by
  have same : ((fun x : Launch => x.lr.ident == n && x.reject == 0) ∘ fun x => if x.lr.ident == n && x.reject == 0 then f x else x) =
      fun x => x.lr.ident == n && x.reject == 0 := by
    funext x
    dsimp only [Function.comp]
    split
    · rw [(hf x).1, (hf x).2]
    · rfl
  unfold State.launch? State.modLaunch
  rw [List.find?_map, same]
  cases h : s.dealer.launches.find? fun x => x.lr.ident == n && x.reject == 0 with
  | none => rfl
  | some x => exact congrArg some (if_pos (List.find?_some h))

/-! ### Reports (R373) -/

theorem tellPeers_mem (s : State) (lr : LaunchRec) (n : Nat) (b : Bool) : (s.tellPeers lr n b).mem = s.mem := by
  unfold State.tellPeers
  dsimp only
  split
  · rfl
  · refine (foldl_keep _ State.mem ?_ _ _).trans rfl
    exact fun _ _ => rfl

theorem tellPeers_dealer (s : State) (lr : LaunchRec) (n : Nat) (b : Bool) : (s.tellPeers lr n b).dealer = s.dealer := by
  unfold State.tellPeers
  dsimp only
  split
  · rfl
  · refine (foldl_keep _ State.dealer ?_ _ _).trans rfl
    exact fun _ _ => rfl

/-- A share that has passed more than it has told tells it. -/
theorem roundClose_tells {s : State} {l : Launch} (hl : s.launch? l.lr.ident = some l) (hc : l.cancelled = false)
    (hset : 1 < l.lr.setSize) (htold : l.told ≠ some (s.report l)) :
    exec (.roundClose l.lr.ident) s =
      .next ((s.tellPeers l.lr (s.report l).1 (s.report l).2).modLaunch l.lr.ident fun x => { x with told := some (s.report l) }) := by
  simp [exec_roundClose, execRoundClose, hl, hc, hset, htold]

/-! ### The close of a round (R138) -/

/-- A launch's update of a round that another package has accepted. -/
def farOf (ident : Word) (k : Nat) (u : OUpdate) : Bool := u.unit.ident == ident && u.remote && u.place != .sent && u.round == k

/-- The state with a round of the launch closed, before the updates that lie on other packages show. -/
def closing (s : State) (l : Launch) : State :=
  { s.modLaunch l.lr.ident fun x => { x with closed := x.closed + 1 } with
    flight := { s.flight with updates := s.flight.updates.filter fun u => !(farOf l.lr.ident l.closed u) } }

/-- A round that every share has passed closes, and its updates that lie on other packages show in key order. -/
theorem roundClose_closes {s : State} {l : Launch} {n : Nat} (hl : s.launch? l.lr.ident = some l) (hc : l.cancelled = false)
    (htold : l.lr.setSize ≤ 1 ∨ l.told = some (s.report l)) (hn : s.closeLimit l = some n) (hlt : l.closed < n) :
    exec (.roundClose l.lr.ident) s =
      .next ((sortOn OUpdate.key (s.flight.updates.filter (farOf l.lr.ident l.closed))).foldl perform (closing s l)) := by
  have hnot : ¬ (1 < l.lr.setSize ∧ ¬ l.told = some (s.report l)) := fun h => htold.elim (Nat.not_le.2 h.1) h.2
  simp only [exec_roundClose, execRoundClose, hl, hc, hn, Bool.and_eq_true, decide_eq_true_eq, bne_iff_ne, ne_eq, if_neg hnot,
    if_neg (Nat.not_le.2 hlt), Bool.false_eq_true, if_false]
  rfl

theorem closing_launch? {s : State} {l : Launch} (hl : s.launch? l.lr.ident = some l) :
    (closing s l).launch? l.lr.ident = some { l with closed := l.closed + 1 } := by
  have h := launch?_modLaunch s l.lr.ident (f := fun x => { x with closed := x.closed + 1 }) fun _ => ⟨rfl, rfl⟩
  exact h.trans (congrArg (Option.map _) hl)

theorem closing_alike (s : State) (l : Launch) : Alike (closing s l) s := ⟨rfl, rfl, rfl⟩

end Sys2Proof.Consistency
end

section
/-! SUPPORT. A slice applies its updates of a closed round (R140): the updates it reads, the state they are applied to, and what stays of
them. -/

namespace Sys2Proof.Consistency

open Sys2Proof Sys2Proof.Machine Sys2Proof.Laws Sys2Proof.PlatformFacts

/-! ### The parts of the step -/

/-- A launch's update of a round that waits in a slice of this package. -/
def waitsOn (ident : Word) (slice k : Nat) (u : OUpdate) : Bool :=
  u.unit.ident == ident && u.slice == slice && !u.remote && u.place != .sent && u.round == k

/-- The updates that a slice has of the next round it applies. -/
def waiting (s : State) (l : Launch) (slice : Nat) : List OUpdate :=
  s.flight.updates.filter (waitsOn l.lr.ident slice (l.appliedOn slice))

/-- The overflow entry that holds an update fails its check. -/
def entryBad (s : State) (lr : LaunchRec) (u : OUpdate) : Option (Option Nat × Nat) :=
  match u.place with
  | .spilled e => s.badLine [.mem (lr.ovfEntry e)]
  | _ => none

/-- An update as the slice reads it: an overflow entry may have changed, and is discarded then (R139). -/
def readBack (s : State) (lr : LaunchRec) (u : OUpdate) : Option OUpdate :=
  match u.place with
  | .spilled e => s.entryOf lr u e
  | _ => some u

/-- The overflow entries that updates hold. -/
def entriesOf (us : List OUpdate) : List Nat :=
  us.filterMap fun u => match u.place with
    | .spilled e => some e
    | _ => none

/-- A launch whose next round a slice has applied, with its entries free and `bad` of them discarded. -/
def roundTaken (slice k : Nat) (freed : List Nat) (bad : Nat) (l : Launch) : Launch :=
  { l with
    applied := (slice, k + 1) :: l.applied.filter fun y => y.1 != slice
    ovfUsed := l.ovfUsed.filter fun e => !(freed.contains e), ovfDisc := min (l.ovfDisc + bad) (2 ^ 32 - 1) }

/-- The state in which a slice has taken its updates of the next round, and applied none yet. -/
def taken (s : State) (l : Launch) (slice bad : Nat) : State :=
  State.modLaunch { s with flight := { s.flight with
      updates := s.flight.updates.filter fun u => !(waitsOn l.lr.ident slice (l.appliedOn slice) u) } }
    l.lr.ident (roundTaken slice (l.appliedOn slice) (entriesOf (waiting s l slice)) bad)

/-- The updates that a slice reads, in key order, and how many of its entries it discards. -/
def reads (s : State) (l : Launch) (slice : Nat) : List OUpdate × Nat :=
  s.roundOf l.lr ((waiting s l slice).filter fun u => (entryBad s l.lr u).isNone)

/-- The entries whose lines fail their checks, with the units that sent them. -/
def unreadOf (s : State) (lr : LaunchRec) (us : List OUpdate) : List (UnitRef × Option Nat × Nat) :=
  us.filterMap fun u => (entryBad s lr u).map fun x => (u.unit, x)

/-- The state after a slice has applied its next round. -/
def afterRound (s : State) (l : Launch) (slice : Nat) : State :=
  (unreadOf s l.lr (waiting s l slice)).foldl (fun t x => t.integrityCheck x.1 x.2)
    ((reads s l slice).1.foldl State.applyUpdate (taken s l slice (reads s l slice).2))

theorem exec_roundApply_next {s : State} {l : Launch} {slice : Nat} (hl : s.launch? l.lr.ident = some l) (hc : l.cancelled = false)
    (hk : l.appliedOn slice < l.closed) (hs : slice ∈ s.clustersOf s.pkg) :
    exec (.roundApply l.lr.ident slice) s = .next (afterRound s l slice) := by
  have hgo : (l.cancelled || decide (l.closed ≤ l.appliedOn slice) || !((s.clustersOf s.pkg).contains slice)) = false := by
    simp [hc, hk, hs]
  simp only [exec_roundApply, execRoundApply, hl, hgo, Bool.false_eq_true, if_false]
  rfl

/-! ### What a slice keeps of its updates -/

/-- A fold of steps that add no ordered update adds none. -/
theorem foldl_updates_subset {α : Type} (f : State → α → State) (hf : ∀ s a, (f s a).flight.updates ⊆ s.flight.updates)
    (l : List α) (s : State) : (l.foldl f s).flight.updates ⊆ s.flight.updates := by
  induction l generalizing s with
  | nil => exact fun _ h => h
  | cons a l ih => exact fun u hu => hf s a (ih (f s a) hu)

@[simp] theorem writeBack_flight (s : State) (x : L1Line) : (s.writeBack x).flight = s.flight := by
  unfold State.writeBack
  dsimp only
  split
  · split
    · have hruns (t : State) (runs : List (Nat × List Byte)) :
          (runs.foldl (fun (s : State) r => s.l2Write r.1 r.2) t).flight = t.flight :=
        foldl_keep _ State.flight (fun _ _ => l2Write_flight _ _ _ _) _ _
      split
      · exact (hruns _ _).trans (reachL2_flight _ _ _ _ _ _)
      · exact (hruns _ _).trans (reachL2_flight _ _ _ _ _ _)
    · split
      · simp
      · refine (foldl_keep _ State.flight ?_ _ _).trans (by simp)
        exact fun _ _ => rfl
  · rfl

@[simp] theorem writeBackPrivate_flight (s : State) (c : Nat) : (s.writeBackPrivate c).flight = s.flight :=
  (setL1_flight _ _).trans (foldl_keep _ State.flight writeBack_flight _ _)

@[simp] theorem reapGang_flight (s : State) (n : Word) (g : Nat) : (s.reapGang n g).flight = s.flight := by
  unfold State.reapGang
  split <;> rfl

@[simp] theorem dump_flight (s : State) (c : Crew) (k : Nat) (pc : Word) : (s.dump c k pc).flight = s.flight := by
  unfold State.dump
  split
  · rfl
  · simp [State.eventPost]

@[simp] theorem integrityRecord_flight (s : State) (n : Word) (k : Nat) (x : Option Nat × Nat) :
    (s.integrityRecord n k x).flight = s.flight := by
  obtain ⟨_ | pa, w⟩ := x <;> simp [State.integrityRecord, State.paddrOf]

/-- The end of a launch abandons its updates (R144) and adds none. -/
theorem endLaunch_updates (s : State) (n : Word) :
    (s.endLaunch n).flight.updates = s.flight.updates.filter fun u => !(u.unit.ident == n) := by
  unfold State.endLaunch
  dsimp only
  rw [foldl_keep _ State.flight (fun s g => reapGang_flight s n g), modLaunch_flight]
  dsimp only
  rw [foldl_keep _ State.flight writeBackPrivate_flight]

theorem integrityCheck_updates (s : State) (r : UnitRef) (x : Option Nat × Nat) :
    (s.integrityCheck r x).flight.updates ⊆ s.flight.updates := by
  unfold State.integrityCheck
  dsimp only
  intro u hu
  rw [endLaunch_updates] at hu
  have hu := (List.mem_filter.1 hu).1
  split at hu <;> simpa using hu

theorem applyUpdate_updates (s : State) (u : OUpdate) : (s.applyUpdate u).flight.updates ⊆ s.flight.updates := by
  unfold State.applyUpdate
  dsimp only
  split
  · exact integrityCheck_updates _ _ _
  · show (perform s u).flight.updates ⊆ s.flight.updates
    rw [perform_flight]
    exact List.Subset.refl _

/-- A slice keeps none of the updates of a round that it has applied. -/
theorem afterRound_keeps_none (s : State) (l : Launch) (slice : Nat) :
    ∀ u ∈ (afterRound s l slice).flight.updates, waitsOn l.lr.ident slice (l.appliedOn slice) u = false := by
  intro u hu
  have hu := foldl_updates_subset _ applyUpdate_updates _ _ (foldl_updates_subset _ (fun _ _ => integrityCheck_updates _ _ _) _ _ hu)
  simpa using (List.mem_filter.1 hu).2

/-! ### What the launch and memory come to -/

theorem taken_launch? {s : State} {l : Launch} (hl : s.launch? l.lr.ident = some l) (slice bad : Nat) :
    (taken s l slice bad).launch? l.lr.ident =
      some (roundTaken slice (l.appliedOn slice) (entriesOf (waiting s l slice)) bad l) :=
  (launch?_modLaunch _ _ (f := roundTaken slice _ _ bad) fun _ => ⟨rfl, rfl⟩).trans (congrArg (Option.map _) hl)

@[simp] theorem roundTaken_appliedOn (slice k : Nat) (freed : List Nat) (bad : Nat) (l : Launch) :
    (roundTaken slice k freed bad l).appliedOn slice = k + 1 := by
  simp [roundTaken, Launch.appliedOn]

/-- A state whose slice has taken its round, and the one before: no write to memory tells them apart, and the same lines are good. -/
theorem taken_alike (s : State) (l : Launch) (slice bad : Nat) : Alike (taken s l slice bad) s := ⟨rfl, rfl, rfl⟩

theorem taken_badLine (s : State) (l : Launch) (slice bad : Nat) : (taken s l slice bad).badLine = s.badLine := rfl

theorem taken_sound {s : State} (h : Sound s) (l : Launch) (slice bad : Nat) : Sound (taken s l slice bad) := h

theorem unreadOf_eq_nil {s : State} {lr : LaunchRec} {us : List OUpdate} (h : ∀ u ∈ us, entryBad s lr u = none) :
    unreadOf s lr us = [] := by
  simp +contextual [unreadOf, h]

/-- Where every entry can be read, the updates that the slice reads are all of its round's. -/
theorem reads_of_entries_good {s : State} {l : Launch} {slice : Nat} (h : ∀ u ∈ waiting s l slice, entryBad s l.lr u = none) :
    reads s l slice = s.roundOf l.lr (waiting s l slice) := by
  unfold reads
  rw [List.filter_eq_self.2 fun u hu => by rw [h u hu]; rfl]

/-! ### Rounds read -/

theorem entryBad_of_spilled {s : State} {lr : LaunchRec} {u : OUpdate} {e : Nat} (h : u.place = .spilled e) :
    entryBad s lr u = s.badLine [.mem (lr.ovfEntry e)] := by
  rw [entryBad, h]

theorem entryBad_of_held {s : State} {lr : LaunchRec} {u : OUpdate} (h : u.place = .held) : entryBad s lr u = none := by
  rw [entryBad, h]

theorem readBack_of_spilled {s : State} {lr : LaunchRec} {u : OUpdate} {e : Nat} (h : u.place = .spilled e) :
    readBack s lr u = s.entryOf lr u e := by
  rw [readBack, h]

theorem readBack_of_held {s : State} {lr : LaunchRec} {u : OUpdate} (h : u.place = .held) : readBack s lr u = some u := by
  rw [readBack, h]

theorem entryBad_of_sound {s : State} (h : Sound s) (lr : LaunchRec) (u : OUpdate) : entryBad s lr u = none := by
  unfold entryBad
  split
  · exact h.badLine_mem _
  · rfl

theorem roundOf_eq (s : State) (lr : LaunchRec) (us : List OUpdate) :
    s.roundOf lr us =
      (sortOn OUpdate.key (us.filterMap (readBack s lr)), us.length - (us.filterMap (readBack s lr)).length) := rfl

/-- What a slice reads of a round does not hang on the order in which its updates came. -/
theorem roundOf_of_order {s : State} {lr : LaunchRec} {us mine : List OUpdate} (hus : InKeyOrder us)
    (hp : (us.map some).Perm (mine.map (readBack s lr))) : s.roundOf lr mine = (us, 0) := by
  have hread : us.Perm (mine.filterMap (readBack s lr)) := by
    have := hp.filterMap id
    simpa [List.filterMap_map] using this
  have hlen : mine.length = us.length := by simpa using hp.length_eq.symm
  rw [roundOf_eq, sortOn_key_of_order hus hread, ← hread.length_eq, hlen, Nat.sub_self]

/-- A round of one update that reads. -/
theorem roundOf_single {s : State} {lr : LaunchRec} {u v : OUpdate} (h : readBack s lr u = some v) : s.roundOf lr [u] = ([v], 0) := by
  simp [roundOf_eq, h, sortOn, insertOn]

/-- A round of one entry that the slice discards. -/
theorem roundOf_discarded {s : State} {lr : LaunchRec} {u : OUpdate} (h : readBack s lr u = none) : s.roundOf lr [u] = ([], 1) := by
  simp [roundOf_eq, h, sortOn]

/-! ### Rounds applied -/

section
variable {s : State} {l : Launch} {slice bad : Nat} {us : List OUpdate}

/-- What a round leaves: memory as its updates in their order make it, and a launch of which the slice has applied one round more. -/
structure Leaves (s : State) (l : Launch) (slice bad : Nat) (us : List OUpdate) (t : State) : Prop where
  mem : t.mem = (us.foldl perform s).mem
  launch : t.launch? l.lr.ident = some (roundTaken slice (l.appliedOn slice) (entriesOf (waiting s l slice)) bad l)

theorem Leaves.appliedOn {t : State} (h : Leaves s l slice bad us t) :
    (t.launch? l.lr.ident).map (fun x => x.appliedOn slice) = some (l.appliedOn slice + 1) := by
  rw [h.launch, Option.map_some, roundTaken_appliedOn]

theorem Leaves.ovfDisc {t : State} (h : Leaves s l slice bad us t) :
    (t.launch? l.lr.ident).map Launch.ovfDisc = some (min (l.ovfDisc + bad) (2 ^ 32 - 1)) := by
  rw [h.launch]
  rfl

/-- A round whose entries can all be read, and whose updates all take effect. -/
theorem afterRound_of_good (hl : s.launch? l.lr.ident = some l) (hent : ∀ u ∈ waiting s l slice, entryBad s l.lr u = none)
    (hr : s.roundOf l.lr (waiting s l slice) = (us, bad))
    (hgood : us.foldl State.applyUpdate (taken s l slice bad) = us.foldl perform (taken s l slice bad)) :
    Leaves s l slice bad us (afterRound s l slice) := by
  have he : afterRound s l slice = us.foldl perform (taken s l slice bad) := by
    unfold afterRound
    rw [unreadOf_eq_nil hent, reads_of_entries_good hent, hr]
    exact hgood
  rw [he]
  exact ⟨(performAll_alike (taken_alike s l slice bad) us).mem, (launch?_congr (performAll_dealer us _) _).trans (taken_launch? hl _ _)⟩

/-- Where all lines are good, a round whose updates all read is applied in key order, whatever the order in which they came. -/
theorem afterRound_of_sound (hl : s.launch? l.lr.ident = some l) (hs : Sound s) (hus : InKeyOrder us)
    (hp : (us.map some).Perm ((waiting s l slice).map (readBack s l.lr))) : Leaves s l slice 0 us (afterRound s l slice) :=
  afterRound_of_good hl (fun u _ => entryBad_of_sound hs l.lr u) (roundOf_of_order hus hp)
    (applyAll_of_sound (taken_sound hs l slice 0) us)

/-- A round without updates. -/
theorem afterRound_of_none (hl : s.launch? l.lr.ident = some l) (hw : waiting s l slice = []) :
    Leaves s l slice 0 [] (afterRound s l slice) :=
  afterRound_of_good hl (by simp [hw]) (by rw [hw]; rfl) rfl

variable {u v : OUpdate}

/-- A round of one update that reads, on a good line. -/
theorem afterRound_of_one (hl : s.launch? l.lr.ident = some l) (hw : waiting s l slice = [u]) (hent : entryBad s l.lr u = none)
    (hv : readBack s l.lr u = some v) (hgood : s.badLine (locRun (.mem v.pa) (szfSize v.szf)) = none) :
    Leaves s l slice 0 [v] (afterRound s l slice) :=
  afterRound_of_good hl (by simpa [hw] using hent) (by rw [hw, roundOf_single hv])
    (applyUpdate_of_good ((congrFun (taken_badLine s l slice 0) _).trans hgood))

/-- A round of one entry that the slice discards. -/
theorem afterRound_of_discarded (hl : s.launch? l.lr.ident = some l) (hw : waiting s l slice = [u])
    (hent : entryBad s l.lr u = none) (hv : readBack s l.lr u = none) : Leaves s l slice 1 [] (afterRound s l slice) :=
  afterRound_of_good hl (by simpa [hw] using hent) (by rw [hw, roundOf_discarded hv]) rfl

end

end Sys2Proof.Consistency
end

section
/-! SUPPORT. The dealer's writes: whatever they come to, the launches of the window stay as they are. -/

namespace Sys2Proof.Consistency

open Sys2Proof Sys2Proof.Machine Sys2Proof.Laws

/-! ### Translation -/

@[simp] theorem integrityRecord_dealer (s : State) (n : Word) (k : Nat) (x : Option Nat × Nat) :
    (s.integrityRecord n k x).dealer = s.dealer := by
  obtain ⟨_ | pa, w⟩ := x <;> simp [State.integrityRecord, State.paddrOf]

@[simp] theorem badTable_dealer (s : State) (k : Asker) (n w : Nat) : (s.badTable k n w).dealer = s.dealer := by
  simp [State.badTable, State.dropTableLine]

@[simp] theorem walkFill_dealer (s : State) (e : WalkEntry) : (s.walkFill e).dealer = s.dealer := by
  unfold State.walkFill
  dsimp only
  (repeat' split) <;> rfl

@[simp] theorem tlbFill_dealer (s : State) (e : TlbEntry) : (s.tlbFill e).dealer = s.dealer := by
  unfold State.tlbFill
  dsimp only
  (repeat' split) <;> rfl

@[simp] theorem tlbFills_dealer (s : State) (tlbs : List Nat) (asid va : Nat) (r : WalkResult) :
    (s.tlbFills tlbs asid va r).dealer = s.dealer := by
  refine foldl_keep _ State.dealer (fun t n => ?_) _ _
  split <;> simp

@[simp] theorem readEntry_dealer (s : State) (k : Asker) (pa : Nat) : (s.readEntry k pa).2.dealer = s.dealer := by
  unfold State.readEntry
  dsimp only
  (repeat' split) <;> simp

/-- A walk changes no launch, whatever its levels come to. -/
theorem walkFrom_dealer (k : Asker) (die asid va n : Nat) :
    ∀ (table : Nat) (s : State), (walkFrom k die asid va n table s).2.dealer = s.dealer := by
  induction n with
  | zero => exact fun _ _ => rfl
  | succ level ih =>
    intro table s
    have hread := readEntry_dealer s k (table + entryOffset level va)
    unfold walkFrom
    dsimp only
    split
    case h_1 =>
      split
      · exact badTable_dealer _ _ _ _
      · split
        · exact ih _ _
        · rfl
    case h_2 =>
      split <;> rename_i he <;> rw [he] at hread
      · exact hread
      · split
        · exact (ih _ _).trans ((walkFill_dealer _ _).trans hread)
        · exact hread

@[simp] theorem walk_dealer (s : State) (k : Asker) (die asid va : Nat) : (s.walk k die asid va).2.dealer = s.dealer := by
  unfold State.walk
  dsimp only
  split
  · rfl
  · exact walkFrom_dealer _ _ _ _ _ _ _

@[simp] theorem translate_dealer (s : State) (k : Asker) (tlbs : List Nat) (die asid va : Nat) :
    (s.translate k tlbs die asid va).2.dealer = s.dealer := by
  unfold State.translate
  split <;> simp

/-! ### The dealer's accesses and writes (R141, R372) -/

theorem dealerPages_dealer (s : State) (ident : Word) (asid va n : Nat) (write : Bool) :
    (s.dealerPages ident asid va n write).2.dealer = s.dealer := by
  unfold State.dealerPages
  refine List.foldlRecOn (motive := fun x : Except (Nat × Nat) (List (Nat × Nat)) × State => x.2.dealer = s.dealer) _ _ rfl
    fun x hx j _ => ?_
  have ht := (translate_dealer x.2 ⟨ident, dealerSource⟩ [] 0 asid (va + j)).trans hx
  split
  · exact hx
  · split <;> rename_i he <;> rw [he] at ht
    · exact ht
    · split <;> exact ht

theorem dealerAt_dealer (s : State) (ident : Word) (asid va n al : Nat) (write : Bool) :
    (s.dealerAt ident asid va n al write).2.dealer = s.dealer := by
  have hpages := dealerPages_dealer s ident asid va n write
  unfold State.dealerAt
  split
  · rfl
  · split
    · rfl
    · split
      · rfl
      · split
        · rfl
        · split <;> rename_i he <;> rw [he] at hpages
          · exact hpages
          · (repeat' split) <;> exact hpages
    · split <;> rfl

theorem dealerWrite_dealer (s : State) (ident : Word) (bytes : List (Nat × Byte)) : (s.dealerWrite ident bytes).dealer = s.dealer := by
  have hbytes (bs : List (Nat × Byte)) (t : State) : (bs.foldl (fun (s : State) b => s.l2Write b.1 [b.2]) t).dealer = t.dealer :=
    foldl_keep _ State.dealer (fun _ _ => l2Write_dealer _ _ _ _) _ _
  unfold State.dealerWrite
  split
  · exact hbytes _ _
  · refine (foldl_keep _ State.dealer (fun t g => ?_) _ _).trans (openStream_dealer _ _ _ _ _)
    split
    · rfl
    · split
      · exact hbytes _ _
      · rfl

/-- A write of the dealer's, performed or not, leaves the launches of the window as they are. -/
theorem dealerPut_dealer (s : State) (ident : Word) (asid va al : Nat) (bs : List Byte) :
    (s.dealerPut ident asid va al bs).2.dealer = s.dealer := by
  have hat := dealerAt_dealer s ident asid va bs.length al true
  unfold State.dealerPut
  split <;> rename_i he <;> rw [he] at hat
  · exact (dealerWrite_dealer _ _ _).trans hat
  · exact (ringPost_dealer _ _ _).trans hat
  · exact (ringPost_dealer _ _ _).trans hat

/-! ### The round word (R141) -/

/-- The dealer's write of the round word that comes next. -/
def putRoundWord (s : State) (l : Launch) : Option (List Nat) × State :=
  s.dealerPut l.lr.ident l.lr.asid l.lr.roundWord.toNat 8 (leBytes 4 (l.roundWritten + 1) ++ leBytes 4 0)

section
variable {s s1 : State} {l : Launch}

/-- A round word that is due is written, and counts one round more. -/
theorem roundWordWrite_written (hl : s.launch? l.lr.ident = some l) (hp : l.roundParked = none) (hlt : l.roundWritten < s.appliedAll l)
    (ho : s.dealerOut l.lr.ident = false) (hput : putRoundWord s l = (none, s1)) :
    exec (.roundWordWrite l.lr.ident) s =
      .next (s1.modLaunch l.lr.ident fun x => { x with roundWritten := l.roundWritten + 1 }) := by
  unfold putRoundWord at hput
  simp [exec_roundWordWrite, execRoundWordWrite, hl, hp, hlt, ho, hput]

/-- A round word that does not translate parks the launch's write on its pages. -/
theorem roundWordWrite_parked {pages : List Nat} (hl : s.launch? l.lr.ident = some l) (hp : l.roundParked = none)
    (hlt : l.roundWritten < s.appliedAll l) (ho : s.dealerOut l.lr.ident = false) (hput : putRoundWord s l = (some pages, s1)) :
    exec (.roundWordWrite l.lr.ident) s = .next (s1.modLaunch l.lr.ident fun x => { x with roundParked := some pages }) := by
  unfold putRoundWord at hput
  simp [exec_roundWordWrite, execRoundWordWrite, hl, hp, hlt, ho, hput]

/-- The launch as the write of its round word finds it is the one that asked for it. -/
theorem putRoundWord_launch? {r : Option (List Nat)} (hl : s.launch? l.lr.ident = some l) (hput : putRoundWord s l = (r, s1)) :
    s1.launch? l.lr.ident = some l := by
  have hd : (putRoundWord s l).2.dealer = s.dealer := dealerPut_dealer _ _ _ _ _ _
  rw [hput] at hd
  exact (launch?_congr hd _).trans hl

end

/-! ### Completion (R146, R372) -/

/-- The dealer's write of a launch's completion record. -/
def putCompletion (s : State) (l : Launch) : Option (List Nat) × State :=
  s.dealerPut l.lr.ident (if l.reject = 0 then l.lr.asid else l.queueAsid) (l.lr.compl.toNat + 32 * l.lr.rankOf s.pkg) 1 l.completion

theorem dropLaunch_accept (s : State) (l : Launch) : ∀ x ∈ (s.dropLaunch l).dealer.launches, x.accept ≠ l.accept := by
  intro x hx
  simpa using (List.mem_filter.1 hx).2

/-- A change that keeps a launch's number has been made to every launch of that number. -/
theorem modAccepted_spec {P : Launch → Prop} {f : Launch → Launch} (s : State) (n : Word) (hf : ∀ x, P (f x)) :
    ∀ x ∈ (s.modAccepted n f).dealer.launches, x.accept = n → P x := by
  intro x hx hn
  obtain ⟨y, -, rfl⟩ := List.mem_map.1 hx
  split at hn <;> rename_i hy
  · rw [if_pos hy]
    exact hf y
  · exact absurd (beq_iff_eq.2 hn) hy

section
variable {s s1 : State} {l : Launch}

/-- A launch whose record has been acknowledged leaves the window. -/
theorem launchComplete_acknowledged (hl : s.toComplete l.lr.ident = some l) (hp : l.phase = .sentRecord) :
    exec (.launchComplete l.lr.ident) s = .next (s.dropLaunch l) := by
  simp [exec_launchComplete, execLaunchComplete, hl, hp]

/-- A launch whose record is written leaves the window, or waits for the acknowledgment of a record that crosses the fabric. -/
theorem launchComplete_written (hl : s.toComplete l.lr.ident = some l) (hp : l.phase ≠ .sentRecord)
    (hput : putCompletion s l = (none, s1)) :
    exec (.launchComplete l.lr.ident) s = .next (if s1.dealerOut l.lr.ident then
      s1.modAccepted l.accept fun x => { x with phase := .sentRecord } else s1.dropLaunch l) := by
  unfold putCompletion at hput
  simp [exec_launchComplete, execLaunchComplete, hl, hp, hput]

/-- A launch whose record does not translate parks on its pages. -/
theorem launchComplete_parked {pages : List Nat} (hl : s.toComplete l.lr.ident = some l) (hp : l.phase ≠ .sentRecord)
    (hput : putCompletion s l = (some pages, s1)) :
    exec (.launchComplete l.lr.ident) s = .next (s1.modAccepted l.accept fun x => { x with phase := .parkedRecord pages }) := by
  unfold putCompletion at hput
  simp [exec_launchComplete, execLaunchComplete, hl, hp, hput]

end

end Sys2Proof.Consistency
end

section
/-! SUPPORT. Rounds and the completion of launches: the statement, from what each of the dealer's and the slices' events comes to. -/

namespace Sys2Proof.Consistency

open Sys2Proof Sys2Proof.Machine Sys2Proof.Laws

/-- Settles O50, event by event: a share's report and the close of a round (log entries 54 and 57), a slice's round applied, the round
word (R141), and the completion record (R372, log entry 79). -/
theorem roundsAndCompletion : Obligations.RoundsAndCompletion := by
  unfold Obligations.RoundsAndCompletion
  intro ordered applied sound
  refine ⟨fun s l hl hc => ⟨fun hset htold => ?report, fun htold n hn hlt => ?close⟩, fun s l slice hl hc hk hs => ?apply,
    fun s s1 l hl hp hlt ho => ⟨fun hput => ?word, fun pages hput => ?wordParked⟩, fun s s1 l hl => ?complete⟩
  case report =>
    refine ⟨_, roundClose_tells hl hc hset htold, tellPeers_mem _ _ _ _, ?_⟩
    rw [launch?_modLaunch, launch?_congr (tellPeers_dealer _ _ _ _), hl]
    · exact ⟨rfl, rfl⟩
    · exact fun _ => ⟨rfl, rfl⟩
  case close =>
    have hmem (us : List OUpdate) := (performAll_alike (closing_alike s l) us).mem
    refine ⟨_, roundClose_closes hl hc htold hn hlt, ?_, fun hnone => ?_, fun us hus hp => ?_, ?_⟩
    · rw [performAll_flight]
      rfl
    · have hfar : s.flight.updates.filter (farOf l.lr.ident l.closed) = [] := hnone
      rw [hmem, hfar]
      rfl
    · have hfar : us.Perm (s.flight.updates.filter (farOf l.lr.ident l.closed)) := hp
      rw [hmem, sortOn_key_of_order hus hfar]
      rfl
    · exact (launch?_congr (performAll_dealer _ _) _).trans (closing_launch? hl)
  case apply =>
    refine ⟨_, exec_roundApply_next hl hc hk hs, afterRound_keeps_none s l slice, fun us hus hp hsound => ?_, fun hnone => ?_,
      fun u hu hheld hgood => ?_, fun u e hu hspilled hentry => ?_⟩
    · have h : Leaves s l slice 0 us _ := afterRound_of_sound hl hsound hus hp
      exact ⟨h.mem, h.appliedOn⟩
    · have h := afterRound_of_none (slice := slice) hl hnone
      exact ⟨h.mem, h.appliedOn⟩
    · have h := afterRound_of_one (slice := slice) hl hu (entryBad_of_held hheld) (readBack_of_held hheld) hgood
      exact ⟨h.mem, h.appliedOn⟩
    · have hent : entryBad s l.lr u = none := (entryBad_of_spilled hspilled).trans hentry
      have hread : readBack s l.lr u = s.entryOf l.lr u e := readBack_of_spilled hspilled
      refine ⟨fun v hv hgood => ?_, fun hv => ?_⟩
      · have h := afterRound_of_one (slice := slice) hl hu hent (hread.trans hv) hgood
        exact ⟨h.mem, h.ovfDisc⟩
      · have h := afterRound_of_discarded (slice := slice) hl hu hent (hread.trans hv)
        exact ⟨h.mem, h.ovfDisc⟩
  case word =>
    refine ⟨_, roundWordWrite_written hl hp hlt ho hput, rfl, ?_⟩
    rw [launch?_modLaunch, putRoundWord_launch? hl hput]
    · rfl
    · exact fun _ => ⟨rfl, rfl⟩
  case wordParked =>
    refine ⟨_, roundWordWrite_parked hl hp hlt ho hput, rfl, ?_⟩
    rw [launch?_modLaunch, putRoundWord_launch? hl hput]
    · exact ⟨rfl, rfl⟩
    · exact fun _ => ⟨rfl, rfl⟩
  case complete =>
    refine ⟨fun hp => ⟨_, launchComplete_acknowledged hl hp, rfl, dropLaunch_accept _ _⟩, fun hp hput => ?_,
      fun pages hp hput => ?_⟩
    · refine ⟨_, launchComplete_written hl hp hput, ?_, fun ho => ?_, fun ho => ?_⟩
      · split <;> rfl
      · rw [ho]
        exact dropLaunch_accept _ _
      · rw [ho]
        exact modAccepted_spec _ _ fun _ => rfl
    · exact ⟨_, launchComplete_parked hl hp hput, rfl, modAccepted_spec _ _ fun _ => rfl⟩

end Sys2Proof.Consistency
end

section
/-! SUPPORT. One rounding: the multiple that each direction takes, and that a finite value of a format is rounded to its own encoding. -/

namespace Sys2Proof.FloatRounding

open Sys2Proof Sys2Proof.Machine

/-! ### The direction (R188, R189) -/

section
variable {neg odd : Bool} {rem k : Nat}

@[simp] theorem incr_zero : Dir.incr .zero neg odd rem k = false := by
  simp [Dir.incr]
@[simp] theorem incr_down : Dir.incr .down neg odd rem k = true ↔ rem ≠ 0 ∧ neg = true := by
  simp [Dir.incr]
@[simp] theorem incr_up : Dir.incr .up neg odd rem k = true ↔ rem ≠ 0 ∧ neg = false := by
  simp [Dir.incr]

/-- To nearest goes up past the half, and on the half from an odd multiple. -/
theorem incr_near : Dir.incr .near neg odd rem k = true ↔ 2 ^ (k - 1) < rem ∨ rem = 2 ^ (k - 1) ∧ odd = true := by
  have := Nat.two_pow_pos (k - 1)
  rw [Dir.incr]
  split
  case isTrue h => simp [h, Nat.ne_of_lt this]
  case isFalse => simp

end

/-! ### One rounding to a multiple of `2^q` -/

section
variable {d : Dir} {neg : Bool} {m : Nat} {e q : Int}

/-- A number that is a multiple already is exact. -/
theorem roundAt_of_le (h : q ≤ e) : roundAt d neg m e q = (m * 2 ^ (e - q).toNat, false) := if_pos h

/-- Otherwise the multiple below is taken, or the next one where the direction says so. -/
theorem roundAt_fst_of_lt (h : e < q) : (roundAt d neg m e q).1 = m / 2 ^ (q - e).toNat +
    if d.incr neg (m / 2 ^ (q - e).toNat % 2 == 1) (m % 2 ^ (q - e).toNat) (q - e).toNat then 1 else 0 := by
  rw [roundAt, if_neg (Int.not_le.2 h)]
  dsimp only
  split <;> rfl

theorem roundAt_snd_of_lt (h : e < q) : (roundAt d neg m e q).2 = (m % 2 ^ (q - e).toNat != 0) := by
  rw [roundAt, if_neg (Int.not_le.2 h)]

/-- The multiple above: the one below, or the next where something is left over. -/
theorem add_sub_one_div (m : Nat) {u : Nat} (hu : 0 < u) : (m + u - 1) / u = m / u + if m % u ≠ 0 then 1 else 0 := by
  have hm := Nat.div_add_mod' m u
  have hr := Nat.mod_lt m hu
  rw [Nat.div_eq_iff hu, Nat.add_mul]
  split <;> omega

theorem roundAt_zero (h : e < q) : (roundAt .zero neg m e q).1 = m / 2 ^ (q - e).toNat := by
  simp [roundAt_fst_of_lt h]

/-- Toward −∞: a negative magnitude goes to the multiple above, another to the one below. -/
theorem roundAt_down (h : e < q) : (roundAt .down neg m e q).1 =
    if neg then (m + 2 ^ (q - e).toNat - 1) / 2 ^ (q - e).toNat else m / 2 ^ (q - e).toNat := by
  rw [roundAt_fst_of_lt h, add_sub_one_div m (Nat.two_pow_pos _)]
  cases neg <;> simp

/-- Toward +∞: the other way round. -/
theorem roundAt_up (h : e < q) : (roundAt .up neg m e q).1 =
    if neg then m / 2 ^ (q - e).toNat else (m + 2 ^ (q - e).toNat - 1) / 2 ^ (q - e).toNat := by
  rw [roundAt_fst_of_lt h, add_sub_one_div m (Nat.two_pow_pos _)]
  cases neg <;> simp

/-- To nearest: within half a quantum `u` of the number, and the even multiple where it lies half-way. -/
theorem roundAt_near {u : Nat} (h : e < q) (hu : u = 2 ^ (q - e).toNat) :
    2 * ((roundAt .near neg m e q).1 * u - m) ≤ u ∧ 2 * (m - (roundAt .near neg m e q).1 * u) ≤ u ∧
      (2 * ((roundAt .near neg m e q).1 * u - m) = u ∨ 2 * (m - (roundAt .near neg m e q).1 * u) = u →
        (roundAt .near neg m e q).1 % 2 = 0) := by
  have hhalf : u = 2 * 2 ^ ((q - e).toNat - 1) := by
    rw [hu, Nat.mul_comm, ← Nat.pow_succ]
    congr 1
    omega
  have hm := Nat.div_add_mod' m u
  have hr := Nat.mod_lt m (hu ▸ Nat.two_pow_pos _ : 0 < u)
  rw [roundAt_fst_of_lt h, ← hu]
  split
  case isTrue hup =>
    rw [incr_near, beq_iff_eq] at hup
    rw [Nat.add_mul, Nat.one_mul]
    omega
  case isFalse hstay =>
    rw [incr_near, beq_iff_eq] at hstay
    rw [Nat.add_zero]
    omega

end

/-! ### The fields of an encoding (R173) -/

section
variable {f : Fmt} {v : Nat}

/-- The sign bit in its place. -/
def signPart (f : Fmt) (neg : Bool) : Nat := if neg then 2 ^ (f.ew + f.fw) else 0

/-- An encoding is its sign, exponent and fraction, each in its place. -/
theorem encoding_eq_fields (hv : v < 2 ^ (1 + f.ew + f.fw)) :
    signPart f (f.sign v) + (bits v f.fw f.ew * 2 ^ f.fw + bits v 0 f.fw) = v := by
  have hmag : bits v f.fw f.ew * 2 ^ f.fw + bits v 0 f.fw = v % 2 ^ (f.ew + f.fw) := by
    rw [bits, bits, Nat.shiftRight_zero, Nat.shiftRight_eq_div_pow, Nat.add_comm f.ew, Nat.pow_add, Nat.mod_mul,
      Nat.add_comm, Nat.mul_comm]
  have hsign : signPart f (f.sign v) = 2 ^ (f.ew + f.fw) * (v / 2 ^ (f.ew + f.fw)) := by
    have htop : v / 2 ^ (f.ew + f.fw) < 2 := by
      rwa [Nat.div_lt_iff_lt_mul (Nat.two_pow_pos _), ← Nat.pow_succ', ← Nat.add_one, Nat.add_comm, ← Nat.add_assoc]
    rw [signPart, Fmt.sign, Nat.testBit_eq_decide_div_mod_eq, Nat.mod_eq_of_lt htop]
    obtain h | h := Nat.le_one_iff_eq_zero_or_eq_one.1 (Nat.le_of_lt_succ htop)
    · rw [h]; rfl
    · rw [h, Nat.mul_one]; rfl
  rw [hmag, hsign, Nat.div_add_mod]

/-- A finite encoding is a subnormal one, or a normal one with the hidden bit. -/
theorem decode_eq_fin {neg : Bool} {m : Nat} {e : Int} (h : f.decode v = .fin neg m e) :
    neg = f.sign v ∧ bits v f.fw f.ew ≠ 2 ^ f.ew - 1 ∧
      (bits v f.fw f.ew = 0 ∧ m = bits v 0 f.fw ∧ e = 1 - (f.bias : Int) - f.fw ∨
        bits v f.fw f.ew ≠ 0 ∧ m = bits v 0 f.fw + 2 ^ f.fw ∧ e = (bits v f.fw f.ew : Int) - f.bias - f.fw) := by
  rw [Fmt.decode] at h
  split at h
  case isTrue => split at h <;> cases h
  case isFalse hfin =>
    split at h
    case isTrue hsub => cases h; exact ⟨rfl, hfin, .inl ⟨hsub, rfl, rfl⟩⟩
    case isFalse hnorm => cases h; exact ⟨rfl, hfin, .inr ⟨hnorm, rfl, rfl⟩⟩

end

/-! ### Rounding to a format (R174) -/

theorem round_zero (f : Fmt) (d : Dir) (neg : Bool) (e : Int) : f.round d neg 0 e = (signPart f neg, 0) := by
  unfold Fmt.round signPart
  exact if_pos rfl

/-- A number whose own exponent is the quantum of the format at its place, and whose magnitude is below infinity, is encoded as it is. -/
theorem round_of_exact {f : Fmt} {d : Dir} {neg : Bool} {m : Nat} {e : Int} (hm : m ≠ 0)
    (hq : max ((Nat.log2 m : Int) + e) (1 - (f.bias : Int)) - f.fw = e)
    (hfit : (e - (1 - (f.bias : Int) - f.fw)).toNat * 2 ^ f.fw + m < (2 ^ f.ew - 1) * 2 ^ f.fw) :
    f.round d neg m e = (signPart f neg + ((e - (1 - (f.bias : Int) - f.fw)).toNat * 2 ^ f.fw + m), 0) := by
  have hexact : roundAt d neg m e e = (m, false) := by rw [roundAt_of_le (Int.le_refl e), Int.sub_self, Int.toNat_zero, Nat.pow_zero, Nat.mul_one]
  unfold Fmt.round
  simp only [if_neg hm, hq, hexact]
  rw [if_neg (Nat.not_le.2 hfit)]
  rfl

/-- R173, R174: a finite value of a format, a subnormal included, is rounded to its own encoding with no flag. -/
theorem round_decode {f : Fmt} {v : Nat} (hv : v < 2 ^ (1 + f.ew + f.fw)) {neg : Bool} {m : Nat} {e : Int}
    (h : f.decode v = .fin neg m e) (d : Dir) : f.round d neg m e = (v, 0) := by
  obtain ⟨rfl, hinf, hcase⟩ := decode_eq_fin h
  have hfields := encoding_eq_fields hv
  have hfrac : bits v 0 f.fw < 2 ^ f.fw := Nat.mod_lt _ (Nat.two_pow_pos _)
  have hexp : bits v f.fw f.ew < 2 ^ f.ew := Nat.mod_lt _ (Nat.two_pow_pos _)
  have hfit : bits v f.fw f.ew * 2 ^ f.fw + bits v 0 f.fw < (2 ^ f.ew - 1) * 2 ^ f.fw :=
    calc _ < (bits v f.fw f.ew + 1) * 2 ^ f.fw := by rw [Nat.add_mul]; omega
      _ ≤ _ := Nat.mul_le_mul_right _ (by omega)
  rcases hcase with ⟨hsub, rfl, rfl⟩ | ⟨hnorm, rfl, rfl⟩
  · by_cases hm : bits v 0 f.fw = 0
    · rw [hm, round_zero]
      simpa [hsub, hm] using hfields
    · have hlog : Nat.log2 (bits v 0 f.fw) < f.fw := (Nat.log2_lt hm).2 hfrac
      have hplace : (1 - (f.bias : Int) - f.fw - (1 - (f.bias : Int) - f.fw)).toNat = bits v f.fw f.ew := by omega
      rw [round_of_exact hm (by omega), hplace, hfields]
      rwa [hplace]
  · have hlog : Nat.log2 (bits v 0 f.fw + 2 ^ f.fw) = f.fw := by
      rw [Nat.log2_eq_iff (by omega), Nat.pow_succ]
      omega
    have hplace : ((bits v f.fw f.ew : Int) - f.bias - f.fw - (1 - (f.bias : Int) - f.fw)).toNat * 2 ^ f.fw +
        (bits v 0 f.fw + 2 ^ f.fw) = bits v f.fw f.ew * 2 ^ f.fw + bits v 0 f.fw := by
      obtain ⟨b, hb⟩ := Nat.exists_eq_succ_of_ne_zero hnorm
      rw [hb, show ((b.succ : Int) - f.bias - f.fw - (1 - (f.bias : Int) - f.fw)).toNat = b by omega, Nat.succ_mul]
      omega
    rw [round_of_exact (by omega) (by rw [hlog]; omega), hplace, hfields]
    rwa [hplace]

/-! ### The statement -/

/-- Settles O26: a multiple already is exact, each direction's choice of the two multiples otherwise, and a finite encoding
rounded to itself, which holds of every format. -/
theorem rounding : Obligations.Rounding :=
  ⟨fun _ m _ _ => ⟨fun hle _ => roundAt_of_le hle, fun hlt =>
      ⟨fun _ => by rw [roundAt_snd_of_lt hlt, bne_iff_ne], roundAt_zero hlt, roundAt_down hlt, roundAt_up hlt, roundAt_near hlt rfl⟩⟩,
    fun _ _ _ hv _ _ _ hdec d => round_decode hv hdec d⟩

end Sys2Proof.FloatRounding
end

section
/-! SUPPORT. The formats written again from what is read of them: the fields of a word's bits make up that word (R205 to R209), and the
four bytes of a word make up that word (R7). -/

namespace Sys2Proof.Encoding

open Sys2Proof Sys2Proof.Laws

/-! ### Words of fields -/

theorem ofBool_getLsbD {n : Nat} (w : BitVec n) (k : Nat) : BitVec.ofBool (w.getLsbD k) = w.extractLsb' k 1 := by
  ext i hi
  obtain rfl : i = 0 := by omega
  simp

/-- The operand fields of the 64-bit format, with its opcode and its length, are the whole of its bits (R206). -/
theorem op_toBits_ofBits (w : BitVec 64) (lit : Option Word) :
    (Op.ofBits w lit).toBits (w.extractLsb' 2 8).toNat (w.extractLsb' 0 2) = w := by
  simp (disch := rfl) only [Op.toBits, Op.ofBits, BitVec.ofNat_toNat, BitVec.setWidth_eq, ofBool_getLsbD,
    BitVec.extractLsb'_append_extractLsb'_eq_extractLsb']
  exact BitVec.extractLsb'_eq_self

/-- The operand fields of the memory format, with its opcode and its length, are the whole of its bits (R208). -/
theorem memOp_toBits_ofBits (w : BitVec 64) (ext : Option Word) :
    (MemOp.ofBits w ext).toBits (w.extractLsb' 2 8).toNat (w.extractLsb' 0 2) = w := by
  simp (disch := rfl) only [MemOp.toBits, MemOp.ofBits, BitVec.ofNat_toNat, BitVec.setWidth_eq, ofBool_getLsbD,
    BitVec.extractLsb'_append_extractLsb'_eq_extractLsb']
  exact BitVec.extractLsb'_eq_self

/-- The extension word has no bit outside its fields, its reserved field included (R209). -/
@[simp] theorem memExt_toBits_ofBits (w : Word) : (MemExt.ofBits w).toBits = w := by
  simp (disch := rfl) only [MemExt.toBits, MemExt.ofBits, ofBool_getLsbD, BitVec.extractLsb'_append_extractLsb'_eq_extractLsb']
  exact BitVec.extractLsb'_eq_self

/-- The length code of a word is its two low bits (R202). -/
theorem lenCode_eq {w : Word} {code : BitVec 2} (h : w.toNat % 4 = code.toNat) : w.extractLsb' 0 2 = code :=
  BitVec.eq_of_toNat_eq ((low_two w).symm.trans h)

/-- A word whose length code is 00b is the word of its three fields and its opcode (R205). -/
theorem short_of_fields {w : Word} (h : w.toNat % 4 = 0) :
    short (opcodeOf w) (w.extractLsb' 10 8) (w.extractLsb' 18 8) (w.extractLsb' 26 6) = w := by
  have hlen : (0 : BitVec 2) = w.extractLsb' 0 2 := (lenCode_eq h).symm
  simp (disch := rfl) only [short, opcodeOf, hlen, BitVec.ofNat_toNat, BitVec.setWidth_eq,
    BitVec.extractLsb'_append_extractLsb'_eq_extractLsb']
  exact BitVec.extractLsb'_eq_self

/-! ### Words of bytes -/

theorem wordOfBytes_bytesOfWord (w : Word) :
    wordOfBytes (w.extractLsb' 0 8) (w.extractLsb' 8 8) (w.extractLsb' 16 8) (w.extractLsb' 24 8) = w := by
  simp (disch := rfl) only [wordOfBytes, BitVec.extractLsb'_append_extractLsb'_eq_extractLsb']
  exact BitVec.extractLsb'_eq_self

@[simp] theorem wordsOfBytes_bytesOfWord (ws : List Word) : wordsOfBytes (ws.flatMap bytesOfWord) = ws := by
  induction ws with
  | nil => rfl
  | cons w ws ih => exact List.cons_eq_cons.2 ⟨wordOfBytes_bytesOfWord w, ih⟩

end Sys2Proof.Encoding
end

section
/-! SUPPORT. Decoding and encoding are inverse: every instruction with an encoding is read back from its words, and an instruction that
is read from words is encoded as those words. -/

namespace Sys2Proof.Encoding

open Sys2Proof Sys2Proof.Laws

/-! ### What decodes, and what is well formed -/

theorem wellFormed_iff (i : Instr) : i.wellFormed = true ↔ i.isEvent = false ∧ i.cause none = none := by
  rw [Instr.wellFormed, Bool.and_eq_true, Bool.not_eq_true', Option.isNone_iff_eq_none]

theorem decode_eq_ok_iff (ws : List Word) (i : Instr) : decode ws = .ok i ↔ decodeFields ws = .ok i ∧ i.cause none = none := by
  rw [decode]
  cases decodeFields ws with
  | error r => simp
  | ok j =>
    cases hc : j.cause none with
    | none =>
      simp only [hc, Except.ok.injEq]
      exact ⟨fun hij => ⟨hij, hij ▸ hc⟩, And.left⟩
    | some n =>
      simp only [hc, reduceCtorEq, Except.ok.injEq, false_iff]
      rintro ⟨rfl, hnone⟩
      rw [hc] at hnone
      cases hnone

/-! ### From the instruction to its words and back -/

/-- R205 to R209: whatever the values of its fields, an instruction with an encoding is read back from its words. -/
theorem decodeFields_encode (i : Instr) : RoundTrip.Statement i :=
  Instr.casesOn i RoundTrip.nop RoundTrip.saddShort RoundTrip.ssubShort RoundTrip.sshlShort RoundTrip.sshrShort RoundTrip.smovShort
    RoundTrip.vmovShort RoundTrip.yield RoundTrip.exit RoundTrip.join RoundTrip.bktOpen RoundTrip.bktClose RoundTrip.ret RoundTrip.tret
    RoundTrip.bkpt RoundTrip.bar RoundTrip.ornd RoundTrip.dpark RoundTrip.dresume RoundTrip.dprune RoundTrip.gbar RoundTrip.lfree
    RoundTrip.sadd RoundTrip.ssub RoundTrip.smul RoundTrip.smulh RoundTrip.sand RoundTrip.sor RoundTrip.sxor RoundTrip.sshl RoundTrip.sshr
    RoundTrip.ssar RoundTrip.smin RoundTrip.smax RoundTrip.ssel RoundTrip.scmp RoundTrip.sbfe RoundTrip.sclz RoundTrip.spopc
    RoundTrip.saddp RoundTrip.ssubp RoundTrip.sshlp RoundTrip.smov RoundTrip.plop RoundTrip.qlop RoundTrip.pmask RoundTrip.pset
    RoundTrip.sysr RoundTrip.sysw RoundTrip.trap RoundTrip.waitEng RoundTrip.hwait RoundTrip.htest RoundTrip.hcancel RoundTrip.hpass
    RoundTrip.bra RoundTrip.brc RoundTrip.brd RoundTrip.call RoundTrip.brx RoundTrip.callx RoundTrip.draw RoundTrip.vadd RoundTrip.vsub
    RoundTrip.vmul RoundTrip.vmulh RoundTrip.vmad RoundTrip.vand RoundTrip.vor RoundTrip.vxor RoundTrip.vshl RoundTrip.vshr RoundTrip.vsar
    RoundTrip.vmin RoundTrip.vmax RoundTrip.vabs RoundTrip.vneg RoundTrip.vadds RoundTrip.vsubs RoundTrip.vclz RoundTrip.vpopc
    RoundTrip.vbfe RoundTrip.vbfi RoundTrip.vsel RoundTrip.vmov RoundTrip.vcmp RoundTrip.vcvt RoundTrip.vsibget RoundTrip.vsibmean
    RoundTrip.vdigs RoundTrip.vnot RoundTrip.vfadd RoundTrip.vfsub RoundTrip.vfmul RoundTrip.vfma RoundTrip.vfdiv RoundTrip.vfsqrt
    RoundTrip.vfmin RoundTrip.vfmax RoundTrip.vfabs RoundTrip.vfneg RoundTrip.vfcps RoundTrip.vfcmp RoundTrip.vfrcp RoundTrip.vfrcpr
    RoundTrip.vfrsq RoundTrip.vfrsqr RoundTrip.vexp2 RoundTrip.vexp2r RoundTrip.vlog2 RoundTrip.vlog2r RoundTrip.vsin RoundTrip.vsinr
    RoundTrip.vcos RoundTrip.vcosr RoundTrip.vtanh RoundTrip.vtanhr RoundTrip.vnfadd RoundTrip.vnfmul RoundTrip.vnffma RoundTrip.vnfpack
    RoundTrip.vnfunpk RoundTrip.vqblk RoundTrip.vti RoundTrip.vgmm RoundTrip.vshfl RoundTrip.vbcast RoundTrip.vscan RoundTrip.vred
    RoundTrip.vote RoundTrip.ballot RoundTrip.regrp RoundTrip.vgf2mm RoundTrip.vbdep RoundTrip.vbext RoundTrip.vbperm RoundTrip.lbind
    RoundTrip.ladd RoundTrip.lsub RoundTrip.lmuls RoundTrip.lshl RoundTrip.lshr RoundTrip.lcmp RoundTrip.lcarry RoundTrip.ldVV
    RoundTrip.ldVS RoundTrip.ldSS RoundTrip.stVV RoundTrip.stVS RoundTrip.stSS RoundTrip.prfV RoundTrip.prfS RoundTrip.atomVV
    RoundTrip.atomVS RoundTrip.atomSS RoundTrip.atomrVV RoundTrip.atomrVS RoundTrip.atomrSS RoundTrip.casVV RoundTrip.casVS
    RoundTrip.casSS RoundTrip.oatomVV RoundTrip.oatomVS RoundTrip.cpy RoundTrip.cpywp RoundTrip.binit RoundTrip.bwait RoundTrip.trigPost
    RoundTrip.trigCancel RoundTrip.trigRead RoundTrip.trigAdd RoundTrip.mldb RoundTrip.mlda RoundTrip.mma RoundTrip.mzero RoundTrip.mdrain
    RoundTrip.mstat RoundTrip.vocabStream RoundTrip.vocabRegen RoundTrip.vmeld RoundTrip.vheaprd RoundTrip.loadReturn
    RoundTrip.producerFill RoundTrip.limbLanding RoundTrip.storeAck RoundTrip.atomicPerform RoundTrip.fetchBlockArrive
    RoundTrip.pageWalkComplete RoundTrip.heldRecordWrite RoundTrip.invalidateRange RoundTrip.replay RoundTrip.cancelLaunch
    RoundTrip.migrate RoundTrip.migrationComplete RoundTrip.pinHoldExpiry RoundTrip.submissionTailWrite RoundTrip.reservationTimeout
    RoundTrip.launchComplete RoundTrip.oatomUpdateAccept RoundTrip.roundClose RoundTrip.roundApply RoundTrip.roundWordWrite
    RoundTrip.regrpFuse RoundTrip.copyAccept RoundTrip.copyStep RoundTrip.copyComplete RoundTrip.matrixOpComplete
    RoundTrip.vocabTileCommit RoundTrip.triggerRaise RoundTrip.postedTransferComplete RoundTrip.remoteIncrement RoundTrip.fabricPacket
    RoundTrip.fabricAck RoundTrip.streamEndMark RoundTrip.streamAbortMark RoundTrip.endToEndTimeout RoundTrip.hwmEntryExpiry
    RoundTrip.linkFlitCrcError RoundTrip.drainTokenReturn RoundTrip.idtabWrite RoundTrip.preemptGang RoundTrip.preemptLaunch
    RoundTrip.preemptSaveDone RoundTrip.dbgStop RoundTrip.dbgResume RoundTrip.dbgStep RoundTrip.ctrclr RoundTrip.watchResume
    RoundTrip.sampleTick RoundTrip.hostSnoop RoundTrip.bar2Access RoundTrip.cxlLinkTraining RoundTrip.supplyDroop RoundTrip.supplyRecovery
    RoundTrip.firmwareBoot RoundTrip.spdmRequest RoundTrip.registerWrite RoundTrip.partitionCycle RoundTrip.cxlMemAccess
    RoundTrip.remoteReadRequest RoundTrip.damhedanLinkTraining RoundTrip.damhedanLinkDown RoundTrip.invalidateAsid RoundTrip.invalidateAll
    RoundTrip.invalidationDone RoundTrip.launchAccept RoundTrip.gangPlacement RoundTrip.drawAnswer RoundTrip.drain
    RoundTrip.mbReadCrewState RoundTrip.mbWriteRegister

/-- Settles O1: the words are read back from their bytes, the fields from the words, and a well-formed instruction has no cause that
would refuse them. -/
theorem decodeEncode : Obligations.DecodeEncode := by
  unfold Obligations.DecodeEncode
  intro i hi
  obtain ⟨hinstr, hcause⟩ := (wellFormed_iff i).1 hi
  rw [decodeBytes, wordsOfBytes_bytesOfWord, decode_eq_ok_iff]
  exact ⟨decodeFields_encode i hinstr, hcause⟩

/-! ### From words to the instruction and back -/

/-- The instruction of an opcode has the row of that opcode in the operand tables, and the operand fields it was made of (R217). -/
theorem row_of_ofOp {n : Nat} {o : Op} {i : Instr} (h : Instr.ofOp n o = some i) :
    (∃ r, i.row = some r ∧ r.opcode = n) ∧ i.op? = some o ∧ i.isEvent = false := by
  unfold Instr.ofOp at h
  split at h
  all_goals cases h
  all_goals exact ⟨⟨_, rfl, rfl⟩, rfl, rfl⟩

/-- The same of a memory opcode, whose instruction has no row in the other tables (R217, R308). -/
theorem memRow_of_ofMem {n : Nat} {o : MemOp} {i : Instr} (h : Instr.ofMem n o = some i) :
    (∃ r, i.memRow = some r ∧ r.opcode = n) ∧ i.mem? = some o ∧ i.row = none ∧ i.isEvent = false := by
  unfold Instr.ofMem at h
  split at h
  all_goals cases h
  all_goals exact ⟨⟨_, rfl, rfl⟩, rfl, rfl, rfl⟩

/-- The length code of a longer format: 10b with a literal or an extension word, 01b without (R202). -/
def longCode (ext : Option Word) : BitVec 2 := if ext.isSome then 2 else 1

/-- The words of a longer format: the two of its first 64 bits, and the third if there is one (R202). -/
def longWords (w : BitVec 64) (ext : Option Word) : List Word := w.extractLsb' 0 32 :: w.extractLsb' 32 32 :: ext.toList

theorem encode_of_op {i : Instr} {r : Row} {o : Op} (hr : i.row = some r) (ho : i.op? = some o) :
    encode i = longWords (o.toBits r.opcode (longCode o.lit)) o.lit := by
  simp only [encode, hr, ho]
  cases o.lit <;> rfl

theorem encode_of_mem {i : Instr} {r : MemRow} {o : MemOp} (hn : i.row = none) (hr : i.memRow = some r) (ho : i.mem? = some o) :
    encode i = longWords (o.toBits r.opcode (longCode (o.ext.map MemExt.toBits))) (o.ext.map MemExt.toBits) := by
  simp only [encode, hn, hr, ho]
  cases o.ext <;> rfl

theorem encode_of_short {i : Instr} {w : Word} (hn : i.row = none) (hm : i.memRow = none) (he : encodeShort i = some w) :
    encode i = [w] := by
  simp only [encode, hn, hm, he, Option.toList]

/-- An instruction read from a longer format has that format's words (R206, R208). -/
theorem encode_of_decodeLong {w : BitVec 64} {ext : Option Word} {i : Instr} (h : decodeLong w ext = .ok i)
    (hlen : w.extractLsb' 0 2 = longCode ext) : i.isEvent = false ∧ encode i = longWords w ext := by
  unfold decodeLong at h
  dsimp only at h
  split at h
  case isTrue => cases h
  case isFalse =>
    split at h
    case isTrue =>
      split at h <;> cases h
      case h_1 hi =>
        obtain ⟨⟨r, hr, hop⟩, ho, hn, he⟩ := memRow_of_ofMem hi
        have hext : (MemOp.ofBits w ext).ext.map MemExt.toBits = ext := by
          cases ext <;> simp [MemOp.ofBits]
        refine ⟨he, ?_⟩
        rw [encode_of_mem hn hr ho, hext, hop, ← hlen, memOp_toBits_ofBits]
    case isFalse =>
      split at h <;> cases h
      case h_1 hi =>
        obtain ⟨⟨r, hr, hop⟩, ho, he⟩ := row_of_ofOp hi
        have hlit : (Op.ofBits w ext).lit = ext := rfl
        refine ⟨he, ?_⟩
        rw [encode_of_op hr ho, hlit, hop, ← hlen, op_toBits_ofBits]

theorem guarded_eq_ok_iff {p : Prop} [Decidable p] {x i : Instr} {r : Reject} :
    (if p then Except.ok x else Except.error r) = Except.ok i ↔ p ∧ x = i := by
  split
  case isTrue hp => simp [hp]
  case isFalse hp => simp [hp]

/-- An instruction read from a word of the 32-bit format has the word of that word's fields: those that it does not name are zero (R205,
R218). -/
theorem encodeShort_of_decodeShort {w : Word} {i : Instr} (h : decodeShort w = .ok i) :
    encodeShort i = some (short (opcodeOf w) (w.extractLsb' 10 8) (w.extractLsb' 18 8) (w.extractLsb' 26 6)) ∧
      i.row = none ∧ i.memRow = none ∧ i.isEvent = false := by
  unfold decodeShort at h
  dsimp only at h
  generalize opcodeOf w = n, w.extractLsb' 10 8 = d, w.extractLsb' 18 8 = sa, w.extractLsb' 26 6 = b6 at h ⊢
  split at h
  case h_23 => cases h
  -- The four with an immediate name every field; the others hold only when what they do not name is zero.
  case h_2 | h_3 | h_4 | h_5 =>
    cases h
    exact ⟨rfl, rfl, rfl, rfl⟩
  all_goals
    obtain ⟨hzero, rfl⟩ := guarded_eq_ok_iff.1 h
    simp only [Bool.and_eq_true, beq_iff_eq] at hzero
    refine ⟨?_, rfl, rfl, rfl⟩
    simp only [hzero]
    rfl

theorem encode_of_decodeShort {w : Word} {i : Instr} (h : decodeShort w = .ok i) (hlen : w.toNat % 4 = 0) :
    i.isEvent = false ∧ encode i = [w] := by
  obtain ⟨he, hn, hm, hi⟩ := encodeShort_of_decodeShort h
  rw [short_of_fields hlen] at he
  exact ⟨hi, encode_of_short hn hm he⟩

/-- The first word tells how many words its instruction has (R202). -/
theorem low_two_of_lenWords {w : Word} {n : Nat} (h : lenWords w = some n) : w.toNat % 4 + 1 = n := by
  unfold lenWords at h
  split at h <;> cases h
  all_goals simp [*]

/-- The two words that make up the first 64 bits of a longer format. -/
theorem longWords_append (w1 w : Word) (ext : Option Word) : longWords (w1 ++ w) ext = w :: w1 :: ext.toList := by
  rw [longWords, BitVec.extractLsb'_append_eq_right, BitVec.extractLsb'_append_eq_left]

theorem lenCode_append {w1 w : Word} {code : BitVec 2} (h : w.toNat % 4 = code.toNat) : (w1 ++ w).extractLsb' 0 2 = code := by
  rw [BitVec.extractLsb'_append_eq_of_add_le (by decide)]
  exact lenCode_eq h

/-- The words that an instruction is read from begin with its encoding; what follows them says nothing of it (R202, R204). -/
theorem begins_of_decodeFields {ws : List Word} {i : Instr} (h : decodeFields ws = .ok i) :
    i.isEvent = false ∧ ∃ rest, ws = encode i ++ rest := by
  unfold decodeFields at h
  split at h
  case h_1 => cases h
  case h_2 w rest =>
    split at h
    case h_1 => cases h
    case h_2 n hn =>
      have hlow := low_two_of_lenWords hn
      split at h
      case isTrue => cases h
      case isFalse =>
        split at h
        case h_1 =>
          split at h
          case isTrue =>
            obtain ⟨hi, he⟩ := encode_of_decodeShort h (by omega)
            exact ⟨hi, rest, he ▸ rfl⟩
          case isFalse => cases h
        case h_2 w1 rest =>
          obtain ⟨hi, he⟩ := encode_of_decodeLong h (lenCode_append (code := 1) (Nat.succ.inj hlow))
          rw [longWords_append] at he
          exact ⟨hi, rest, he ▸ rfl⟩
        case h_3 w1 w2 rest =>
          obtain ⟨hi, he⟩ := encode_of_decodeLong h (lenCode_append (code := 2) (Nat.succ.inj hlow))
          rw [longWords_append] at he
          exact ⟨hi, rest, he ▸ rfl⟩
        case h_4 => cases h

/-- Settles O2: the fields of an instruction and the words they are read from determine each other. -/
theorem oneMeaningPerWord : Obligations.OneMeaningPerWord := by
  unfold Obligations.OneMeaningPerWord
  intro ws i h
  obtain ⟨hfields, hcause⟩ := (decode_eq_ok_iff ws i).1 h
  obtain ⟨hinstr, rest, rfl⟩ := begins_of_decodeFields hfields
  exact ⟨(wellFormed_iff i).2 ⟨hinstr, hcause⟩, List.take_left⟩

/-- Settles O3: each word evaluated. -/
theorem decodeWords : Obligations.DecodeWords :=
  ⟨rfl, rfl, rfl, rfl, rfl, rfl, rfl, rfl, rfl, rfl⟩

end Sys2Proof.Encoding
end

section
/-! SUPPORT. Illegal encodings (R203, R204): words that are no instruction, and instructions that their issuer may not issue, take one
trap at their address. -/

namespace Sys2Proof.Encoding

open Sys2Proof Sys2Proof.Machine Sys2Proof.Safety Sys2Proof.Laws

section
variable {s : State} {iss : Issuer} {u : UnitSt}

/-- With a slot chosen to issue, the step is that slot's. -/
theorem step_of_issuer (hiss : s.issuer = some iss) : step s = s.issueStep := by
  rw [step, hiss]

/-- Words that are no instruction show the cause that rejects them, but for an instruction that crosses its fetch block. -/
theorem rejectCause_of_whole (cx : Option EncCtx) (ws : List Word) {r : Reject} (hr : r ≠ .truncated) : rejectCause cx ws r = r.cause := by
  unfold rejectCause
  split
  · exact absurd rfl hr
  · rfl

/-- What the chosen slot finds at an address where the words are no instruction and no breakpoint comes first. -/
theorem fetched_of_reject (hiss : s.issuer = some iss) (hu : s.unit? iss.unit = some u)
    (hbrk : (u.slot iss.slot).skipBp = true ∨ s.breakAt iss.unit (u.slot iss.slot).pc = none) {b : FetchBlock}
    (hb : (u.slot iss.slot).block? (u.slot iss.slot).pc = some b) {r : Reject}
    (hr : decodeFields (b.words (u.slot iss.slot).pc) = .error r) :
    s.fetched = .bad (rejectCause (some (s.encCtx u)) (b.words (u.slot iss.slot).pc) r) (((b.words (u.slot iss.slot).pc).head?).getD 0) := by
  have hnone : (if (u.slot iss.slot).skipBp || !true then none else s.breakAt iss.unit (u.slot iss.slot).pc) = none := by
    obtain hskip | hoff := hbrk
    · simp [hskip]
    · simp [hoff]
  simp only [State.fetched, hiss, hu, hb, hr, hnone]

theorem fetchTrap_eq (hiss : s.issuer = some iss) (hu : s.unit? iss.unit = some u) (t : TrapInfo) :
    s.fetchTrap t = trapAt s (s.ctxOf .nop iss u) t := by
  simp only [State.fetchTrap, hiss, hu]
  rfl

/-- The gate refuses an illegal encoding before it looks at anything that the instruction would wait for. -/
theorem gate_of_illegal {i : Instr} {k : Nat} (hiss : s.issuer = some iss) (hu : s.unit? iss.unit = some u)
    (hp : (u.slot iss.slot).pendingOn = none) (hc : i.cause (some (s.encCtx u)) = some k) :
    s.gate i = .illegal (s.ctxOf i iss u) k := by
  have hslot : (s.ctxOf i iss u).slot = u.slot iss.slot := rfl
  simp only [State.gate, hiss, hu, hslot, hp, hc]

theorem issue_of_illegal {i : Instr} {c : Ctx} {k : Nat} (h : s.gate i = .illegal c k) (body : Ctx → State → Eff) :
    s.issue i body = .next (trapAt s c (illegalTrap k (firstWord i))) := by
  rw [State.issue, h]
  rfl

end

/-- Settles O5: what is no instruction traps as it is fetched, and what its issuer may not issue traps at the gate, which every
instruction goes through. -/
theorem illegalEncodings : Obligations.IllegalEncodings := by
  unfold Obligations.IllegalEncodings
  refine ⟨fun s iss u b r => ?words, fun s i iss u k hinstr hiss hu hp hc => ?instruction⟩
  case words =>
    intro pc hiss hu hbrk hb hr hwhole
    rw [step_of_issuer hiss, State.issueStep, fetched_of_reject hiss hu hbrk hb hr, rejectCause_of_whole _ _ hwhole]
    exact congrArg Host.Outcome.next (fetchTrap_eq hiss hu _)
  case instruction =>
    obtain ⟨body, hbody⟩ := exec_issue i s hinstr
    rw [hbody]
    exact issue_of_illegal (gate_of_illegal hiss hu hp hc) body

end Sys2Proof.Encoding
end
